-- ==== Sys2Proof/Word.lean ====
section
/-!
DEFINITION. Sys2Proof/Word.lean: the machine's words and bytes (R3, R4).
-/

namespace Sys2Proof

/-- A 64-bit word: a scalar register, an address while it is computed. -/
abbrev Word := BitVec 64

/-- A byte of memory. -/
abbrev Byte := BitVec 8

/-- A line tag: FMT, VC, LXP and reserved bits (R57). -/
abbrev Tag := BitVec 24

end Sys2Proof
end

