-- ==== Sys2Proof/Machine/Formats.lean ====
section
/-!
DEFINITION. Sys2Proof/Machine/Formats.lean: the element formats to the bit (chapter 04): decoding to exact values,
exact arithmetic on them, and the one rounding into a format with what then becomes of out-of-range results.
-/

namespace Sys2Proof.Machine

open Sys2Proof

/-- The formats of Table 4.1. -/
inductive Fmt where
  | raw | i8 | i16 | i32 | i64 | ob8 | ob4 | f32 | f16 | bf16 | e4m3 | e5m2 | e2m1 | s3m5 | se8 | zp8 | code
  deriving DecidableEq, Repr

/-- The format of a code (Table 4.1); none for a reserved code (R82). -/
def Fmt.ofCode (c : BitVec 6) : Option Fmt :=
  match c.toNat with
  | 0x00 => some .raw | 0x01 => some .i8 | 0x02 => some .i16 | 0x03 => some .i32 | 0x04 => some .i64
  | 0x06 => some .ob8 | 0x07 => some .ob4 | 0x10 => some .f32 | 0x11 => some .f16 | 0x12 => some .bf16
  | 0x13 => some .e4m3 | 0x14 => some .e5m2 | 0x15 => some .e2m1 | 0x18 => some .s3m5 | 0x19 => some .se8
  | 0x1A => some .zp8 | 0x20 => some .code | _ => none

/-- The code of a format (Table 4.1). -/
def Fmt.toCode : Fmt → BitVec 6
  | .raw => 0x00 | .i8 => 0x01 | .i16 => 0x02 | .i32 => 0x03 | .i64 => 0x04 | .ob8 => 0x06 | .ob4 => 0x07
  | .f32 => 0x10 | .f16 => 0x11 | .bf16 => 0x12 | .e4m3 => 0x13 | .e5m2 => 0x14 | .e2m1 => 0x15
  | .s3m5 => 0x18 | .se8 => 0x19 | .zp8 => 0x1A | .code => 0x20

/-- Element bits (Table 4.1). -/
def Fmt.width : Fmt → Nat
  | .i64 => 64
  | .i32 | .f32 => 32
  | .i16 | .f16 | .bf16 => 16
  | .raw | .i8 | .ob8 | .e4m3 | .e5m2 | .s3m5 | .se8 | .zp8 | .code => 8
  | .ob4 | .e2m1 => 4

/-- Float formats: those whose elements the line exponent scales (R58). -/
def Fmt.isFloat : Fmt → Bool
  | .f32 | .f16 | .bf16 | .e4m3 | .e5m2 | .e2m1 => true
  | .raw | .i8 | .i16 | .i32 | .i64 | .ob8 | .ob4 | .s3m5 | .se8 | .zp8 | .code => false

/-- Two's-complement and offset-binary formats. -/
def Fmt.isSigned : Fmt → Bool
  | .i8 | .i16 | .i32 | .i64 => true
  | .raw | .ob8 | .ob4 | .f32 | .f16 | .bf16 | .e4m3 | .e5m2 | .e2m1 | .s3m5 | .se8 | .zp8 | .code => false
def Fmt.isOffset : Fmt → Bool
  | .ob8 | .ob4 => true
  | .raw | .i8 | .i16 | .i32 | .i64 | .f32 | .f16 | .bf16 | .e4m3 | .e5m2 | .e2m1 | .s3m5 | .se8 | .zp8 | .code => false

/-- The arithmetic formats (R72). -/
def Fmt.isArith : Fmt → Bool
  | .f32 | .f16 | .bf16 | .e4m3 | .e5m2 | .e2m1 | .i8 | .i16 | .i32 | .ob8 | .ob4 => true
  | .raw | .i64 | .s3m5 | .se8 | .zp8 | .code => false

/-- Tag fields (Table 3.1). Bits [6:0] are ignored on a read and written zero (R59). -/
def tagFmt (t : Tag) : BitVec 6 := t.extractLsb' 18 6
def tagVc (t : Tag) : Nat := (t.extractLsb' 15 3).toNat
def tagLxp (t : Tag) : Nat := (t.extractLsb' 7 8).toNat
def mkTag (f : BitVec 6) (vc lxp : Nat) : Tag := f ++ BitVec.ofNat 3 vc ++ BitVec.ofNat 8 lxp ++ 0#7

/-- A tag word as a reader sees it: its bits [6:0] are ignored (R59). -/
def readTag (w : Nat) : Tag := BitVec.ofNat 24 w &&& 0xFFFF80

/-- Validity classes (Table 3.4). -/
def vcValid : Nat := 0
def vcZero : Nat := 1
def vcUndef : Nat := 2
def vcPoison : Nat := 3
def vcRecode : Nat := 4
def vcPending : Nat := 5
def vcForeign : Nat := 6

/-- POISON, or the reserved class that behaves as it (Table 3.4). -/
def vcPoisoned (v : Nat) : Bool := v = 3 || v = 7

/-- An exact value: (−1)^neg · m · 2^e, an infinity, or a NaN (quiet or signalling). -/
inductive FNum where
  | fin (neg : Bool) (m : Nat) (e : Int)
  | inf (neg : Bool)
  | nan (signalling : Bool)
  deriving DecidableEq, Repr

/-- Mantissa bits and bias of the float formats and S3M5 (Table 4.3). -/
def Fmt.mbits : Fmt → Nat
  | .f32 => 23 | .f16 => 10 | .bf16 => 7 | .e4m3 => 3 | .e5m2 => 2 | .e2m1 => 1 | .s3m5 => 5 | _ => 0
def Fmt.bias : Fmt → Int
  | .f32 => 127 | .f16 => 15 | .bf16 => 127 | .e4m3 => 7 | .e5m2 => 15 | .e2m1 => 1 | .s3m5 => 3 | _ => 0

/-- The encoding, sign aside, of the largest finite value (Table 4.3). -/
def Fmt.maxCode : Fmt → Nat
  | .f32 => 0x7F7FFFFF | .f16 => 0x7BFF | .bf16 => 0x7F7F | .e4m3 => 0x7E | .e5m2 => 0x7B | .e2m1 => 7
  | .s3m5 => 0xFF | _ => 0

/-- The encoding of +infinity, for a format that has one (Table 4.4). -/
def Fmt.infCode : Fmt → Option Nat
  | .f32 => some 0x7F800000 | .f16 => some 0x7C00 | .bf16 => some 0x7F80 | .e5m2 => some 0x7C | _ => none

/-- The canonical NaN, for a format that has NaNs (R88, Table 4.4). -/
def Fmt.nanCode : Fmt → Option Nat
  | .f32 => some 0x7FC00000 | .f16 => some 0x7E00 | .bf16 => some 0x7FC0 | .e4m3 => some 0x7F | .e5m2 => some 0x7E
  | _ => none

/-- The exponent of the least subnormal: 1 − bias − mantissa bits (R87). -/
def Fmt.emin (f : Fmt) : Int := 1 - f.bias - f.mbits

/-- Two to an integer power as a ratio: the factor above and the factor below. -/
def pow2up (e : Int) : Nat := 2 ^ e.toNat
def pow2down (e : Int) : Nat := 2 ^ (-e).toNat

/-- The exact value of an encoding (R87, R88, R89, R100, R102 with zero point 0), before any line exponent. SE8 and ZP8
bytes and untyped bytes read as their codes. -/
def decode (f : Fmt) (x : Nat) : FNum :=
  if f.isFloat || f = .s3m5 then
    let neg := f.isFloat && decide (x / 2 ^ (f.width - 1) % 2 = 1)
    let mag := if f.isFloat then x % 2 ^ (f.width - 1) else x % 2 ^ f.width
    let m := mag % 2 ^ f.mbits
    let e := mag / 2 ^ f.mbits
    if some mag = f.infCode then .inf neg
    else if mag > f.maxCode then
      .nan ((f = .f32 || f = .f16 || f = .bf16) && decide (m < 2 ^ (f.mbits - 1)))
    else if e = 0 then .fin neg m f.emin
    else .fin neg (2 ^ f.mbits + m) (f.emin + (e - 1 : Nat))
  else if f.isSigned then
    let v := x % 2 ^ f.width
    if v < 2 ^ (f.width - 1) then .fin false v 0 else .fin true (2 ^ f.width - v) 0
  else .fin false (x % 2 ^ f.width) 0

/-- Scale by 2^(lxp − 127); zeros, infinities and NaNs are unchanged (R58). -/
def FNum.scale (lxp : Nat) : FNum → FNum
  | .fin n m e => .fin n m (if m = 0 then e else e + ((lxp : Int) - 127))
  | .inf n => .inf n
  | .nan s => .nan s

/-- The value of an element under its row's or line's exponent: floats only are scaled (R58). -/
def readElem (f : Fmt) (lxp x : Nat) : FNum := if f.isFloat then (decode f x).scale lxp else decode f x

/-- The five rounding modes (Table 4.6). -/
inductive RMode where
  | rne | rna | rtz | rup | rdn
  deriving DecidableEq, Repr

/-- The mode of a code; a reserved code, which no register can hold (R255), reads as RNE. -/
def RMode.ofCode (c : Nat) : RMode :=
  match c with
  | 1 => .rna | 2 => .rtz | 3 => .rup | 4 => .rdn | _ => .rne

/-- The flags an operation raises (Tables 10.3, 10.4). -/
structure Flags where
  nv : Bool := false
  dz : Bool := false
  of : Bool := false
  uf : Bool := false
  nx : Bool := false
  deriving DecidableEq, Repr

def Flags.or (a b : Flags) : Flags :=
  { nv := a.nv || b.nv, dz := a.dz || b.dz, of := a.of || b.of, uf := a.uf || b.uf, nx := a.nx || b.nx }

/-- The flags as the low bits of fpmode and vstat. -/
def Flags.bits (f : Flags) : Nat :=
  (if f.nx then 1 else 0) + (if f.uf then 2 else 0) + (if f.of then 4 else 0) + (if f.dz then 8 else 0) +
    (if f.nv then 16 else 0)

/-- Whether to go to the neighbour farther from zero: k is the lower neighbour in units of the spacing, r/d the rest. -/
def roundsUp (md : RMode) (neg : Bool) (k r d : Nat) (tieUp : Bool) : Bool :=
  if r = 0 then false else
  match md with
  | .rne => decide (2 * r > d) || (decide (2 * r = d) && (decide (k % 2 = 1) || tieUp))
  | .rna => decide (2 * r ≥ d)
  | .rtz => false
  | .rup => !neg
  | .rdn => neg

/-- The floor of the binary logarithm of n/d, for n and d not 0. -/
def ratioLog2 (n d : Nat) : Int :=
  let l : Int := (n.log2 : Int) - d.log2
  if n * pow2down l < d * pow2up l then l - 1 else l

/-- Round the positive value n/d · 2^e into the values of a float format with unbounded exponent above (R92): the
encoding, sign aside, continued above the format's top, and whether it is inexact. Under RNE the E4M3 tie at 464 goes
to 480. -/
def roundMag (f : Fmt) (md : RMode) (neg : Bool) (n d : Nat) (e : Int) : Nat × Bool :=
  if n = 0 then (0, false) else
  let q := max (ratioLog2 n d + e - f.mbits) f.emin
  let num := n * pow2up (e - q)
  let den := d * pow2down (e - q)
  let k := num / den
  let r := num % den
  let up := roundsUp md neg k r den (f = .e4m3 && k = 14 && q = 5)
  ((q - f.emin).toNat * 2 ^ f.mbits + k + (if up then 1 else 0), decide (r ≠ 0))

/-- Round a ratio to an integer under the mode, sign aside (R101). -/
def roundInt (md : RMode) (neg : Bool) (n d : Nat) (e : Int) : Nat × Bool :=
  let num := n * pow2up e
  let den := d * pow2down e
  (num / den + (if roundsUp md neg (num / den) (num % den) den false then 1 else 0), decide (num % den ≠ 0))

/-- A format's sign bit. -/
def signBit (f : Fmt) (neg : Bool) : Nat := if neg && f.isFloat then 2 ^ (f.width - 1) else 0

/-- What an out-of-range or infinite result becomes: the code and whether it counts as an overflow (Table 4.7). -/
def overflowCode (f : Fmt) (md : RMode) (neg : Bool) : Nat :=
  match f.infCode with
  | none => f.maxCode
  | some i =>
    match md with
    | .rne | .rna => i
    | .rtz => f.maxCode
    | .rup => if neg then f.maxCode else i
    | .rdn => if neg then i else f.maxCode

/-- Finish an arithmetic result n/d · 2^e in a float format: round once, then Table 4.7 (R93). A format with infinities keeps IEEE
754, where an overflow is flagged and inexact (log entry 51, DEDUCED); in one without, the result is inexact only when rounding moved it (R92). -/
def finishRatio (f : Fmt) (md : RMode) (neg : Bool) (n d : Nat) (e : Int) : Nat × Flags :=
  let (c, nx) := roundMag f md neg n d e
  if c > f.maxCode then (signBit f neg + overflowCode f md neg, { of := true, nx := nx || f.infCode.isSome })
  else (signBit f neg + c, { nx := nx, uf := nx && decide (0 < c) && decide (c < 2 ^ f.mbits) })

/-- Finish an exact value in a float format as an arithmetic result: rounding and Table 4.7, and what NaNs and infinities
become (R88, R93). -/
def finish (f : Fmt) (md : RMode) (x : FNum) : Nat × Flags :=
  match x with
  | .fin neg m e => finishRatio f md neg m 1 e
  | .inf neg =>
    match f.infCode with
    | some i => (signBit f neg + i, {})
    | none => (signBit f neg + f.maxCode, { of := true })
  | .nan s =>
    match f.nanCode with
    | some c => (c, { nv := s })
    | none => (f.maxCode, { of := true, nv := true })

/-- Finish a narrowing write: round, then Sat (R94); the Bool is the overflow that Overflow() counts. -/
def satRatio (f : Fmt) (md : RMode) (neg : Bool) (n d : Nat) (e : Int) : Nat × Bool × Flags :=
  let (c, nx) := roundMag f md neg n d e
  if c > f.maxCode then (signBit f neg + f.maxCode, true, { nx := nx })
  else (signBit f neg + c, false, { nx := nx, uf := nx && decide (0 < c) && decide (c < 2 ^ f.mbits) })

/-- Sat of an exact value divided by 2^k (R94). -/
def satFloat (f : Fmt) (md : RMode) (x : FNum) (k : Int) : Nat × Bool × Flags :=
  match x with
  | .fin neg m e => satRatio f md neg m 1 (e - k)
  | .inf neg =>
    match f.infCode with
    | some i => (signBit f neg + i, false, {})
    | none => (signBit f neg + f.maxCode, true, {})
  | .nan s =>
    match f.nanCode with
    | some c => (c, false, { nv := s })
    | none => (f.maxCode, true, { nv := true })

/-- Clamp an integer into w bits, two's complement (R101) or unsigned (R103): the code, and whether it was clamped. -/
def clampCode (signed : Bool) (w : Nat) (v : Int) : Nat × Bool :=
  let lo : Int := if signed then -(2 ^ (w - 1) : Nat) else 0
  let hi : Int := if signed then (2 ^ (w - 1) : Nat) - 1 else (2 ^ w : Nat) - 1
  let u := if v < lo then lo else if hi < v then hi else v
  ((u % (2 ^ w : Nat)).toNat, decide (u ≠ v))

/-- Convert an exact value to an integer or offset-binary format, with a zero point (R101, R103): code, clamp counted,
flags. -/
def satInt (f : Fmt) (md : RMode) (x : FNum) (zp : Int) : Nat × Bool × Flags :=
  match x with
  | .fin neg m e =>
    let (a, nx) := roundInt md neg m 1 e
    let (c, o) := clampCode f.isSigned f.width ((if neg then -(a : Int) else a) + zp)
    (c, o, { nx := nx })
  | .inf neg => ((clampCode f.isSigned f.width (if neg then -(2 ^ 80 : Nat) else (2 ^ 80 : Nat))).1, true, {})
  | .nan _ => ((clampCode f.isSigned f.width (2 ^ 80 : Nat)).1, true, { nv := true })

/-- A conversion's result in any arithmetic format (R343): Sat for floats over 2^(lxp − 127), R101 and R103 for the
others with a zero point of 0. -/
def satTo (f : Fmt) (md : RMode) (lxp : Nat) (x : FNum) : Nat × Bool × Flags :=
  if f.isFloat then satFloat f md x ((lxp : Int) - 127) else satInt f md x 0

/-! Exact arithmetic (R72, R89, R90). The Bool is an invalid operation, or a signalling operand. -/

def FNum.neg : FNum → FNum
  | .fin n m e => .fin (!n) m e
  | .inf n => .inf (!n)
  | .nan s => .nan s

def FNum.isNan : FNum → Bool
  | .nan _ => true | .fin _ _ _ => false | .inf _ => false
def FNum.isSnan : FNum → Bool
  | .nan s => s | .fin _ _ _ => false | .inf _ => false
def FNum.isZero : FNum → Bool
  | .fin _ m _ => m = 0 | .inf _ => false | .nan _ => false
def FNum.isNeg : FNum → Bool
  | .fin n _ _ => n | .inf n => n | .nan _ => false
def FNum.abs : FNum → FNum
  | .fin _ m e => .fin false m e
  | .inf _ => .inf false
  | .nan s => .nan s

/-- A signed mantissa at exponent e0, which is not above the value's own. -/
def alignTo (n : Bool) (m : Nat) (e e0 : Int) : Int :=
  let a : Int := m * 2 ^ (e - e0).toNat
  if n then -a else a

/-- The exact sum; the sign of an exact zero is the mode's, unless both are zeros of like sign (R90). -/
def FNum.add (md : RMode) : FNum → FNum → FNum × Bool
  | .nan s, y => (.nan false, s || y.isSnan)
  | x, .nan s => (.nan false, s || x.isSnan)
  | .inf a, .inf b => if a = b then (.inf a, false) else (.nan false, true)
  | .inf a, .fin _ _ _ => (.inf a, false)
  | .fin _ _ _, .inf b => (.inf b, false)
  | .fin n m e, .fin n' m' e' =>
    if m = 0 && m' = 0 then (.fin (if n = n' then n else md = .rdn) 0 e, false)
    else
      let e0 := min e e'
      let v := alignTo n m e e0 + alignTo n' m' e' e0
      if v = 0 then (.fin (md = .rdn) 0 e0, false) else (.fin (decide (v < 0)) v.natAbs e0, false)

/-- The exact product (R89: 0 × ∞ is invalid). -/
def FNum.mul : FNum → FNum → FNum × Bool
  | .nan s, y => (.nan false, s || y.isSnan)
  | x, .nan s => (.nan false, s || x.isSnan)
  | .inf a, .inf b => (.inf (a ^^ b), false)
  | .inf a, .fin n m _ => if m = 0 then (.nan false, true) else (.inf (a ^^ n), false)
  | .fin n m _, .inf b => if m = 0 then (.nan false, true) else (.inf (n ^^ b), false)
  | .fin n m e, .fin n' m' e' => (.fin (n ^^ n') (m * m') (e + e'), false)

/-- a × b + c, exact; an invalid product is invalid whatever the addend (R280). -/
def FNum.fma (md : RMode) (a b c : FNum) : FNum × Bool :=
  let (p, i) := FNum.mul a b
  let (r, j) := FNum.add md p c
  (r, i || j)

/-- The order of two values, +0 and −0 equal; none when either is a NaN. -/
def FNum.cmp : FNum → FNum → Option Ordering
  | .nan _, _ => none
  | _, .nan _ => none
  | .inf a, .inf b => some (if a = b then .eq else if a then .lt else .gt)
  | .inf a, .fin _ _ _ => some (if a then .lt else .gt)
  | .fin _ _ _, .inf b => some (if b then .gt else .lt)
  | .fin n m e, .fin n' m' e' =>
    let e0 := min e e'
    some (compare (alignTo n m e e0) (alignTo n' m' e' e0))

/-- The lesser or the greater, −0 below +0; one quiet NaN gives the other operand, two NaNs or a signalling one give a
NaN (R281, R339). -/
def FNum.pick (greater : Bool) (x y : FNum) : FNum × Bool :=
  if x.isSnan || y.isSnan then (.nan false, true)
  else match x.isNan, y.isNan with
    | true, true => (.nan false, false)
    | true, false => (y, false)
    | false, true => (x, false)
    | false, false =>
      let less := match FNum.cmp x y with
        | some .lt => true
        | some .eq => x.isZero && x.isNeg
        | _ => false
      (if less = greater then y else x, false)

end Sys2Proof.Machine
end

