-- ==== Sys2Proof/Config.lean ====
section
/-!
DEFINITION. Sys2Proof/Config.lean: the part's fixed numbers (Tables 1.1, 1.3, 5.6) and the values the spec leaves open,
each an opaque constant, so that nothing can be proved about which value it is.
-/

namespace Sys2Proof.Config

/-- Kilns of the package, cores of a kiln, stokers of a core (R13, R14). -/
def kilns : Nat := 8
def coresPerKiln : Nat := 24
def cores : Nat := 192
def stokers : Nat := 4

/-- FREE VALUE (log entry 2, DESIGN CHOICE): the cycles that pass from one step to the next, besides the one in which it is taken;
the spec gives no cycle count for most steps. -/
opaque stepCycles : Nat → Nat

/-- FREE VALUE (log entry 14, DESIGN CHOICE): whether a read that no fence orders after a LAYER beat already sees the beat's bytes
(R220). -/
opaque layerSeen : Nat → Bool

/-- FREE VALUE (log entry 15, DESIGN CHOICE): the energy-management and snapshot contents that the spec leaves to the Management
Command Reference: the word a snapshot register of a block reads. -/
opaque snapshotWord : Nat → BitVec 64

/-- FREE VALUE (log entry 16, DESIGN CHOICE): the MAC field of a counter block or tree node, by the record, its parent's counter and the
step: its key is never released (R190). -/
opaque treeMac : Nat → Nat → Nat → BitVec 40

/-- FREE VALUE (log entry 52, DESIGN CHOICE): whether a core's cache evicts a sector at a request made at a step; the spec names
evictions (R168, R250) and no capacity or policy. -/
opaque evicts : Nat → Nat → Bool

end Sys2Proof.Config
end

