-- ==== Sys2Proof/Syntax.lean ====
section
/-!
DEFINITION. Sys2Proof/Syntax.lean: the instructions and the other agents' steps, one constructor for each row of
spec/opcode_table.json. An instruction carries its common fields (guards, hints, convoy and yield bits) and its operands
at their class widths (Tables 10.7, 10.8); a step of another agent carries the names of what it acts on.
-/

namespace Sys2Proof

/-- The fields every instruction word has beside its operands (Table 10.7): two guards, the hint, CB and YLD. -/
structure Ctl where
  g1 : BitVec 4 := 0
  g2 : BitVec 4 := 0
  hint : BitVec 2 := 0
  cb : Bool := false
  yld : Bool := false
  deriving DecidableEq, Repr

/-- Order kinds of fences and accesses (Tables 8.6, 12.2). -/
inductive Order where
  | rlx | acq | rel | acqrel | sc
  deriving DecidableEq, Repr

/-- Scopes (Table 8.3): nested ones from stream to system, then the three side scopes. -/
inductive Scope where
  | stream | task | core | cord | kiln | package | pod | host | system | fetch | layer | recode
  deriving DecidableEq, Repr

/-- The two forms of PBR (R287): a label relative to the PC, or a scalar register. -/
inductive PbrTarget where
  | rel (imm : BitVec 26)
  | reg (ra : BitVec 6)
  deriving DecidableEq, Repr

/-- The combining operation of an atomic (R302). -/
inductive AtomOp where
  | add | and | or | xor | min | max | minu | maxu | swp | cas
  deriving DecidableEq, Repr

/-- What a host or peer requester asks of a location (R223, R224, R467, R468). -/
inductive BusKind where
  | read
  | write
  | fullLine (tag : BitVec 24)
  | atomic (op : AtomOp)
  deriving DecidableEq, Repr

/-- One access of a requester outside the module: its VD and key slot (64 and 0 for the PF key), the address it
carries, its bytes, and for an atomic the operand (and the compare value first, for a compare-and-swap). -/
structure BusAccess where
  port : Nat
  vd : Nat
  slot : Nat
  addr : Nat
  size : Nat
  kind : BusKind
  data : List (BitVec 8)
  deriving DecidableEq, Repr

/-- One constructor for each row of spec/opcode_table.json. -/
inductive Instr where
  | add (c : Ctl) (rd : BitVec 6) (ra : BitVec 6) (rb : BitVec 6)
  | addi (c : Ctl) (rd : BitVec 6) (ra : BitVec 6) (imm : BitVec 20)
  | sub (c : Ctl) (rd : BitVec 6) (ra : BitVec 6) (rb : BitVec 6)
  | mul (c : Ctl) (rd : BitVec 6) (ra : BitVec 6) (rb : BitVec 6)
  | mulh (c : Ctl) (rd : BitVec 6) (ra : BitVec 6) (rb : BitVec 6)
  | mulhu (c : Ctl) (rd : BitVec 6) (ra : BitVec 6) (rb : BitVec 6)
  | div (c : Ctl) (rd : BitVec 6) (ra : BitVec 6) (rb : BitVec 6)
  | divu (c : Ctl) (rd : BitVec 6) (ra : BitVec 6) (rb : BitVec 6)
  | rem (c : Ctl) (rd : BitVec 6) (ra : BitVec 6) (rb : BitVec 6)
  | remu (c : Ctl) (rd : BitVec 6) (ra : BitVec 6) (rb : BitVec 6)
  | and (c : Ctl) (rd : BitVec 6) (ra : BitVec 6) (rb : BitVec 6)
  | andi (c : Ctl) (rd : BitVec 6) (ra : BitVec 6) (imm : BitVec 20)
  | or (c : Ctl) (rd : BitVec 6) (ra : BitVec 6) (rb : BitVec 6)
  | ori (c : Ctl) (rd : BitVec 6) (ra : BitVec 6) (imm : BitVec 20)
  | xor (c : Ctl) (rd : BitVec 6) (ra : BitVec 6) (rb : BitVec 6)
  | xori (c : Ctl) (rd : BitVec 6) (ra : BitVec 6) (imm : BitVec 20)
  | andn (c : Ctl) (rd : BitVec 6) (ra : BitVec 6) (rb : BitVec 6)
  | shl (c : Ctl) (rd : BitVec 6) (ra : BitVec 6) (rb : BitVec 6)
  | shli (c : Ctl) (rd : BitVec 6) (ra : BitVec 6) (imm : BitVec 6)
  | shr (c : Ctl) (rd : BitVec 6) (ra : BitVec 6) (rb : BitVec 6)
  | shri (c : Ctl) (rd : BitVec 6) (ra : BitVec 6) (imm : BitVec 6)
  | sra (c : Ctl) (rd : BitVec 6) (ra : BitVec 6) (rb : BitVec 6)
  | srai (c : Ctl) (rd : BitVec 6) (ra : BitVec 6) (imm : BitVec 6)
  | rot (c : Ctl) (rd : BitVec 6) (ra : BitVec 6) (rb : BitVec 6)
  | clz (c : Ctl) (rd : BitVec 6) (ra : BitVec 6)
  | ctz (c : Ctl) (rd : BitVec 6) (ra : BitVec 6)
  | popc (c : Ctl) (rd : BitVec 6) (ra : BitVec 6)
  | min (c : Ctl) (rd : BitVec 6) (ra : BitVec 6) (rb : BitVec 6)
  | minu (c : Ctl) (rd : BitVec 6) (ra : BitVec 6) (rb : BitVec 6)
  | max (c : Ctl) (rd : BitVec 6) (ra : BitVec 6) (rb : BitVec 6)
  | maxu (c : Ctl) (rd : BitVec 6) (ra : BitVec 6) (rb : BitVec 6)
  | sel (c : Ctl) (rd : BitVec 6) (ra : BitVec 6) (rb : BitVec 6) (pc : BitVec 3)
  | li (c : Ctl) (rd : BitVec 6) (imm : BitVec 26)
  | lih (c : Ctl) (rd : BitVec 6) (imm : BitVec 16) (k : BitVec 2)
  | ext (c : Ctl) (rd : BitVec 6) (ra : BitVec 6) (pos : BitVec 6) (lenM1 : BitVec 6) (sgn : Bool)
  | ins (c : Ctl) (rd : BitVec 6) (ra : BitVec 6) (pos : BitVec 6) (lenM1 : BitVec 6)
  | addx (c : Ctl) (rd : BitVec 6) (ra : BitVec 6) (rb : BitVec 6) (sh : BitVec 3)
  | fadd (c : Ctl) (rd : BitVec 6) (ra : BitVec 6) (rb : BitVec 6) (rm : BitVec 4)
  | fsub (c : Ctl) (rd : BitVec 6) (ra : BitVec 6) (rb : BitVec 6) (rm : BitVec 4)
  | fmul (c : Ctl) (rd : BitVec 6) (ra : BitVec 6) (rb : BitVec 6) (rm : BitVec 4)
  | ffma (c : Ctl) (rd : BitVec 6) (ra : BitVec 6) (rb : BitVec 6) (rc : BitVec 6) (rm : BitVec 4)
  | fmin (c : Ctl) (rd : BitVec 6) (ra : BitVec 6) (rb : BitVec 6)
  | fmax (c : Ctl) (rd : BitVec 6) (ra : BitVec 6) (rb : BitVec 6)
  | fcvt (c : Ctl) (rd : BitVec 6) (ra : BitVec 6) (dst : BitVec 6) (src : BitVec 6) (rm : BitVec 4)
  | fcmp (c : Ctl) (pd : BitVec 3) (ra : BitVec 6) (rb : BitVec 6) (cc : BitVec 4)
  | cmp (c : Ctl) (pd : BitVec 3) (ra : BitVec 6) (rb : BitVec 6) (cc : BitVec 4)
  | pand (c : Ctl) (pd : BitVec 3) (pa : BitVec 3) (pb : BitVec 3)
  | por (c : Ctl) (pd : BitVec 3) (pa : BitVec 3) (pb : BitVec 3)
  | pxor (c : Ctl) (pd : BitVec 3) (pa : BitVec 3) (pb : BitVec 3)
  | pnot (c : Ctl) (pd : BitVec 3) (pa : BitVec 3)
  | pmov (c : Ctl) (pd : BitVec 3) (pa : BitVec 3)
  | pmovGet (c : Ctl) (rd : BitVec 6)
  | pmovSet (c : Ctl) (ra : BitVec 6)
  | pbr (c : Ctl) (bt : BitVec 2) (tgt : PbrTarget)
  | br (c : Ctl) (bt : BitVec 2) (d : BitVec 2)
  | call (c : Ctl) (rd : BitVec 6) (bt : BitVec 2) (d : BitVec 2)
  | ret (c : Ctl) (ra : BitVec 6) (d : BitVec 2)
  | bsm (c : Ctl) (ra : BitVec 6) (imm : BitVec 26)
  | bsmT (c : Ctl) (ra : BitVec 6) (imm : BitVec 26)
  | vany (c : Ctl) (pd : BitVec 3) (vpa : BitVec 4) (vpm : Option (BitVec 4))
  | vall (c : Ctl) (pd : BitVec 3) (vpa : BitVec 4) (vpm : Option (BitVec 4))
  | halt (c : Ctl)
  | yield (c : Ctl)
  | suspend (c : Ctl) (ra : BitVec 6)
  | suspendRel (c : Ctl) (ra : BitVec 6)
  | nop (c : Ctl)
  | ldb (c : Ctl) (rd : BitVec 6) (ra : BitVec 6) (sgn : Bool) (ord : Order) (imm : BitVec 20) (sc : Scope)
  | ldh (c : Ctl) (rd : BitVec 6) (ra : BitVec 6) (sgn : Bool) (ord : Order) (imm : BitVec 20) (sc : Scope)
  | ldw (c : Ctl) (rd : BitVec 6) (ra : BitVec 6) (sgn : Bool) (ord : Order) (imm : BitVec 20) (sc : Scope)
  | ldd (c : Ctl) (rd : BitVec 6) (ra : BitVec 6) (ord : Order) (imm : BitVec 20) (sc : Scope)
  | stb (c : Ctl) (ra : BitVec 6) (imm : BitVec 20) (rb : BitVec 6) (ord : Order) (sc : Scope)
  | sth (c : Ctl) (ra : BitVec 6) (imm : BitVec 20) (rb : BitVec 6) (ord : Order) (sc : Scope)
  | stw (c : Ctl) (ra : BitVec 6) (imm : BitVec 20) (rb : BitVec 6) (ord : Order) (sc : Scope)
  | std (c : Ctl) (ra : BitVec 6) (imm : BitVec 20) (rb : BitVec 6) (ord : Order) (sc : Scope)
  | pref (c : Ctl) (ra : BitVec 6) (imm : BitVec 20) (wr : BitVec 1)
  | aadd (c : Ctl) (rd : BitVec 6) (ra : BitVec 6) (rb : BitVec 6) (dbl : Bool) (ord : Order) (sc : Scope)
  | aand (c : Ctl) (rd : BitVec 6) (ra : BitVec 6) (rb : BitVec 6) (dbl : Bool) (ord : Order) (sc : Scope)
  | aor (c : Ctl) (rd : BitVec 6) (ra : BitVec 6) (rb : BitVec 6) (dbl : Bool) (ord : Order) (sc : Scope)
  | axor (c : Ctl) (rd : BitVec 6) (ra : BitVec 6) (rb : BitVec 6) (dbl : Bool) (ord : Order) (sc : Scope)
  | amin (c : Ctl) (rd : BitVec 6) (ra : BitVec 6) (rb : BitVec 6) (uns : Bool) (dbl : Bool) (ord : Order) (sc : Scope)
  | amax (c : Ctl) (rd : BitVec 6) (ra : BitVec 6) (rb : BitVec 6) (uns : Bool) (dbl : Bool) (ord : Order) (sc : Scope)
  | aswp (c : Ctl) (rd : BitVec 6) (ra : BitVec 6) (rb : BitVec 6) (dbl : Bool) (ord : Order) (sc : Scope)
  | acas (c : Ctl) (rd : BitVec 6) (ra : BitVec 6) (rb : BitVec 6) (rc : BitVec 6) (dbl : Bool) (ord : Order) (sc : Scope)
  | monitor (c : Ctl) (ra : BitVec 6) (imm : BitVec 20)
  | mwait (c : Ctl) (ra : BitVec 6)
  | fence (c : Ctl) (ord : Order) (sc : Scope)
  | mfence (c : Ctl) (qs : BitVec 6) (sc : Scope)
  | join (c : Ctl)
  | xfence (c : Ctl) (ord : Order)
  | publish (c : Ctl) (ra : BitVec 6) (rb : BitVec 6) (sc : Scope)
  | wfence (c : Ctl) (sc : Scope)
  | bara (c : Ctl) (rd : BitVec 6) (sc : Scope)
  | barw (c : Ctl) (ra : BitVec 6) (sc : Scope)
  | swset (c : Ctl) (h : BitVec 6) (ra : BitVec 6)
  | swadd (c : Ctl) (h : BitVec 6) (ra : BitVec 6) (ord : Order) (sc : Scope)
  | swait (c : Ctl) (h : BitVec 6) (ra : BitVec 6) (sc : Scope)
  | swread (c : Ctl) (rd : BitVec 6) (h : BitVec 6) (ord : Order) (sc : Scope)
  | halloc (c : Ctl) (h : BitVec 6) (rd : BitVec 6) (rs : BitVec 6) (ra : BitVec 6)
  | hbind (c : Ctl) (h : BitVec 6) (rv : BitVec 6) (rs : BitVec 6) (ra : BitVec 6)
  | hfree (c : Ctl) (h : BitVec 6)
  | hshape (c : Ctl) (h : BitVec 6) (rs : BitVec 6)
  | htenRead (c : Ctl) (h : BitVec 6) (rw : BitVec 6) (rx : BitVec 6)
  | htenWrite (c : Ctl) (h : BitVec 6) (rw : BitVec 6) (rx : BitVec 6)
  | hrel (c : Ctl) (h : BitVec 6) (rw : BitVec 6) (rx : BitVec 6)
  | hseal (c : Ctl) (h : BitVec 6) (rw : BitVec 6) (rx : BitVec 6)
  | hunseal (c : Ctl) (h : BitVec 6) (rw : BitVec 6) (rx : BitVec 6)
  | hsplit (c : Ctl) (h : BitVec 6) (rw : BitVec 6) (rx : BitVec 6)
  | hprio (c : Ctl) (h : BitVec 6) (ra : BitVec 6)
  | hevict (c : Ctl) (h : BitVec 6)
  | hdemote (c : Ctl) (h : BitVec 6) (e5 : Bool) (sw : Bool)
  | hzero (c : Ctl) (h : BitVec 6)
  | hq (c : Ctl) (rd : BitVec 6) (h : BitVec 6) (w : BitVec 6)
  | sqmap (c : Ctl) (rd : BitVec 6) (rn : BitVec 6) (rc : BitVec 6) (rg : Option (BitVec 6))
  | sqshare (c : Ctl) (rd : BitVec 6) (rn : BitVec 6) (rm : BitVec 6) (rc : BitVec 6) (rw : Option (BitVec 6))
  | sqfree (c : Ctl) (rn : BitVec 6) (rc : BitVec 6)
  | wopen (c : Ctl) (rd : BitVec 6) (ra : BitVec 6) (rb : BitVec 6) (rp : BitVec 6) (sq : Bool)
  | wclose (c : Ctl) (rw : BitVec 6) (zero : Bool)
  | vadd (c : Ctl) (vd : BitVec 5) (va : BitVec 5) (vb : BitVec 5) (n : BitVec 4) (m : Option (BitVec 4))
  | vsub (c : Ctl) (vd : BitVec 5) (va : BitVec 5) (vb : BitVec 5) (n : BitVec 4) (m : Option (BitVec 4))
  | vmul (c : Ctl) (vd : BitVec 5) (va : BitVec 5) (vb : BitVec 5) (n : BitVec 4) (m : Option (BitVec 4))
  | vfma (c : Ctl) (vd : BitVec 5) (va : BitVec 5) (vb : BitVec 5) (vc : BitVec 5) (n : BitVec 4) (m : Option (BitVec 4))
  | vfms (c : Ctl) (vd : BitVec 5) (va : BitVec 5) (vb : BitVec 5) (vc : BitVec 5) (n : BitVec 4) (m : Option (BitVec 4))
  | vmin (c : Ctl) (vd : BitVec 5) (va : BitVec 5) (vb : BitVec 5) (n : BitVec 4) (m : Option (BitVec 4))
  | vmax (c : Ctl) (vd : BitVec 5) (va : BitVec 5) (vb : BitVec 5) (n : BitVec 4) (m : Option (BitVec 4))
  | vabs (c : Ctl) (vd : BitVec 5) (va : BitVec 5) (n : BitVec 4) (m : Option (BitVec 4))
  | vneg (c : Ctl) (vd : BitVec 5) (va : BitVec 5) (n : BitVec 4) (m : Option (BitVec 4))
  | vand (c : Ctl) (vd : BitVec 5) (va : BitVec 5) (vb : BitVec 5) (n : BitVec 4) (m : Option (BitVec 4))
  | vor (c : Ctl) (vd : BitVec 5) (va : BitVec 5) (vb : BitVec 5) (n : BitVec 4) (m : Option (BitVec 4))
  | vxor (c : Ctl) (vd : BitVec 5) (va : BitVec 5) (vb : BitVec 5) (n : BitVec 4) (m : Option (BitVec 4))
  | vshl (c : Ctl) (vd : BitVec 5) (va : BitVec 5) (vb : BitVec 5) (n : BitVec 4) (m : Option (BitVec 4))
  | vshr (c : Ctl) (vd : BitVec 5) (va : BitVec 5) (vb : BitVec 5) (n : BitVec 4) (m : Option (BitVec 4))
  | vsra (c : Ctl) (vd : BitVec 5) (va : BitVec 5) (vb : BitVec 5) (n : BitVec 4) (m : Option (BitVec 4))
  | vcmp (c : Ctl) (vpd : BitVec 4) (va : BitVec 5) (vb : BitVec 5) (n : BitVec 4) (m : Option (BitVec 4)) (cc : BitVec 4)
  | vsel (c : Ctl) (vd : BitVec 5) (va : BitVec 5) (vb : BitVec 5) (vps : BitVec 4) (n : BitVec 4) (m : Option (BitVec 4))
  | vcvt (c : Ctl) (vd : BitVec 5) (va : BitVec 5) (fmt : BitVec 6) (h : Option (BitVec 6)) (n : BitVec 4) (m : Option (BitVec 4)) (lx : BitVec 2)
  | vqblk (c : Ctl) (vd : BitVec 5) (vs : BitVec 5) (va : BitVec 5) (h : Option (BitVec 6)) (n : BitVec 4) (tgt : BitVec 2)
  | vdeq (c : Ctl) (vd : BitVec 5) (va : BitVec 5) (vs : BitVec 5) (f32 : Bool) (n : BitVec 4) (m : Option (BitVec 4))
  | vtagGet (c : Ctl) (rd : BitVec 6) (va : BitVec 5) (r : BitVec 4)
  | vtagSet (c : Ctl) (vd : BitVec 5) (ra : BitVec 6) (r : BitVec 4)
  | vtagSetAll (c : Ctl) (vd : BitVec 5) (ra : BitVec 6)
  | vretag (c : Ctl) (vd : BitVec 5) (va : BitVec 5) (fmt : BitVec 6) (n : BitVec 4)
  | vsplat (c : Ctl) (vd : BitVec 5) (ra : BitVec 6) (fmt : BitVec 6) (n : BitVec 4) (m : Option (BitVec 4))
  | vmovsGet (c : Ctl) (rd : BitVec 6) (va : BitVec 5) (rb : BitVec 6)
  | vmovsPut (c : Ctl) (vd : BitVec 5) (ra : BitVec 6) (rb : BitVec 6)
  | vsetvl (c : Ctl) (rd : BitVec 6) (ra : BitVec 6)
  | vpand (c : Ctl) (vpd : BitVec 4) (vpa : BitVec 4) (vpb : BitVec 4) (n : BitVec 4) (m : Option (BitVec 4))
  | vpor (c : Ctl) (vpd : BitVec 4) (vpa : BitVec 4) (vpb : BitVec 4) (n : BitVec 4) (m : Option (BitVec 4))
  | vpnot (c : Ctl) (vpd : BitVec 4) (vpa : BitVec 4) (n : BitVec 4) (m : Option (BitVec 4))
  | vpcnt (c : Ctl) (rd : BitVec 6) (vpa : BitVec 4) (n : BitVec 4) (m : Option (BitVec 4))
  | vld (c : Ctl) (vd : BitVec 5) (h : BitVec 6) (ra : BitVec 6) (rb : BitVec 6) (n : BitVec 4) (m : Option (BitVec 4)) (o : Bool)
  | vst (c : Ctl) (h : BitVec 6) (ra : BitVec 6) (rb : BitVec 6) (vs : BitVec 5) (n : BitVec 4) (m : Option (BitVec 4)) (o : Bool)
  | vgth (c : Ctl) (vd : BitVec 5) (ra : BitVec 6) (vi : BitVec 5) (sh : BitVec 2) (n : BitVec 4) (m : Option (BitVec 4)) (o : Bool)
  | vsct (c : Ctl) (ra : BitVec 6) (vi : BitVec 5) (vs : BitVec 5) (sh : BitVec 2) (n : BitVec 4) (m : Option (BitVec 4)) (o : Bool)
  | vrot (c : Ctl) (vd : BitVec 5) (va : BitVec 5) (rb : BitVec 6) (n : BitVec 4) (m : Option (BitVec 4)) (ax : Bool)
  | vbc (c : Ctl) (vd : BitVec 5) (va : BitVec 5) (rb : BitVec 6) (n : BitVec 4) (m : Option (BitVec 4)) (ax : Bool)
  | vred (c : Ctl) (vd : BitVec 5) (va : BitVec 5) (n : BitVec 4) (m : Option (BitVec 4)) (ax : Bool) (rop : BitVec 3)
  | vscan (c : Ctl) (vd : BitVec 5) (va : BitVec 5) (n : BitVec 4) (m : Option (BitVec 4)) (ax : Bool) (rop : BitVec 3)
  | vtrn (c : Ctl) (vd : BitVec 5) (va : BitVec 5) (m : Option (BitVec 4))
  | vshuf (c : Ctl) (vd : BitVec 5) (va : BitVec 5) (vi : BitVec 5) (n : BitVec 4) (m : Option (BitVec 4))
  | vcmpr (c : Ctl) (vd : BitVec 5) (va : BitVec 5) (vps : BitVec 4) (n : BitVec 4)
  | vexp2 (c : Ctl) (vd : BitVec 5) (va : BitVec 5) (n : BitVec 4) (m : Option (BitVec 4))
  | vlog2 (c : Ctl) (vd : BitVec 5) (va : BitVec 5) (n : BitVec 4) (m : Option (BitVec 4))
  | vrcp (c : Ctl) (vd : BitVec 5) (va : BitVec 5) (n : BitVec 4) (m : Option (BitVec 4))
  | vrsq (c : Ctl) (vd : BitVec 5) (va : BitVec 5) (n : BitVec 4) (m : Option (BitVec 4))
  | vsqrt (c : Ctl) (vd : BitVec 5) (va : BitVec 5) (n : BitVec 4) (m : Option (BitVec 4))
  | vtanh (c : Ctl) (vd : BitVec 5) (va : BitVec 5) (n : BitVec 4) (m : Option (BitVec 4))
  | vsin (c : Ctl) (vd : BitVec 5) (va : BitVec 5) (n : BitVec 4) (m : Option (BitVec 4))
  | vqpush (c : Ctl) (q : BitVec 2) (va : BitVec 5) (n : BitVec 4)
  | vqpop (c : Ctl) (vd : BitVec 5) (q : BitVec 2) (n : BitVec 4)
  | vqstat (c : Ctl) (rd : BitVec 6) (q : BitVec 2)
  | mshape (c : Ctl) (ra : BitVec 6) (rb : BitVec 6) (i32 : Bool)
  | mzero (c : Ctl) (t : BitVec 2)
  | mma (c : Ctl) (t : BitVec 2) (va : BitVec 5) (vb : BitVec 5) (vsa : Option (BitVec 5)) (vsb : Option (BitVec 5)) (g : BitVec 2)
  | mmag (c : Ctl) (t : BitVec 2) (va : BitVec 5) (vb : BitVec 5) (vsa : Option (BitVec 5)) (vsb : Option (BitVec 5)) (g : BitVec 2) (prM1 : BitVec 2) (pcM1 : BitVec 3)
  | mlda (c : Ctl) (t : BitVec 2) (h : BitVec 6) (ra : BitVec 6)
  | msta (c : Ctl) (h : BitVec 6) (t : BitVec 2) (ra : BitVec 6) (band : Option (BitVec 6 × BitVec 6)) (o : Bool)
  | mdrain (c : Ctl)
  | movcG (c : Ctl) (vd : BitVec 5) (t : BitVec 2) (b : BitVec 4)
  | movcP (c : Ctl) (t : BitVec 2) (va : BitVec 5) (b : BitVec 4)
  | rmode (c : Ctl) (qs : BitVec 2) (mode : BitVec 3)
  | cpy (c : Ctl) (rd : BitVec 6) (hd : BitVec 6) (hs : BitVec 6) (rp : BitVec 6) (rn : BitVec 6) (ch : BitVec 2) (nc : Bool)
  | cpyX (c : Ctl) (rd : BitVec 6) (hd : BitVec 6) (hs : BitVec 6) (rp : BitVec 6) (rn : BitVec 6) (ch : BitVec 2) (nc : Bool)
  | cpyt (c : Ctl) (rt : BitVec 6) (hd : BitVec 6) (hs : BitVec 6) (rp : BitVec 6) (rn : BitVec 6) (ch : BitVec 2) (x : Bool) (nc : Bool)
  | cmcast (c : Ctl) (rd : BitVec 6) (hd : BitVec 6) (hs : BitVec 6) (rp : BitVec 6) (rn : BitVec 6) (ch : BitVec 2) (nc : Bool)
  | gath (c : Ctl) (rd : BitVec 6) (hd : BitVec 6) (ra : BitVec 6) (vi : BitVec 5) (vpd : BitVec 4) (k : BitVec 8) (ch : BitVec 2) (nc : Bool)
  | scat (c : Ctl) (rd : BitVec 6) (hs : BitVec 6) (ra : BitVec 6) (vi : BitVec 5) (vpm : BitVec 4) (k : BitVec 8) (ch : BitVec 2)
  | cred (c : Ctl) (rd : BitVec 6) (hd : BitVec 6) (hs : BitVec 6) (rg : BitVec 6) (rn : BitVec 6) (rop : BitVec 2) (root : Bool) (nc : Bool)
  | cwait (c : Ctl) (ra : BitVec 6)
  | cstat (c : Ctl) (rd : BitVec 6) (ra : BitVec 6)
  | csrr (c : Ctl) (rd : BitVec 6) (csr : BitVec 20)
  | csrrX (c : Ctl) (rd : BitVec 6) (n : BitVec 6)
  | csrrF (c : Ctl) (rd : BitVec 6) (w : BitVec 20)
  | csrw (c : Ctl) (csr : BitVec 20) (ra : BitVec 6)
  | csrwX (c : Ctl) (n : BitVec 6) (ra : BitVec 6)
  | trap (c : Ctl) (imm : BitVec 20)
  | trapBrk (c : Ctl) (imm : BitVec 20)
  | eret (c : Ctl)
  | eretDiscard (c : Ctl)
  | spawn (c : Ctl) (rd : BitVec 6) (ra : BitVec 6) (rb : BitVec 6)
  | gsig (c : Ctl) (ra : BitVec 6)
  | tlbiVa (c : Ctl) (ra : BitVec 6) (rb : BitVec 6)
  | tlbiAsn (c : Ctl) (ra : BitVec 6) (rb : BitVec 6)
  | tlbiVd (c : Ctl)
  | tlbiGpa (c : Ctl) (ra : BitVec 6) (rb : BitVec 6)
  | tlbiS2 (c : Ctl) (ra : BitVec 6) (rb : BitVec 6)
  | snap (c : Ctl) (tag : BitVec 8)
  | ebudQ (c : Ctl) (rd : BitVec 6)
  | ebudR (c : Ctl) (rd : BitVec 6) (ra : BitVec 6)
  | ebudF (c : Ctl) (rd : BitVec 6) (ra : BitVec 6)
  | keyld (c : Ctl) (rd : BitVec 6) (ra : BitVec 6) (rb : BitVec 6)
  | faultDelivery (core : Nat)
  | holdConvert (ctx : Nat)
  | holdRestart (ctx : Nat)
  | walkComplete (ctx : Nat)
  | s2respSuccess (entry : Nat)
  | s2respFail (entry : Nat)
  | prgResponse (entry : Nat) (ok : Bool)
  | retortLineSwitch (kiln : Nat)
  | granuleAssign (g : Nat) (owner : Nat)
  | copyBeat (core : Nat) (ch : Nat) (n : Nat) (beat : Nat)
  | vectorArbiterCycle (core : Nat)
  | taskLeaveStoker (task : Nat)
  | launchCompletion (launch : Nat)
  | queueNotify (vd : Nat) (q : Nat) (off : Nat) (val : BitVec 32)
  | queueEnable (vd : Nat) (q : Nat)
  | queueDisable (vd : Nat) (q : Nat)
  | launchValidate (vd : Nat) (q : Nat)
  | taskCreate (kiln : Nat) (launch : Nat) (node : Nat)
  | flueRound (kiln : Nat)
  | preqGo (vd : Nat) (val : BitVec 64)
  | preempt (task : Nat)
  | dbgctlResume (vd : Nat)
  | dbgctlStep (vd : Nat) (stk : Nat)
  | pctlApply (core : Nat)
  | sqrangeWrite (val : BitVec 64)
  | vdcfgWrite (vd : Nat) (val : BitVec 64)
  | latticeWrite (vd : Nat) (data : List (Nat × BitVec 8))
  | vdReset (vd : Nat)
  | hostAccess (acc : BusAccess)
  | peerAccess (acc : BusAccess)
  | registerWrite (space : Nat) (off : Nat) (val : BitVec 64)
  | matrixEntryComplete (task : Nat)
  | energyMeter (tasks : List (Nat × Nat)) (vds : List (Nat × Nat))
  | powerLimit (num : Nat) (den : Nat)
  | calendarSlot (core : Nat)
  | kilnStoreAccessComplete (core : Nat)
  | residencyFill (kiln : Nat) (tensor : Nat)
  | leaseExpiry (cell : Nat)
  | tenureWaitTimeout (req : Nat)
  | lineWritebackCross (wb : Nat) (core : Nat) (excl : Bool)
  | scrubLine (line : Nat)
  | credTimeout (vd : Nat) (group : Nat)
  | cpytRelease (core : Nat)
  | mmagMeet (task : Nat)
  | matrixHolderAcquire (task : Nat)
  | gangReserveTimeout (kiln : Nat)
  | starvationPreempt (kiln : Nat)
  | recodeWaitTimeout (ctx : Nat)
  | firmwareLoad (ok : Bool)
  | atsInvalidate (page : Nat) (size : Nat)
  | cxlCacheSnoop (port : Nat) (line : Nat)
  | latticeApply (vd : Nat)
  | partitionApply (core : Nat)
  | markerAtHead (ctx : Nat)
  | suspendDeadline (task : Nat)
  | mwaitTimeout (task : Nat)
  | convoyDrain (ctx : Nat)
  | credInstanceStart (vd : Nat) (group : Nat)
  | retortJobEnd (kiln : Nat)
  | haltRetire (task : Nat)
  | energyRefill
  | snapshotLatch
  | snapin
  | snapshotCommand
  | snapshotRead
  | moduleReset
  deriving DecidableEq, Repr

end Sys2Proof
end

