-- ==== Sys2Proof/WellFormed.lean ====
section
/-!
DEFINITION. Sys2Proof/WellFormed.lean: which instructions a word can name (order 4 of Table 10.11): HINT and CB only
where they have a use, order and scope codes where the entry takes them, and the limits of each entry's fields.
A step of another agent is named by no word.
-/

namespace Sys2Proof

/-- A nested scope, codes 0 to 8 (Table 8.3). -/
def Scope.nested : Scope → Bool
  | .fetch | .layer | .recode => false
  | .stream | .task | .core | .cord | .kiln | .package | .pod | .host | .system => true

/-- A barrier's level: CORD, KILN or PACKAGE (R311). -/
def Scope.barrier : Scope → Bool
  | .cord | .kiln | .package => true
  | .stream | .task | .core | .pod | .host | .system | .fetch | .layer | .recode => false

/-- A rounding selector: fpmode.RM, or a static mode (R283). -/
def rmSelOk (rm : BitVec 4) : Bool := rm == 0 || (decide (8 ≤ rm.toNat) && decide (rm.toNat ≤ 12))

/-- The pairs of format codes FCVT accepts (Table 11.5). -/
def fcvtPairOk (dst src : BitVec 6) : Bool :=
  (dst == 0x10 && (src == 0x03 || src == 0x04 || src == 0x11 || src == 0x12)) ||
  ((dst == 0x11 || dst == 0x12 || dst == 0x03 || dst == 0x04) && src == 0x10)

/-- The format codes of Table 4.1. -/
def fmtAssigned (f : BitVec 6) : Bool :=
  let k := f.toNat; decide (k ≤ 4) || k == 6 || k == 7 || (decide (0x10 ≤ k) && decide (k ≤ 0x15)) || (decide (0x18 ≤ k) && decide (k ≤ 0x1A)) || k == 0x20

/-- The integer and offset-binary codes, which take no LXP mode in VCVT (R343). -/
def fmtIsInt (f : BitVec 6) : Bool :=
  let k := f.toNat; (decide (1 ≤ k) && decide (k ≤ 4)) || k == 6 || k == 7

/-- A register group's first register is a multiple of the group's size 2^g (R253). -/
def groupOk (first : BitVec 5) (g : BitVec 2) : Bool := first.toNat % 2 ^ g.toNat == 0

/-- The CSR numbers of Table 10.2. -/
def csrKnown (n : BitVec 20) : Bool :=
  let k := n.toNat
  (decide (k ≤ 5)) || (decide (8 ≤ k) && decide (k ≤ 10)) || (decide (0x10 ≤ k) && decide (k ≤ 0x16)) ||
  (decide (0x18 ≤ k) && decide (k ≤ 0x1B)) || (decide (0x100 ≤ k) && decide (k ≤ 0x102))

/-- The common fields: HINT only where it acts (R260; YLD is taken on HALT, YIELD and NOP too, whose other fields R294 reserves: log
entry 50, DESIGN CHOICE), CB only on a convoy member (R265). -/
def Ctl.ok (c : Ctl) (hint member : Bool) : Bool := (hint || c.hint == 0) && (member || !c.cb)

/-- The instruction is one a word may name (Table 10.11, order 4). -/
def Instr.wf : Instr → Bool
  | .add c _ _ _ => c.ok false false
  | .addi c _ _ _ => c.ok false false
  | .sub c _ _ _ => c.ok false false
  | .mul c _ _ _ => c.ok false false
  | .mulh c _ _ _ => c.ok false false
  | .mulhu c _ _ _ => c.ok false false
  | .div c _ _ _ => c.ok false false
  | .divu c _ _ _ => c.ok false false
  | .rem c _ _ _ => c.ok false false
  | .remu c _ _ _ => c.ok false false
  | .and c _ _ _ => c.ok false false
  | .andi c _ _ _ => c.ok false false
  | .or c _ _ _ => c.ok false false
  | .ori c _ _ _ => c.ok false false
  | .xor c _ _ _ => c.ok false false
  | .xori c _ _ _ => c.ok false false
  | .andn c _ _ _ => c.ok false false
  | .shl c _ _ _ => c.ok false false
  | .shli c _ _ _ => c.ok false false
  | .shr c _ _ _ => c.ok false false
  | .shri c _ _ _ => c.ok false false
  | .sra c _ _ _ => c.ok false false
  | .srai c _ _ _ => c.ok false false
  | .rot c _ _ _ => c.ok false false
  | .clz c _ _ => c.ok false false
  | .ctz c _ _ => c.ok false false
  | .popc c _ _ => c.ok false false
  | .min c _ _ _ => c.ok false false
  | .minu c _ _ _ => c.ok false false
  | .max c _ _ _ => c.ok false false
  | .maxu c _ _ _ => c.ok false false
  | .sel c _ _ _ _ => c.ok false false
  | .li c _ _ => c.ok false false
  | .lih c _ _ _ => c.ok false false
  | .ext c _ _ pos lenM1 _ => c.ok false false && decide (pos.toNat + lenM1.toNat + 1 ≤ 64)
  | .ins c _ _ pos lenM1 => c.ok false false && decide (pos.toNat + lenM1.toNat + 1 ≤ 64)
  | .addx c _ _ _ _ => c.ok false false
  | .fadd c _ _ _ rm => c.ok false false && rmSelOk rm
  | .fsub c _ _ _ rm => c.ok false false && rmSelOk rm
  | .fmul c _ _ _ rm => c.ok false false && rmSelOk rm
  | .ffma c _ _ _ _ rm => c.ok false false && rmSelOk rm
  | .fmin c _ _ _ => c.ok false false
  | .fmax c _ _ _ => c.ok false false
  | .fcvt c _ _ dst src rm => c.ok false false && fcvtPairOk dst src && rmSelOk rm
  | .fcmp c _ _ _ cc => c.ok false false && decide (cc.toNat < 8)
  | .cmp c _ _ _ cc => c.ok false false && decide (cc.toNat < 10)
  | .pand c _ _ _ => c.ok false false
  | .por c _ _ _ => c.ok false false
  | .pxor c _ _ _ => c.ok false false
  | .pnot c _ _ => c.ok false false
  | .pmov c _ _ => c.ok false false
  | .pmovGet c _ => c.ok false false
  | .pmovSet c _ => c.ok false false
  | .pbr c _ _ => c.ok false false
  | .br c _ _ => c.ok false false
  | .call c _ _ _ => c.ok false false
  | .ret c _ _ => c.ok false false
  | .bsm c _ _ => c.ok false false
  | .bsmT c _ _ => c.ok false false
  | .vany c _ _ _ => c.ok false false
  | .vall c _ _ _ => c.ok false false
  | .halt c => c.ok false false
  | .yield c => c.ok false false
  | .suspend c _ => c.ok false false
  | .suspendRel c _ => c.ok false false
  | .nop c => c.ok false false
  | .ldb c _ _ _ ord _ sc => c.ok true false && ((ord == .rlx && sc == .stream || ord == .acq) && sc.nested)
  | .ldh c _ _ _ ord _ sc => c.ok true false && ((ord == .rlx && sc == .stream || ord == .acq) && sc.nested)
  | .ldw c _ _ _ ord _ sc => c.ok true false && ((ord == .rlx && sc == .stream || ord == .acq) && sc.nested)
  | .ldd c _ _ ord _ sc => c.ok true false && ((ord == .rlx && sc == .stream || ord == .acq) && sc.nested)
  | .stb c _ _ _ ord sc => c.ok true false && ((ord == .rlx && sc == .stream || ord == .rel) && sc.nested)
  | .sth c _ _ _ ord sc => c.ok true false && ((ord == .rlx && sc == .stream || ord == .rel) && sc.nested)
  | .stw c _ _ _ ord sc => c.ok true false && ((ord == .rlx && sc == .stream || ord == .rel) && sc.nested)
  | .std c _ _ _ ord sc => c.ok true false && ((ord == .rlx && sc == .stream || ord == .rel) && sc.nested)
  | .pref c _ _ _ => c.ok true false
  | .aadd c _ _ _ _ _ sc => c.ok true false && sc.nested
  | .aand c _ _ _ _ _ sc => c.ok true false && sc.nested
  | .aor c _ _ _ _ _ sc => c.ok true false && sc.nested
  | .axor c _ _ _ _ _ sc => c.ok true false && sc.nested
  | .amin c _ _ _ _ _ _ sc => c.ok true false && sc.nested
  | .amax c _ _ _ _ _ _ sc => c.ok true false && sc.nested
  | .aswp c _ _ _ _ _ sc => c.ok true false && sc.nested
  | .acas c _ _ _ _ _ _ sc => c.ok true false && sc.nested
  | .monitor c _ _ => c.ok true false
  | .mwait c _ => c.ok false false
  | .fence c ord sc => c.ok false false && (ord != .rlx && (sc.nested || ord != .sc))
  | .mfence c qs sc => c.ok false false && qs != 0 && sc.nested
  | .join c => c.ok false false
  | .xfence c ord => c.ok false false && ord != .rlx && ord != .sc
  | .publish c _ _ sc => c.ok true false && sc.nested
  | .wfence c sc => c.ok false false && sc.nested
  | .bara c _ sc => c.ok false false && sc.barrier
  | .barw c _ sc => c.ok false false && sc.barrier
  | .swset c _ _ => c.ok false false
  | .swadd c _ _ ord sc => c.ok false false && ((ord == .rlx && sc == .stream || ord == .rel) && sc.nested)
  | .swait c _ _ sc => c.ok false false && sc.nested
  | .swread c _ _ ord sc => c.ok false false && ((ord == .rlx && sc == .stream || ord == .acq) && sc.nested)
  | .halloc c _ _ _ _ => c.ok false false
  | .hbind c _ _ _ _ => c.ok false false
  | .hfree c _ => c.ok false false
  | .hshape c _ _ => c.ok false false
  | .htenRead c _ _ _ => c.ok false false
  | .htenWrite c _ _ _ => c.ok false false
  | .hrel c _ _ _ => c.ok false false
  | .hseal c _ _ _ => c.ok false false
  | .hunseal c _ _ _ => c.ok false false
  | .hsplit c _ _ _ => c.ok false false
  | .hprio c _ _ => c.ok false false
  | .hevict c _ => c.ok false false
  | .hdemote c _ _ _ => c.ok false false
  | .hzero c _ => c.ok false false
  | .hq c _ _ w => c.ok false false && decide (w.toNat ≤ 4)
  | .sqmap c _ _ _ _ => c.ok false false
  | .sqshare c _ _ _ _ _ => c.ok false false
  | .sqfree c _ _ => c.ok false false
  | .wopen c _ _ _ _ _ => c.ok false false
  | .wclose c _ _ => c.ok false false
  | .vadd c _ _ _ _ _ => c.ok false true
  | .vsub c _ _ _ _ _ => c.ok false true
  | .vmul c _ _ _ _ _ => c.ok false true
  | .vfma c _ _ _ _ _ _ => c.ok false true
  | .vfms c _ _ _ _ _ _ => c.ok false true
  | .vmin c _ _ _ _ _ => c.ok false true
  | .vmax c _ _ _ _ _ => c.ok false true
  | .vabs c _ _ _ _ => c.ok false true
  | .vneg c _ _ _ _ => c.ok false true
  | .vand c _ _ _ _ _ => c.ok false true
  | .vor c _ _ _ _ _ => c.ok false true
  | .vxor c _ _ _ _ _ => c.ok false true
  | .vshl c _ _ _ _ _ => c.ok false true
  | .vshr c _ _ _ _ _ => c.ok false true
  | .vsra c _ _ _ _ _ => c.ok false true
  | .vcmp c _ _ _ _ _ cc => c.ok false true && decide (cc.toNat < 8)
  | .vsel c _ _ _ _ _ _ => c.ok false true
  | .vcvt c _ _ fmt _ _ _ lx => c.ok false true && (fmtAssigned fmt && lx != 3 && (lx == 0 || !(fmtIsInt fmt)))
  | .vqblk c vd vs va _ _ tgt => c.ok false true && tgt != 3 && vd != vs && vd != va && vs != va
  | .vdeq c _ _ _ _ _ _ => c.ok false true
  | .vtagGet c _ _ _ => c.ok false true
  | .vtagSet c _ _ _ => c.ok false true
  | .vtagSetAll c _ _ => c.ok false true
  | .vretag c _ _ fmt _ => c.ok false true && fmtAssigned fmt
  | .vsplat c _ _ fmt _ _ => c.ok false true && fmtAssigned fmt
  | .vmovsGet c _ _ _ => c.ok false true
  | .vmovsPut c _ _ _ => c.ok false true
  | .vsetvl c _ _ => c.ok false false
  | .vpand c _ _ _ _ _ => c.ok false true
  | .vpor c _ _ _ _ _ => c.ok false true
  | .vpnot c _ _ _ _ => c.ok false true
  | .vpcnt c _ _ _ _ => c.ok false true
  | .vld c _ _ _ _ _ _ _ => c.ok true true
  | .vst c _ _ _ _ _ _ _ => c.ok true true
  | .vgth c vd _ vi _ _ _ _ => c.ok true true && vd != vi
  | .vsct c _ _ _ _ _ _ _ => c.ok true true
  | .vrot c _ _ _ _ _ _ => c.ok false true
  | .vbc c _ _ _ _ _ _ => c.ok false true
  | .vred c _ _ _ _ _ rop => c.ok false true && decide (rop.toNat ≤ 4)
  | .vscan c _ _ _ _ _ rop => c.ok false true && decide (rop.toNat ≤ 4)
  | .vtrn c _ _ _ => c.ok false true
  | .vshuf c _ _ _ _ _ => c.ok false true
  | .vcmpr c _ _ _ _ => c.ok false true
  | .vexp2 c _ _ _ _ => c.ok false true
  | .vlog2 c _ _ _ _ => c.ok false true
  | .vrcp c _ _ _ _ => c.ok false true
  | .vrsq c _ _ _ _ => c.ok false true
  | .vsqrt c _ _ _ _ => c.ok false true
  | .vtanh c _ _ _ _ => c.ok false true
  | .vsin c _ _ _ _ => c.ok false true
  | .vqpush c _ _ _ => c.ok false true
  | .vqpop c _ _ _ => c.ok false true
  | .vqstat c _ _ => c.ok false false
  | .mshape c _ _ _ => c.ok false false
  | .mzero c _ => c.ok false false
  | .mma c _ va vb _ _ g => c.ok false false && groupOk va g && groupOk vb 3
  | .mmag c _ va vb _ _ g _ _ => c.ok false false && groupOk va g && groupOk vb 3
  | .mlda c _ _ _ => c.ok true false
  | .msta c _ _ _ _ _ => c.ok true false
  | .mdrain c => c.ok false false
  | .movcG c _ _ _ => c.ok false false
  | .movcP c _ _ _ => c.ok false false
  | .rmode c qs mode => c.ok false false && qs != 0 && decide (mode.toNat ≤ 4)
  | .cpy c _ _ _ _ _ _ _ => c.ok true false
  | .cpyX c _ _ _ _ _ _ _ => c.ok true false
  | .cpyt c _ _ _ _ _ _ _ _ => c.ok true false
  | .cmcast c _ _ _ _ _ _ _ => c.ok true false
  | .gath c _ _ _ _ _ _ _ _ => c.ok true false
  | .scat c _ _ _ _ _ _ _ => c.ok true false
  | .cred c _ _ _ _ _ rop _ _ => c.ok true false && rop != 3
  | .cwait c _ => c.ok false false
  | .cstat c _ _ => c.ok false false
  | .csrr c _ csr => c.ok false false && csrKnown csr
  | .csrrX c _ _ => c.ok false false
  | .csrrF c _ w => c.ok false false && decide (w.toNat ≤ 2)
  | .csrw c csr _ => c.ok false false && csrKnown csr
  | .csrwX c _ _ => c.ok false false
  | .trap c _ => c.ok false false
  | .trapBrk c _ => c.ok false false
  | .eret c => c.ok false false
  | .eretDiscard c => c.ok false false
  | .spawn c _ _ _ => c.ok false false
  | .gsig c _ => c.ok false false
  | .tlbiVa c _ _ => c.ok false false
  | .tlbiAsn c _ _ => c.ok false false
  | .tlbiVd c => c.ok false false
  | .tlbiGpa c _ _ => c.ok false false
  | .tlbiS2 c _ _ => c.ok false false
  | .snap c _ => c.ok false false
  | .ebudQ c _ => c.ok false false
  | .ebudR c _ _ => c.ok false false
  | .ebudF c _ _ => c.ok false false
  | .keyld c _ _ _ => c.ok false false
  | .faultDelivery _ => false
  | .holdConvert _ => false
  | .holdRestart _ => false
  | .walkComplete _ => false
  | .s2respSuccess _ => false
  | .s2respFail _ => false
  | .prgResponse _ _ => false
  | .retortLineSwitch _ => false
  | .granuleAssign _ _ => false
  | .copyBeat _ _ _ _ => false
  | .vectorArbiterCycle _ => false
  | .taskLeaveStoker _ => false
  | .launchCompletion _ => false
  | .queueNotify _ _ _ _ => false
  | .queueEnable _ _ => false
  | .queueDisable _ _ => false
  | .launchValidate _ _ => false
  | .taskCreate _ _ _ => false
  | .flueRound _ => false
  | .preqGo _ _ => false
  | .preempt _ => false
  | .dbgctlResume _ => false
  | .dbgctlStep _ _ => false
  | .pctlApply _ => false
  | .sqrangeWrite _ => false
  | .vdcfgWrite _ _ => false
  | .latticeWrite _ _ => false
  | .vdReset _ => false
  | .hostAccess _ => false
  | .peerAccess _ => false
  | .registerWrite _ _ _ => false
  | .matrixEntryComplete _ => false
  | .energyMeter _ _ => false
  | .powerLimit _ _ => false
  | .calendarSlot _ => false
  | .kilnStoreAccessComplete _ => false
  | .residencyFill _ _ => false
  | .leaseExpiry _ => false
  | .tenureWaitTimeout _ => false
  | .lineWritebackCross _ _ _ => false
  | .scrubLine _ => false
  | .credTimeout _ _ => false
  | .cpytRelease _ => false
  | .mmagMeet _ => false
  | .matrixHolderAcquire _ => false
  | .gangReserveTimeout _ => false
  | .starvationPreempt _ => false
  | .recodeWaitTimeout _ => false
  | .firmwareLoad _ => false
  | .atsInvalidate _ _ => false
  | .cxlCacheSnoop _ _ => false
  | .latticeApply _ => false
  | .partitionApply _ => false
  | .markerAtHead _ => false
  | .suspendDeadline _ => false
  | .mwaitTimeout _ => false
  | .convoyDrain _ => false
  | .credInstanceStart _ _ => false
  | .retortJobEnd _ => false
  | .haltRetire _ => false
  | .energyRefill => false
  | .snapshotLatch => false
  | .snapin => false
  | .snapshotCommand => false
  | .snapshotRead => false
  | .moduleReset => false

end Sys2Proof
end

