-- ==== Sys2Proof/Decode.lean ====
section
/-!
DEFINITION. Sys2Proof/Decode.lean: the instruction word (Table 10.7), the decoder over it (Table 10.9 and each chapter's
encoding table), the encoder written from the same tables, and where each instruction may be issued (Table 10.11).
-/

namespace Sys2Proof

/-- The fields of an instruction word (Table 10.7). -/
structure Fields where
  opc : BitVec 10 := 0
  oa : BitVec 6 := 0
  ob : BitVec 6 := 0
  oc : BitVec 6 := 0
  od : BitVec 6 := 0
  oe : BitVec 6 := 0
  g1 : BitVec 4 := 0
  g2 : BitVec 4 := 0
  mod : BitVec 4 := 0
  hint : BitVec 2 := 0
  cb : Bool := false
  yld : Bool := false
  imx : BitVec 8 := 0
  deriving DecidableEq, Repr

/-- The word's fields, at the bit places of Table 10.7. -/
def unpack (w : BitVec 64) : Fields where
  opc := w.extractLsb' 54 10
  oa := w.extractLsb' 48 6
  ob := w.extractLsb' 42 6
  oc := w.extractLsb' 36 6
  od := w.extractLsb' 30 6
  oe := w.extractLsb' 24 6
  g1 := w.extractLsb' 20 4
  g2 := w.extractLsb' 16 4
  mod := w.extractLsb' 12 4
  hint := w.extractLsb' 10 2
  cb := w.getLsbD 9
  yld := w.getLsbD 8
  imx := w.extractLsb' 0 8

/-- The word of the fields (Table 10.7), the most significant field first. -/
def pack (f : Fields) : BitVec 64 :=
  f.opc ++ f.oa ++ f.ob ++ f.oc ++ f.od ++ f.oe ++ f.g1 ++ f.g2 ++ f.mod ++ f.hint ++
    BitVec.ofBool f.cb ++ BitVec.ofBool f.yld ++ f.imx

/-- The short immediate's bits, {OD, OE, IMX} (R258). -/
def Fields.imm20 (f : Fields) : BitVec 20 := f.od ++ f.oe ++ f.imx

/-- The long immediate's bits, {OC, OD, OE, IMX} (R258). -/
def Fields.imm26 (f : Fields) : BitVec 26 := f.oc ++ f.od ++ f.oe ++ f.imx

def imm20od (i : BitVec 20) : BitVec 6 := i.extractLsb' 14 6
def imm20oe (i : BitVec 20) : BitVec 6 := i.extractLsb' 8 6
def imm20imx (i : BitVec 20) : BitVec 8 := i.extractLsb' 0 8
def imm26oc (i : BitVec 26) : BitVec 6 := i.extractLsb' 20 6
def imm26od (i : BitVec 26) : BitVec 6 := i.extractLsb' 14 6
def imm26oe (i : BitVec 26) : BitVec 6 := i.extractLsb' 8 6
def imm26imx (i : BitVec 26) : BitVec 8 := i.extractLsb' 0 8

/-- The common fields of an instruction. -/
def Fields.ctl (f : Fields) : Ctl := { g1 := f.g1, g2 := f.g2, hint := f.hint, cb := f.cb, yld := f.yld }

/-- A word with the opcode and the common fields, every other field 0. -/
def baseFields (c : Ctl) (opc : BitVec 10) : Fields :=
  { opc := opc, g1 := c.g1, g2 := c.g2, hint := c.hint, cb := c.cb, yld := c.yld }

/-- What stands for the word of a step that no word names. -/
def noFields : Fields := {}

/-- A flag in the lowest bit of a field of n bits. -/
def boolBits (n : Nat) (b : Bool) : BitVec n := if b then 1#n else 0#n

/-- Two flags in the two lowest bits of MOD. -/
def bits2 (lo hi : Bool) : BitVec 4 := boolBits 4 lo ||| (boolBits 4 hi <<< 1)

/-- Order codes (Table 12.2). -/
def Order.code : Order → BitVec 3
  | .rlx => 0 | .acq => 1 | .rel => 2 | .acqrel => 3 | .sc => 4

/-- The order of a code; a reserved code reads as RLX, which the check of the word against its encoding then refuses. -/
def Order.ofCode (c : BitVec 3) : Order :=
  match c.toNat with
  | 1 => .acq | 2 => .rel | 3 => .acqrel | 4 => .sc | _ => .rlx

/-- Scope codes (Table 8.3). -/
def Scope.code : Scope → BitVec 4
  | .stream => 0 | .task => 1 | .core => 2 | .cord => 3 | .kiln => 4 | .package => 5 | .pod => 6 | .host => 7
  | .system => 8 | .fetch => 9 | .layer => 10 | .recode => 11

/-- The scope of a code; a reserved code reads as STREAM, which the check of the word against its encoding refuses. -/
def Scope.ofCode (c : BitVec 4) : Scope :=
  match c.toNat with
  | 1 => .task | 2 => .core | 3 => .cord | 4 => .kiln | 5 => .package | 6 => .pod | 7 => .host | 8 => .system
  | 9 => .fetch | 10 => .layer | 11 => .recode | _ => .stream

/-- The mask field (R332): IMX[4] enables masking by vector predicate IMX[3:0]. -/
def maskOf (imx : BitVec 8) : Option (BitVec 4) := if imx.getLsbD 4 then some (imx.setWidth 4) else none
def maskBits : Option (BitVec 4) → BitVec 8
  | none => 0
  | some p => p.setWidth 8 ||| 0x10

/-- PBR's target (R287): MOD 1 names a register in OB, MOD 0 holds imm26. -/
def PbrTarget.ofFields (f : Fields) : PbrTarget := if f.mod == 1 then .reg f.ob else .rel f.imm26
def PbrTarget.ob : PbrTarget → BitVec 6
  | .rel _ => 0 | .reg r => r
def PbrTarget.imm : PbrTarget → BitVec 26
  | .rel i => i | .reg _ => 0
def PbrTarget.md : PbrTarget → BitVec 4
  | .rel _ => 0 | .reg _ => 1

/-- The masked form of a vote (R293): MOD[0] selects it, OC names the mask. -/
def voteMask (f : Fields) : Option (BitVec 4) := if f.mod.getLsbD 0 then some (f.oc.setWidth 4) else none
def voteMaskOc : Option (BitVec 4) → BitVec 6
  | none => 0 | some p => p.setWidth 6
def voteMaskMod (m : Option (BitVec 4)) : BitVec 4 := boolBits 4 m.isSome

/-- OC of a scalar load: the sign bit over the order (Table 12.1). -/
def ldOc (sgn : Bool) (o : Order) : BitVec 6 := o.code.setWidth 6 ||| (boolBits 6 sgn <<< 3)

/-- OE of an atomic: unsigned, width, order (Table 12.1). -/
def atomOe (uns dbl : Bool) (o : Order) : BitVec 6 :=
  o.code.setWidth 6 ||| (boolBits 6 dbl <<< 3) ||| (boolBits 6 uns <<< 4)

/-- An optional register field, in use when its flag is set. -/
def optReg (b : Bool) (r : BitVec 6) : Option (BitVec 6) := if b then some r else none
def optRegBits : Option (BitVec 6) → BitVec 6
  | none => 0 | some r => r
def optRegMod (r : Option (BitVec 6)) : BitVec 4 := boolBits 4 r.isSome

/-- An optional vector register field. -/
def optV (b : Bool) (r : BitVec 6) : Option (BitVec 5) := if b then some (r.setWidth 5) else none
def optVBits : Option (BitVec 5) → BitVec 6
  | none => 0 | some r => r.setWidth 6

/-- The two optional registers of MSTA's band form. -/
def optBand (b : Bool) (h r : BitVec 6) : Option (BitVec 6 × BitVec 6) := if b then some (h, r) else none
def optBandOd : Option (BitVec 6 × BitVec 6) → BitVec 6
  | none => 0 | some p => p.1
def optBandOe : Option (BitVec 6 × BitVec 6) → BitVec 6
  | none => 0 | some p => p.2

/-- MOD of VCVT and VQBLK: two bits, and the handle flag over them. -/
def modLxH (lx : BitVec 2) (h : Option (BitVec 6)) : BitVec 4 := lx.setWidth 4 ||| (boolBits 4 h.isSome <<< 2)

/-- MOD of VRED and VSCAN: the axis bit, and the operation over it (Table 15.3). -/
def modAxOp (ax : Bool) (rop : BitVec 3) : BitVec 4 := boolBits 4 ax ||| (rop.setWidth 4 <<< 1)

/-- MOD of MMA: the group code, AS and BS (Table 16.2). -/
def modMma (g : BitVec 2) (a b : Option (BitVec 5)) : BitVec 4 :=
  g.setWidth 4 ||| (boolBits 4 a.isSome <<< 2) ||| (boolBits 4 b.isSome <<< 3)

/-- IMX of MMAG: pr − 1 and pc − 1 (Table 16.2). -/
def imxGrid (pr : BitVec 2) (pc : BitVec 3) : BitVec 8 := pr.setWidth 8 ||| (pc.setWidth 8 <<< 2)

/-- MOD of the copies: two bits, bit 2 and bit 3 (Table 17.1). -/
def modCpy (lo : BitVec 2) (b2 b3 : Bool) : BitVec 4 :=
  lo.setWidth 4 ||| (boolBits 4 b2 <<< 2) ||| (boolBits 4 b3 <<< 3)

/-- The readers of the scalar opcodes, 0x0 onwards (Table 10.9). -/
def scalarReaders : List (Fields → Instr) :=
  [fun f => .add f.ctl f.oa f.ob f.oc,
   fun f => .addi f.ctl f.oa f.ob f.imm20,
   fun f => .sub f.ctl f.oa f.ob f.oc,
   fun f => .mul f.ctl f.oa f.ob f.oc,
   fun f => .mulh f.ctl f.oa f.ob f.oc,
   fun f => .mulhu f.ctl f.oa f.ob f.oc,
   fun f => .div f.ctl f.oa f.ob f.oc,
   fun f => .divu f.ctl f.oa f.ob f.oc,
   fun f => .rem f.ctl f.oa f.ob f.oc,
   fun f => .remu f.ctl f.oa f.ob f.oc,
   fun f => .and f.ctl f.oa f.ob f.oc,
   fun f => .andi f.ctl f.oa f.ob f.imm20,
   fun f => .or f.ctl f.oa f.ob f.oc,
   fun f => .ori f.ctl f.oa f.ob f.imm20,
   fun f => .xor f.ctl f.oa f.ob f.oc,
   fun f => .xori f.ctl f.oa f.ob f.imm20,
   fun f => .andn f.ctl f.oa f.ob f.oc,
   fun f => .shl f.ctl f.oa f.ob f.oc,
   fun f => .shli f.ctl f.oa f.ob (f.imm20.setWidth 6),
   fun f => .shr f.ctl f.oa f.ob f.oc,
   fun f => .shri f.ctl f.oa f.ob (f.imm20.setWidth 6),
   fun f => .sra f.ctl f.oa f.ob f.oc,
   fun f => .srai f.ctl f.oa f.ob (f.imm20.setWidth 6),
   fun f => .rot f.ctl f.oa f.ob f.oc,
   fun f => .clz f.ctl f.oa f.ob,
   fun f => .ctz f.ctl f.oa f.ob,
   fun f => .popc f.ctl f.oa f.ob,
   fun f => .min f.ctl f.oa f.ob f.oc,
   fun f => .minu f.ctl f.oa f.ob f.oc,
   fun f => .max f.ctl f.oa f.ob f.oc,
   fun f => .maxu f.ctl f.oa f.ob f.oc,
   fun f => .sel f.ctl f.oa f.ob f.oc (f.od.setWidth 3),
   fun f => .li f.ctl f.oa f.imm26,
   fun f => .lih f.ctl f.oa (f.imm20.setWidth 16) (f.oc.setWidth 2),
   fun f => .ext f.ctl f.oa f.ob f.oc f.oe (f.mod.getLsbD 0),
   fun f => .ins f.ctl f.oa f.ob f.oc f.oe,
   fun f => .addx f.ctl f.oa f.ob f.oc (f.od.setWidth 3),
   fun f => .fadd f.ctl f.oa f.ob f.oc f.mod,
   fun f => .fsub f.ctl f.oa f.ob f.oc f.mod,
   fun f => .fmul f.ctl f.oa f.ob f.oc f.mod,
   fun f => .ffma f.ctl f.oa f.ob f.oc f.od f.mod,
   fun f => .fmin f.ctl f.oa f.ob f.oc,
   fun f => .fmax f.ctl f.oa f.ob f.oc,
   fun f => .fcvt f.ctl f.oa f.ob f.oc f.od f.mod,
   fun f => .fcmp f.ctl (f.oa.setWidth 3) f.ob f.oc f.mod]

/-- The readers of the predicate opcodes, 0x80 onwards (Table 10.9). -/
def predicateReaders : List (Fields → Instr) :=
  [fun f => .cmp f.ctl (f.oa.setWidth 3) f.ob f.oc f.mod,
   fun f => .pand f.ctl (f.oa.setWidth 3) (f.ob.setWidth 3) (f.oc.setWidth 3),
   fun f => .por f.ctl (f.oa.setWidth 3) (f.ob.setWidth 3) (f.oc.setWidth 3),
   fun f => .pxor f.ctl (f.oa.setWidth 3) (f.ob.setWidth 3) (f.oc.setWidth 3),
   fun f => .pnot f.ctl (f.oa.setWidth 3) (f.ob.setWidth 3),
   fun f => if f.mod == 1 then .pmovGet f.ctl f.oa else if f.mod == 2 then .pmovSet f.ctl f.oa else .pmov f.ctl (f.oa.setWidth 3) (f.ob.setWidth 3),
   fun f => .pbr f.ctl (f.oa.setWidth 2) (PbrTarget.ofFields f),
   fun f => .br f.ctl (f.oa.setWidth 2) (f.ob.setWidth 2),
   fun f => .call f.ctl f.oa (f.ob.setWidth 2) (f.oc.setWidth 2),
   fun f => .ret f.ctl f.oa (f.ob.setWidth 2),
   fun f => if f.mod == 1 then .bsmT f.ctl f.oa f.imm26 else .bsm f.ctl f.oa f.imm26,
   fun f => .vany f.ctl (f.oa.setWidth 3) (f.ob.setWidth 4) (voteMask f),
   fun f => .vall f.ctl (f.oa.setWidth 3) (f.ob.setWidth 4) (voteMask f),
   fun f => .halt f.ctl,
   fun f => .yield f.ctl,
   fun f => if f.mod == 1 then .suspendRel f.ctl f.oa else .suspend f.ctl f.oa,
   fun f => .nop f.ctl]

/-- The readers of the memory opcodes, 0x100 onwards (Table 10.9). -/
def memoryReaders : List (Fields → Instr) :=
  [fun f => .ldb f.ctl f.oa f.ob (f.oc.getLsbD 3) (Order.ofCode (f.oc.setWidth 3)) f.imm20 (Scope.ofCode f.mod),
   fun f => .ldh f.ctl f.oa f.ob (f.oc.getLsbD 3) (Order.ofCode (f.oc.setWidth 3)) f.imm20 (Scope.ofCode f.mod),
   fun f => .ldw f.ctl f.oa f.ob (f.oc.getLsbD 3) (Order.ofCode (f.oc.setWidth 3)) f.imm20 (Scope.ofCode f.mod),
   fun f => .ldd f.ctl f.oa f.ob (Order.ofCode (f.oc.setWidth 3)) f.imm20 (Scope.ofCode f.mod),
   fun f => .stb f.ctl f.oa f.imm20 f.ob (Order.ofCode (f.oc.setWidth 3)) (Scope.ofCode f.mod),
   fun f => .sth f.ctl f.oa f.imm20 f.ob (Order.ofCode (f.oc.setWidth 3)) (Scope.ofCode f.mod),
   fun f => .stw f.ctl f.oa f.imm20 f.ob (Order.ofCode (f.oc.setWidth 3)) (Scope.ofCode f.mod),
   fun f => .std f.ctl f.oa f.imm20 f.ob (Order.ofCode (f.oc.setWidth 3)) (Scope.ofCode f.mod),
   fun f => .pref f.ctl f.oa f.imm20 (f.mod.setWidth 1),
   fun f => .aadd f.ctl f.oa f.ob f.oc (f.oe.getLsbD 3) (Order.ofCode (f.oe.setWidth 3)) (Scope.ofCode f.mod),
   fun f => .aand f.ctl f.oa f.ob f.oc (f.oe.getLsbD 3) (Order.ofCode (f.oe.setWidth 3)) (Scope.ofCode f.mod),
   fun f => .aor f.ctl f.oa f.ob f.oc (f.oe.getLsbD 3) (Order.ofCode (f.oe.setWidth 3)) (Scope.ofCode f.mod),
   fun f => .axor f.ctl f.oa f.ob f.oc (f.oe.getLsbD 3) (Order.ofCode (f.oe.setWidth 3)) (Scope.ofCode f.mod),
   fun f => .amin f.ctl f.oa f.ob f.oc (f.oe.getLsbD 4) (f.oe.getLsbD 3) (Order.ofCode (f.oe.setWidth 3)) (Scope.ofCode f.mod),
   fun f => .amax f.ctl f.oa f.ob f.oc (f.oe.getLsbD 4) (f.oe.getLsbD 3) (Order.ofCode (f.oe.setWidth 3)) (Scope.ofCode f.mod),
   fun f => .aswp f.ctl f.oa f.ob f.oc (f.oe.getLsbD 3) (Order.ofCode (f.oe.setWidth 3)) (Scope.ofCode f.mod),
   fun f => .acas f.ctl f.oa f.ob f.oc f.od (f.oe.getLsbD 3) (Order.ofCode (f.oe.setWidth 3)) (Scope.ofCode f.mod),
   fun f => .monitor f.ctl f.oa f.imm20,
   fun f => .mwait f.ctl f.oa,
   fun f => .fence f.ctl (Order.ofCode (f.oa.setWidth 3)) (Scope.ofCode f.mod),
   fun f => .mfence f.ctl f.oa (Scope.ofCode f.mod),
   fun f => .join f.ctl,
   fun f => .xfence f.ctl (Order.ofCode (f.oa.setWidth 3)),
   fun f => .publish f.ctl f.oa f.ob (Scope.ofCode f.mod),
   fun f => .wfence f.ctl (Scope.ofCode f.mod),
   fun f => .bara f.ctl f.oa (Scope.ofCode f.mod),
   fun f => .barw f.ctl f.oa (Scope.ofCode f.mod),
   fun f => .swset f.ctl f.oa f.ob,
   fun f => .swadd f.ctl f.oa f.ob (Order.ofCode (f.oc.setWidth 3)) (Scope.ofCode f.mod),
   fun f => .swait f.ctl f.oa f.ob (Scope.ofCode f.mod),
   fun f => .swread f.ctl f.oa f.ob (Order.ofCode (f.oc.setWidth 3)) (Scope.ofCode f.mod)]

/-- The readers of the handle opcodes, 0x180 onwards (Table 10.9). -/
def handleReaders : List (Fields → Instr) :=
  [fun f => .halloc f.ctl f.oa f.ob f.oc f.od,
   fun f => .hbind f.ctl f.oa f.ob f.oc f.od,
   fun f => .hfree f.ctl f.oa,
   fun f => .hshape f.ctl f.oa f.ob,
   fun f => if f.mod == 2 then .htenWrite f.ctl f.oa f.ob f.oc else .htenRead f.ctl f.oa f.ob f.oc,
   fun f => .hrel f.ctl f.oa f.ob f.oc,
   fun f => .hseal f.ctl f.oa f.ob f.oc,
   fun f => .hunseal f.ctl f.oa f.ob f.oc,
   fun f => .hsplit f.ctl f.oa f.ob f.oc,
   fun f => .hprio f.ctl f.oa f.ob,
   fun f => .hevict f.ctl f.oa,
   fun f => .hdemote f.ctl f.oa (f.mod.getLsbD 0) (f.mod.getLsbD 1),
   fun f => .hzero f.ctl f.oa,
   fun f => .hq f.ctl f.oa f.ob f.oc,
   fun f => .sqmap f.ctl f.oa f.ob f.oc (optReg (f.mod.getLsbD 0) f.od),
   fun f => .sqshare f.ctl f.oa f.ob f.oc f.od (optReg (f.mod.getLsbD 0) f.oe),
   fun f => .sqfree f.ctl f.oa f.ob,
   fun f => .wopen f.ctl f.oa f.ob f.oc f.od (f.mod.getLsbD 0),
   fun f => .wclose f.ctl f.oa (f.mod.getLsbD 0)]

/-- The readers of the vector opcodes, 0x200 onwards (Table 10.9). -/
def vectorReaders : List (Fields → Instr) :=
  [fun f => .vadd f.ctl (f.oa.setWidth 5) (f.ob.setWidth 5) (f.oc.setWidth 5) (f.oe.setWidth 4) (maskOf f.imx),
   fun f => .vsub f.ctl (f.oa.setWidth 5) (f.ob.setWidth 5) (f.oc.setWidth 5) (f.oe.setWidth 4) (maskOf f.imx),
   fun f => .vmul f.ctl (f.oa.setWidth 5) (f.ob.setWidth 5) (f.oc.setWidth 5) (f.oe.setWidth 4) (maskOf f.imx),
   fun f => .vfma f.ctl (f.oa.setWidth 5) (f.ob.setWidth 5) (f.oc.setWidth 5) (f.od.setWidth 5) (f.oe.setWidth 4) (maskOf f.imx),
   fun f => .vfms f.ctl (f.oa.setWidth 5) (f.ob.setWidth 5) (f.oc.setWidth 5) (f.od.setWidth 5) (f.oe.setWidth 4) (maskOf f.imx),
   fun f => .vmin f.ctl (f.oa.setWidth 5) (f.ob.setWidth 5) (f.oc.setWidth 5) (f.oe.setWidth 4) (maskOf f.imx),
   fun f => .vmax f.ctl (f.oa.setWidth 5) (f.ob.setWidth 5) (f.oc.setWidth 5) (f.oe.setWidth 4) (maskOf f.imx),
   fun f => .vabs f.ctl (f.oa.setWidth 5) (f.ob.setWidth 5) (f.oe.setWidth 4) (maskOf f.imx),
   fun f => .vneg f.ctl (f.oa.setWidth 5) (f.ob.setWidth 5) (f.oe.setWidth 4) (maskOf f.imx),
   fun f => .vand f.ctl (f.oa.setWidth 5) (f.ob.setWidth 5) (f.oc.setWidth 5) (f.oe.setWidth 4) (maskOf f.imx),
   fun f => .vor f.ctl (f.oa.setWidth 5) (f.ob.setWidth 5) (f.oc.setWidth 5) (f.oe.setWidth 4) (maskOf f.imx),
   fun f => .vxor f.ctl (f.oa.setWidth 5) (f.ob.setWidth 5) (f.oc.setWidth 5) (f.oe.setWidth 4) (maskOf f.imx),
   fun f => .vshl f.ctl (f.oa.setWidth 5) (f.ob.setWidth 5) (f.oc.setWidth 5) (f.oe.setWidth 4) (maskOf f.imx),
   fun f => .vshr f.ctl (f.oa.setWidth 5) (f.ob.setWidth 5) (f.oc.setWidth 5) (f.oe.setWidth 4) (maskOf f.imx),
   fun f => .vsra f.ctl (f.oa.setWidth 5) (f.ob.setWidth 5) (f.oc.setWidth 5) (f.oe.setWidth 4) (maskOf f.imx),
   fun f => .vcmp f.ctl (f.oa.setWidth 4) (f.ob.setWidth 5) (f.oc.setWidth 5) (f.oe.setWidth 4) (maskOf f.imx) f.mod,
   fun f => .vsel f.ctl (f.oa.setWidth 5) (f.ob.setWidth 5) (f.oc.setWidth 5) (f.od.setWidth 4) (f.oe.setWidth 4) (maskOf f.imx),
   fun f => .vcvt f.ctl (f.oa.setWidth 5) (f.ob.setWidth 5) f.oc (optReg (f.mod.getLsbD 2) f.od) (f.oe.setWidth 4) (maskOf f.imx) (f.mod.setWidth 2),
   fun f => .vqblk f.ctl (f.oa.setWidth 5) (f.ob.setWidth 5) (f.oc.setWidth 5) (optReg (f.mod.getLsbD 2) f.od) (f.oe.setWidth 4) (f.mod.setWidth 2),
   fun f => .vdeq f.ctl (f.oa.setWidth 5) (f.ob.setWidth 5) (f.oc.setWidth 5) (f.mod.getLsbD 0) (f.oe.setWidth 4) (maskOf f.imx),
   fun f => if f.mod == 1 then .vtagSet f.ctl (f.oa.setWidth 5) f.ob (f.oc.setWidth 4) else if f.mod == 2 then .vtagSetAll f.ctl (f.oa.setWidth 5) f.ob else .vtagGet f.ctl f.oa (f.ob.setWidth 5) (f.oc.setWidth 4),
   fun f => .vretag f.ctl (f.oa.setWidth 5) (f.ob.setWidth 5) f.oc (f.oe.setWidth 4),
   fun f => .vsplat f.ctl (f.oa.setWidth 5) f.ob f.oc (f.oe.setWidth 4) (maskOf f.imx),
   fun f => if f.mod == 1 then .vmovsPut f.ctl (f.oa.setWidth 5) f.ob f.oc else .vmovsGet f.ctl f.oa (f.ob.setWidth 5) f.oc,
   fun f => .vsetvl f.ctl f.oa f.ob,
   fun f => .vpand f.ctl (f.oa.setWidth 4) (f.ob.setWidth 4) (f.oc.setWidth 4) (f.oe.setWidth 4) (maskOf f.imx),
   fun f => .vpor f.ctl (f.oa.setWidth 4) (f.ob.setWidth 4) (f.oc.setWidth 4) (f.oe.setWidth 4) (maskOf f.imx),
   fun f => .vpnot f.ctl (f.oa.setWidth 4) (f.ob.setWidth 4) (f.oe.setWidth 4) (maskOf f.imx),
   fun f => .vpcnt f.ctl f.oa (f.ob.setWidth 4) (f.oe.setWidth 4) (maskOf f.imx),
   fun f => .vld f.ctl (f.oa.setWidth 5) f.ob f.oc f.od (f.oe.setWidth 4) (maskOf f.imx) (f.mod.getLsbD 0),
   fun f => .vst f.ctl f.oa f.ob f.oc (f.od.setWidth 5) (f.oe.setWidth 4) (maskOf f.imx) (f.mod.getLsbD 0),
   fun f => .vgth f.ctl (f.oa.setWidth 5) f.ob (f.oc.setWidth 5) (f.od.setWidth 2) (f.oe.setWidth 4) (maskOf f.imx) (f.mod.getLsbD 0),
   fun f => .vsct f.ctl f.oa (f.ob.setWidth 5) (f.oc.setWidth 5) (f.od.setWidth 2) (f.oe.setWidth 4) (maskOf f.imx) (f.mod.getLsbD 0)]

/-- The readers of the axis opcodes, 0x280 onwards (Table 10.9). -/
def axisReaders : List (Fields → Instr) :=
  [fun f => .vrot f.ctl (f.oa.setWidth 5) (f.ob.setWidth 5) f.oc (f.oe.setWidth 4) (maskOf f.imx) (f.mod.getLsbD 0),
   fun f => .vbc f.ctl (f.oa.setWidth 5) (f.ob.setWidth 5) f.oc (f.oe.setWidth 4) (maskOf f.imx) (f.mod.getLsbD 0),
   fun f => .vred f.ctl (f.oa.setWidth 5) (f.ob.setWidth 5) (f.oe.setWidth 4) (maskOf f.imx) (f.mod.getLsbD 0) ((f.mod >>> 1).setWidth 3),
   fun f => .vscan f.ctl (f.oa.setWidth 5) (f.ob.setWidth 5) (f.oe.setWidth 4) (maskOf f.imx) (f.mod.getLsbD 0) ((f.mod >>> 1).setWidth 3),
   fun f => .vtrn f.ctl (f.oa.setWidth 5) (f.ob.setWidth 5) (maskOf f.imx),
   fun f => .vshuf f.ctl (f.oa.setWidth 5) (f.ob.setWidth 5) (f.oc.setWidth 5) (f.oe.setWidth 4) (maskOf f.imx),
   fun f => .vcmpr f.ctl (f.oa.setWidth 5) (f.ob.setWidth 5) (f.oc.setWidth 4) (f.oe.setWidth 4),
   fun f => .vexp2 f.ctl (f.oa.setWidth 5) (f.ob.setWidth 5) (f.oe.setWidth 4) (maskOf f.imx),
   fun f => .vlog2 f.ctl (f.oa.setWidth 5) (f.ob.setWidth 5) (f.oe.setWidth 4) (maskOf f.imx),
   fun f => .vrcp f.ctl (f.oa.setWidth 5) (f.ob.setWidth 5) (f.oe.setWidth 4) (maskOf f.imx),
   fun f => .vrsq f.ctl (f.oa.setWidth 5) (f.ob.setWidth 5) (f.oe.setWidth 4) (maskOf f.imx),
   fun f => .vsqrt f.ctl (f.oa.setWidth 5) (f.ob.setWidth 5) (f.oe.setWidth 4) (maskOf f.imx),
   fun f => .vtanh f.ctl (f.oa.setWidth 5) (f.ob.setWidth 5) (f.oe.setWidth 4) (maskOf f.imx),
   fun f => .vsin f.ctl (f.oa.setWidth 5) (f.ob.setWidth 5) (f.oe.setWidth 4) (maskOf f.imx),
   fun f => .vqpush f.ctl (f.oa.setWidth 2) (f.ob.setWidth 5) (f.oe.setWidth 4),
   fun f => .vqpop f.ctl (f.oa.setWidth 5) (f.ob.setWidth 2) (f.oe.setWidth 4),
   fun f => .vqstat f.ctl f.oa (f.ob.setWidth 2)]

/-- The readers of the matrix opcodes, 0x300 onwards (Table 10.9). -/
def matrixReaders : List (Fields → Instr) :=
  [fun f => .mshape f.ctl f.oa f.ob (f.mod.getLsbD 0),
   fun f => .mzero f.ctl (f.oa.setWidth 2),
   fun f => .mma f.ctl (f.oa.setWidth 2) (f.ob.setWidth 5) (f.oc.setWidth 5) (optV (f.mod.getLsbD 2) f.od) (optV (f.mod.getLsbD 3) f.oe) (f.mod.setWidth 2),
   fun f => .mmag f.ctl (f.oa.setWidth 2) (f.ob.setWidth 5) (f.oc.setWidth 5) (optV (f.mod.getLsbD 2) f.od) (optV (f.mod.getLsbD 3) f.oe) (f.mod.setWidth 2) (f.imx.setWidth 2) ((f.imx >>> 2).setWidth 3),
   fun f => .mlda f.ctl (f.oa.setWidth 2) f.ob f.oc,
   fun f => .msta f.ctl f.oa (f.ob.setWidth 2) f.oc (optBand (f.mod.getLsbD 0) f.od f.oe) (f.mod.getLsbD 1),
   fun f => .mdrain f.ctl,
   fun f => if f.mod == 1 then .movcP f.ctl (f.oa.setWidth 2) (f.ob.setWidth 5) (f.oc.setWidth 4) else .movcG f.ctl (f.oa.setWidth 5) (f.ob.setWidth 2) (f.oc.setWidth 4),
   fun f => .rmode f.ctl (f.oa.setWidth 2) (f.mod.setWidth 3)]

/-- The readers of the copy opcodes, 0x340 onwards (Table 10.9). -/
def copyReaders : List (Fields → Instr) :=
  [fun f => if f.mod.getLsbD 2 then .cpyX f.ctl f.oa f.ob f.oc f.od f.oe (f.mod.setWidth 2) (f.mod.getLsbD 3) else .cpy f.ctl f.oa f.ob f.oc f.od f.oe (f.mod.setWidth 2) (f.mod.getLsbD 3),
   fun f => .cpyt f.ctl f.oa f.ob f.oc f.od f.oe (f.mod.setWidth 2) (f.mod.getLsbD 2) (f.mod.getLsbD 3),
   fun f => .cmcast f.ctl f.oa f.ob f.oc f.od f.oe (f.mod.setWidth 2) (f.mod.getLsbD 3),
   fun f => .gath f.ctl f.oa f.ob f.oc (f.od.setWidth 5) (f.oe.setWidth 4) f.imx (f.mod.setWidth 2) (f.mod.getLsbD 3),
   fun f => .scat f.ctl f.oa f.ob f.oc (f.od.setWidth 5) (f.oe.setWidth 4) f.imx (f.mod.setWidth 2),
   fun f => .cred f.ctl f.oa f.ob f.oc f.od f.oe (f.mod.setWidth 2) (f.mod.getLsbD 2) (f.mod.getLsbD 3),
   fun f => .cwait f.ctl f.oa,
   fun f => .cstat f.ctl f.oa f.ob]

/-- The readers of the system opcodes, 0x380 onwards (Table 10.9). -/
def systemReaders : List (Fields → Instr) :=
  [fun f => if f.mod == 1 then .csrrX f.ctl f.oa f.ob else if f.mod == 2 then .csrrF f.ctl f.oa f.imm20 else .csrr f.ctl f.oa f.imm20,
   fun f => if f.mod == 1 then .csrwX f.ctl f.ob f.oa else .csrw f.ctl f.imm20 f.oa,
   fun f => if f.mod == 1 then .trapBrk f.ctl f.imm20 else .trap f.ctl f.imm20,
   fun f => if f.mod == 1 then .eretDiscard f.ctl else .eret f.ctl,
   fun f => .spawn f.ctl f.oa f.ob f.oc,
   fun f => .gsig f.ctl f.oa,
   fun f => if f.mod == 1 then .tlbiAsn f.ctl f.oa f.ob else if f.mod == 2 then .tlbiVd f.ctl else if f.mod == 3 then .tlbiGpa f.ctl f.oa f.ob else if f.mod == 4 then .tlbiS2 f.ctl f.oa f.ob else .tlbiVa f.ctl f.oa f.ob,
   fun f => .snap f.ctl f.imx,
   fun f => if f.mod == 1 then .ebudR f.ctl f.oa f.ob else if f.mod == 2 then .ebudF f.ctl f.oa f.ob else .ebudQ f.ctl f.oa,
   fun f => .keyld f.ctl f.oa f.ob f.oc]

/-- The readers of the group an opcode selects (Table 10.9); in group 110, OPC[60] parts matrix from copy (R261). -/
def groupReaders (opc : BitVec 10) : List (Fields → Instr) :=
  match (opc >>> 7).toNat with
  | 0 => scalarReaders
  | 1 => predicateReaders
  | 2 => memoryReaders
  | 3 => handleReaders
  | 4 => vectorReaders
  | 5 => axisReaders
  | 6 => if opc.getLsbD 6 then copyReaders else matrixReaders
  | _ => systemReaders

/-- The index within the list of readers: OPC[60:54], less 0x40 in the copy half of group 110. -/
def readerIndex (opc : BitVec 10) : Nat :=
  if (opc >>> 6).toNat = 13 then opc.toNat % 64 else opc.toNat % 128

/-- The instruction an opcode and its modifier name, its fields read but not yet checked; none: unassigned. -/
def candidate (f : Fields) : Option Instr := ((groupReaders f.opc)[readerIndex f.opc]?).map (fun r => r f)

/-- The fields of an instruction's word, written from the same encoding tables; every field an entry leaves out is 0. -/
def encodeF : Instr → Fields
  | .add c rd ra rb => { baseFields c 0x0 with oa := rd, ob := ra, oc := rb }
  | .addi c rd ra imm => { baseFields c 0x1 with oa := rd, ob := ra, od := imm20od (imm), oe := imm20oe (imm), imx := imm20imx (imm) }
  | .sub c rd ra rb => { baseFields c 0x2 with oa := rd, ob := ra, oc := rb }
  | .mul c rd ra rb => { baseFields c 0x3 with oa := rd, ob := ra, oc := rb }
  | .mulh c rd ra rb => { baseFields c 0x4 with oa := rd, ob := ra, oc := rb }
  | .mulhu c rd ra rb => { baseFields c 0x5 with oa := rd, ob := ra, oc := rb }
  | .div c rd ra rb => { baseFields c 0x6 with oa := rd, ob := ra, oc := rb }
  | .divu c rd ra rb => { baseFields c 0x7 with oa := rd, ob := ra, oc := rb }
  | .rem c rd ra rb => { baseFields c 0x8 with oa := rd, ob := ra, oc := rb }
  | .remu c rd ra rb => { baseFields c 0x9 with oa := rd, ob := ra, oc := rb }
  | .and c rd ra rb => { baseFields c 0xA with oa := rd, ob := ra, oc := rb }
  | .andi c rd ra imm => { baseFields c 0xB with oa := rd, ob := ra, od := imm20od (imm), oe := imm20oe (imm), imx := imm20imx (imm) }
  | .or c rd ra rb => { baseFields c 0xC with oa := rd, ob := ra, oc := rb }
  | .ori c rd ra imm => { baseFields c 0xD with oa := rd, ob := ra, od := imm20od (imm), oe := imm20oe (imm), imx := imm20imx (imm) }
  | .xor c rd ra rb => { baseFields c 0xE with oa := rd, ob := ra, oc := rb }
  | .xori c rd ra imm => { baseFields c 0xF with oa := rd, ob := ra, od := imm20od (imm), oe := imm20oe (imm), imx := imm20imx (imm) }
  | .andn c rd ra rb => { baseFields c 0x10 with oa := rd, ob := ra, oc := rb }
  | .shl c rd ra rb => { baseFields c 0x11 with oa := rd, ob := ra, oc := rb }
  | .shli c rd ra imm => { baseFields c 0x12 with oa := rd, ob := ra, od := imm20od (imm.setWidth 20), oe := imm20oe (imm.setWidth 20), imx := imm20imx (imm.setWidth 20) }
  | .shr c rd ra rb => { baseFields c 0x13 with oa := rd, ob := ra, oc := rb }
  | .shri c rd ra imm => { baseFields c 0x14 with oa := rd, ob := ra, od := imm20od (imm.setWidth 20), oe := imm20oe (imm.setWidth 20), imx := imm20imx (imm.setWidth 20) }
  | .sra c rd ra rb => { baseFields c 0x15 with oa := rd, ob := ra, oc := rb }
  | .srai c rd ra imm => { baseFields c 0x16 with oa := rd, ob := ra, od := imm20od (imm.setWidth 20), oe := imm20oe (imm.setWidth 20), imx := imm20imx (imm.setWidth 20) }
  | .rot c rd ra rb => { baseFields c 0x17 with oa := rd, ob := ra, oc := rb }
  | .clz c rd ra => { baseFields c 0x18 with oa := rd, ob := ra }
  | .ctz c rd ra => { baseFields c 0x19 with oa := rd, ob := ra }
  | .popc c rd ra => { baseFields c 0x1A with oa := rd, ob := ra }
  | .min c rd ra rb => { baseFields c 0x1B with oa := rd, ob := ra, oc := rb }
  | .minu c rd ra rb => { baseFields c 0x1C with oa := rd, ob := ra, oc := rb }
  | .max c rd ra rb => { baseFields c 0x1D with oa := rd, ob := ra, oc := rb }
  | .maxu c rd ra rb => { baseFields c 0x1E with oa := rd, ob := ra, oc := rb }
  | .sel c rd ra rb pc => { baseFields c 0x1F with oa := rd, ob := ra, oc := rb, od := pc.setWidth 6 }
  | .li c rd imm => { baseFields c 0x20 with oa := rd, oc := imm26oc (imm), od := imm26od (imm), oe := imm26oe (imm), imx := imm26imx (imm) }
  | .lih c rd imm k => { baseFields c 0x21 with oa := rd, od := imm20od (imm.setWidth 20), oe := imm20oe (imm.setWidth 20), imx := imm20imx (imm.setWidth 20), oc := k.setWidth 6 }
  | .ext c rd ra pos lenM1 sgn => { baseFields c 0x22 with oa := rd, ob := ra, oc := pos, oe := lenM1, mod := boolBits 4 sgn }
  | .ins c rd ra pos lenM1 => { baseFields c 0x23 with oa := rd, ob := ra, oc := pos, oe := lenM1 }
  | .addx c rd ra rb sh => { baseFields c 0x24 with oa := rd, ob := ra, oc := rb, od := sh.setWidth 6 }
  | .fadd c rd ra rb rm => { baseFields c 0x25 with oa := rd, ob := ra, oc := rb, mod := rm }
  | .fsub c rd ra rb rm => { baseFields c 0x26 with oa := rd, ob := ra, oc := rb, mod := rm }
  | .fmul c rd ra rb rm => { baseFields c 0x27 with oa := rd, ob := ra, oc := rb, mod := rm }
  | .ffma c rd ra rb rc rm => { baseFields c 0x28 with oa := rd, ob := ra, oc := rb, od := rc, mod := rm }
  | .fmin c rd ra rb => { baseFields c 0x29 with oa := rd, ob := ra, oc := rb }
  | .fmax c rd ra rb => { baseFields c 0x2A with oa := rd, ob := ra, oc := rb }
  | .fcvt c rd ra dst src rm => { baseFields c 0x2B with oa := rd, ob := ra, oc := dst, od := src, mod := rm }
  | .fcmp c pd ra rb cc => { baseFields c 0x2C with oa := pd.setWidth 6, ob := ra, oc := rb, mod := cc }
  | .cmp c pd ra rb cc => { baseFields c 0x80 with oa := pd.setWidth 6, ob := ra, oc := rb, mod := cc }
  | .pand c pd pa pb => { baseFields c 0x81 with oa := pd.setWidth 6, ob := pa.setWidth 6, oc := pb.setWidth 6 }
  | .por c pd pa pb => { baseFields c 0x82 with oa := pd.setWidth 6, ob := pa.setWidth 6, oc := pb.setWidth 6 }
  | .pxor c pd pa pb => { baseFields c 0x83 with oa := pd.setWidth 6, ob := pa.setWidth 6, oc := pb.setWidth 6 }
  | .pnot c pd pa => { baseFields c 0x84 with oa := pd.setWidth 6, ob := pa.setWidth 6 }
  | .pmov c pd pa => { baseFields c 0x85 with oa := pd.setWidth 6, ob := pa.setWidth 6, mod := 0 }
  | .pmovGet c rd => { baseFields c 0x85 with oa := rd, mod := 1 }
  | .pmovSet c ra => { baseFields c 0x85 with oa := ra, mod := 2 }
  | .pbr c bt tgt => { baseFields c 0x86 with oa := bt.setWidth 6, ob := tgt.ob, oc := imm26oc (tgt.imm), od := imm26od (tgt.imm), oe := imm26oe (tgt.imm), imx := imm26imx (tgt.imm), mod := tgt.md }
  | .br c bt d => { baseFields c 0x87 with oa := bt.setWidth 6, ob := d.setWidth 6 }
  | .call c rd bt d => { baseFields c 0x88 with oa := rd, ob := bt.setWidth 6, oc := d.setWidth 6 }
  | .ret c ra d => { baseFields c 0x89 with oa := ra, ob := d.setWidth 6 }
  | .bsm c ra imm => { baseFields c 0x8A with oa := ra, oc := imm26oc (imm), od := imm26od (imm), oe := imm26oe (imm), imx := imm26imx (imm), mod := 0 }
  | .bsmT c ra imm => { baseFields c 0x8A with oa := ra, oc := imm26oc (imm), od := imm26od (imm), oe := imm26oe (imm), imx := imm26imx (imm), mod := 1 }
  | .vany c pd vpa vpm => { baseFields c 0x8B with oa := pd.setWidth 6, ob := vpa.setWidth 6, oc := voteMaskOc vpm, mod := voteMaskMod vpm }
  | .vall c pd vpa vpm => { baseFields c 0x8C with oa := pd.setWidth 6, ob := vpa.setWidth 6, oc := voteMaskOc vpm, mod := voteMaskMod vpm }
  | .halt c => baseFields c 0x8D
  | .yield c => baseFields c 0x8E
  | .suspend c ra => { baseFields c 0x8F with oa := ra, mod := 0 }
  | .suspendRel c ra => { baseFields c 0x8F with oa := ra, mod := 1 }
  | .nop c => baseFields c 0x90
  | .ldb c rd ra sgn ord imm sc => { baseFields c 0x100 with oa := rd, ob := ra, od := imm20od (imm), oe := imm20oe (imm), imx := imm20imx (imm), mod := sc.code, oc := ldOc sgn ord }
  | .ldh c rd ra sgn ord imm sc => { baseFields c 0x101 with oa := rd, ob := ra, od := imm20od (imm), oe := imm20oe (imm), imx := imm20imx (imm), mod := sc.code, oc := ldOc sgn ord }
  | .ldw c rd ra sgn ord imm sc => { baseFields c 0x102 with oa := rd, ob := ra, od := imm20od (imm), oe := imm20oe (imm), imx := imm20imx (imm), mod := sc.code, oc := ldOc sgn ord }
  | .ldd c rd ra ord imm sc => { baseFields c 0x103 with oa := rd, ob := ra, oc := ord.code.setWidth 6, od := imm20od (imm), oe := imm20oe (imm), imx := imm20imx (imm), mod := sc.code }
  | .stb c ra imm rb ord sc => { baseFields c 0x104 with oa := ra, od := imm20od (imm), oe := imm20oe (imm), imx := imm20imx (imm), ob := rb, oc := ord.code.setWidth 6, mod := sc.code }
  | .sth c ra imm rb ord sc => { baseFields c 0x105 with oa := ra, od := imm20od (imm), oe := imm20oe (imm), imx := imm20imx (imm), ob := rb, oc := ord.code.setWidth 6, mod := sc.code }
  | .stw c ra imm rb ord sc => { baseFields c 0x106 with oa := ra, od := imm20od (imm), oe := imm20oe (imm), imx := imm20imx (imm), ob := rb, oc := ord.code.setWidth 6, mod := sc.code }
  | .std c ra imm rb ord sc => { baseFields c 0x107 with oa := ra, od := imm20od (imm), oe := imm20oe (imm), imx := imm20imx (imm), ob := rb, oc := ord.code.setWidth 6, mod := sc.code }
  | .pref c ra imm wr => { baseFields c 0x108 with oa := ra, od := imm20od (imm), oe := imm20oe (imm), imx := imm20imx (imm), mod := wr.setWidth 4 }
  | .aadd c rd ra rb dbl ord sc => { baseFields c 0x109 with oa := rd, ob := ra, oc := rb, mod := sc.code, oe := atomOe false dbl ord }
  | .aand c rd ra rb dbl ord sc => { baseFields c 0x10A with oa := rd, ob := ra, oc := rb, mod := sc.code, oe := atomOe false dbl ord }
  | .aor c rd ra rb dbl ord sc => { baseFields c 0x10B with oa := rd, ob := ra, oc := rb, mod := sc.code, oe := atomOe false dbl ord }
  | .axor c rd ra rb dbl ord sc => { baseFields c 0x10C with oa := rd, ob := ra, oc := rb, mod := sc.code, oe := atomOe false dbl ord }
  | .amin c rd ra rb uns dbl ord sc => { baseFields c 0x10D with oa := rd, ob := ra, oc := rb, mod := sc.code, oe := atomOe uns dbl ord }
  | .amax c rd ra rb uns dbl ord sc => { baseFields c 0x10E with oa := rd, ob := ra, oc := rb, mod := sc.code, oe := atomOe uns dbl ord }
  | .aswp c rd ra rb dbl ord sc => { baseFields c 0x10F with oa := rd, ob := ra, oc := rb, mod := sc.code, oe := atomOe false dbl ord }
  | .acas c rd ra rb rc dbl ord sc => { baseFields c 0x110 with oa := rd, ob := ra, oc := rb, od := rc, mod := sc.code, oe := atomOe false dbl ord }
  | .monitor c ra imm => { baseFields c 0x111 with oa := ra, od := imm20od (imm), oe := imm20oe (imm), imx := imm20imx (imm) }
  | .mwait c ra => { baseFields c 0x112 with oa := ra }
  | .fence c ord sc => { baseFields c 0x113 with oa := ord.code.setWidth 6, mod := sc.code }
  | .mfence c qs sc => { baseFields c 0x114 with oa := qs, mod := sc.code }
  | .join c => baseFields c 0x115
  | .xfence c ord => { baseFields c 0x116 with oa := ord.code.setWidth 6 }
  | .publish c ra rb sc => { baseFields c 0x117 with oa := ra, ob := rb, mod := sc.code }
  | .wfence c sc => { baseFields c 0x118 with mod := sc.code }
  | .bara c rd sc => { baseFields c 0x119 with oa := rd, mod := sc.code }
  | .barw c ra sc => { baseFields c 0x11A with oa := ra, mod := sc.code }
  | .swset c h ra => { baseFields c 0x11B with oa := h, ob := ra }
  | .swadd c h ra ord sc => { baseFields c 0x11C with oa := h, ob := ra, oc := ord.code.setWidth 6, mod := sc.code }
  | .swait c h ra sc => { baseFields c 0x11D with oa := h, ob := ra, mod := sc.code }
  | .swread c rd h ord sc => { baseFields c 0x11E with oa := rd, ob := h, oc := ord.code.setWidth 6, mod := sc.code }
  | .halloc c h rd rs ra => { baseFields c 0x180 with oa := h, ob := rd, oc := rs, od := ra }
  | .hbind c h rv rs ra => { baseFields c 0x181 with oa := h, ob := rv, oc := rs, od := ra }
  | .hfree c h => { baseFields c 0x182 with oa := h }
  | .hshape c h rs => { baseFields c 0x183 with oa := h, ob := rs }
  | .htenRead c h rw rx => { baseFields c 0x184 with oa := h, ob := rw, oc := rx, mod := 1 }
  | .htenWrite c h rw rx => { baseFields c 0x184 with oa := h, ob := rw, oc := rx, mod := 2 }
  | .hrel c h rw rx => { baseFields c 0x185 with oa := h, ob := rw, oc := rx }
  | .hseal c h rw rx => { baseFields c 0x186 with oa := h, ob := rw, oc := rx }
  | .hunseal c h rw rx => { baseFields c 0x187 with oa := h, ob := rw, oc := rx }
  | .hsplit c h rw rx => { baseFields c 0x188 with oa := h, ob := rw, oc := rx }
  | .hprio c h ra => { baseFields c 0x189 with oa := h, ob := ra }
  | .hevict c h => { baseFields c 0x18A with oa := h }
  | .hdemote c h e5 sw => { baseFields c 0x18B with oa := h, mod := bits2 e5 sw }
  | .hzero c h => { baseFields c 0x18C with oa := h }
  | .hq c rd h w => { baseFields c 0x18D with oa := rd, ob := h, oc := w }
  | .sqmap c rd rn rc rg => { baseFields c 0x18E with oa := rd, ob := rn, oc := rc, od := optRegBits rg, mod := optRegMod rg }
  | .sqshare c rd rn rm rc rw => { baseFields c 0x18F with oa := rd, ob := rn, oc := rm, od := rc, oe := optRegBits rw, mod := optRegMod rw }
  | .sqfree c rn rc => { baseFields c 0x190 with oa := rn, ob := rc }
  | .wopen c rd ra rb rp sq => { baseFields c 0x191 with oa := rd, ob := ra, oc := rb, od := rp, mod := boolBits 4 sq }
  | .wclose c rw zero => { baseFields c 0x192 with oa := rw, mod := boolBits 4 zero }
  | .vadd c vd va vb n m => { baseFields c 0x200 with oa := vd.setWidth 6, ob := va.setWidth 6, oc := vb.setWidth 6, oe := n.setWidth 6, imx := maskBits m }
  | .vsub c vd va vb n m => { baseFields c 0x201 with oa := vd.setWidth 6, ob := va.setWidth 6, oc := vb.setWidth 6, oe := n.setWidth 6, imx := maskBits m }
  | .vmul c vd va vb n m => { baseFields c 0x202 with oa := vd.setWidth 6, ob := va.setWidth 6, oc := vb.setWidth 6, oe := n.setWidth 6, imx := maskBits m }
  | .vfma c vd va vb vc n m => { baseFields c 0x203 with oa := vd.setWidth 6, ob := va.setWidth 6, oc := vb.setWidth 6, od := vc.setWidth 6, oe := n.setWidth 6, imx := maskBits m }
  | .vfms c vd va vb vc n m => { baseFields c 0x204 with oa := vd.setWidth 6, ob := va.setWidth 6, oc := vb.setWidth 6, od := vc.setWidth 6, oe := n.setWidth 6, imx := maskBits m }
  | .vmin c vd va vb n m => { baseFields c 0x205 with oa := vd.setWidth 6, ob := va.setWidth 6, oc := vb.setWidth 6, oe := n.setWidth 6, imx := maskBits m }
  | .vmax c vd va vb n m => { baseFields c 0x206 with oa := vd.setWidth 6, ob := va.setWidth 6, oc := vb.setWidth 6, oe := n.setWidth 6, imx := maskBits m }
  | .vabs c vd va n m => { baseFields c 0x207 with oa := vd.setWidth 6, ob := va.setWidth 6, oe := n.setWidth 6, imx := maskBits m }
  | .vneg c vd va n m => { baseFields c 0x208 with oa := vd.setWidth 6, ob := va.setWidth 6, oe := n.setWidth 6, imx := maskBits m }
  | .vand c vd va vb n m => { baseFields c 0x209 with oa := vd.setWidth 6, ob := va.setWidth 6, oc := vb.setWidth 6, oe := n.setWidth 6, imx := maskBits m }
  | .vor c vd va vb n m => { baseFields c 0x20A with oa := vd.setWidth 6, ob := va.setWidth 6, oc := vb.setWidth 6, oe := n.setWidth 6, imx := maskBits m }
  | .vxor c vd va vb n m => { baseFields c 0x20B with oa := vd.setWidth 6, ob := va.setWidth 6, oc := vb.setWidth 6, oe := n.setWidth 6, imx := maskBits m }
  | .vshl c vd va vb n m => { baseFields c 0x20C with oa := vd.setWidth 6, ob := va.setWidth 6, oc := vb.setWidth 6, oe := n.setWidth 6, imx := maskBits m }
  | .vshr c vd va vb n m => { baseFields c 0x20D with oa := vd.setWidth 6, ob := va.setWidth 6, oc := vb.setWidth 6, oe := n.setWidth 6, imx := maskBits m }
  | .vsra c vd va vb n m => { baseFields c 0x20E with oa := vd.setWidth 6, ob := va.setWidth 6, oc := vb.setWidth 6, oe := n.setWidth 6, imx := maskBits m }
  | .vcmp c vpd va vb n m cc => { baseFields c 0x20F with oa := vpd.setWidth 6, ob := va.setWidth 6, oc := vb.setWidth 6, oe := n.setWidth 6, imx := maskBits m, mod := cc }
  | .vsel c vd va vb vps n m => { baseFields c 0x210 with oa := vd.setWidth 6, ob := va.setWidth 6, oc := vb.setWidth 6, od := vps.setWidth 6, oe := n.setWidth 6, imx := maskBits m }
  | .vcvt c vd va fmt h n m lx => { baseFields c 0x211 with oa := vd.setWidth 6, ob := va.setWidth 6, oc := fmt, od := optRegBits h, oe := n.setWidth 6, imx := maskBits m, mod := modLxH lx h }
  | .vqblk c vd vs va h n tgt => { baseFields c 0x212 with oa := vd.setWidth 6, ob := vs.setWidth 6, oc := va.setWidth 6, od := optRegBits h, oe := n.setWidth 6, mod := modLxH tgt h }
  | .vdeq c vd va vs f32 n m => { baseFields c 0x213 with oa := vd.setWidth 6, ob := va.setWidth 6, oc := vs.setWidth 6, mod := boolBits 4 f32, oe := n.setWidth 6, imx := maskBits m }
  | .vtagGet c rd va r => { baseFields c 0x214 with oa := rd, ob := va.setWidth 6, oc := r.setWidth 6, mod := 0 }
  | .vtagSet c vd ra r => { baseFields c 0x214 with oa := vd.setWidth 6, ob := ra, oc := r.setWidth 6, mod := 1 }
  | .vtagSetAll c vd ra => { baseFields c 0x214 with oa := vd.setWidth 6, ob := ra, mod := 2 }
  | .vretag c vd va fmt n => { baseFields c 0x215 with oa := vd.setWidth 6, ob := va.setWidth 6, oc := fmt, oe := n.setWidth 6 }
  | .vsplat c vd ra fmt n m => { baseFields c 0x216 with oa := vd.setWidth 6, ob := ra, oc := fmt, oe := n.setWidth 6, imx := maskBits m }
  | .vmovsGet c rd va rb => { baseFields c 0x217 with oa := rd, ob := va.setWidth 6, oc := rb, mod := 0 }
  | .vmovsPut c vd ra rb => { baseFields c 0x217 with oa := vd.setWidth 6, ob := ra, oc := rb, mod := 1 }
  | .vsetvl c rd ra => { baseFields c 0x218 with oa := rd, ob := ra }
  | .vpand c vpd vpa vpb n m => { baseFields c 0x219 with oa := vpd.setWidth 6, ob := vpa.setWidth 6, oc := vpb.setWidth 6, oe := n.setWidth 6, imx := maskBits m }
  | .vpor c vpd vpa vpb n m => { baseFields c 0x21A with oa := vpd.setWidth 6, ob := vpa.setWidth 6, oc := vpb.setWidth 6, oe := n.setWidth 6, imx := maskBits m }
  | .vpnot c vpd vpa n m => { baseFields c 0x21B with oa := vpd.setWidth 6, ob := vpa.setWidth 6, oe := n.setWidth 6, imx := maskBits m }
  | .vpcnt c rd vpa n m => { baseFields c 0x21C with oa := rd, ob := vpa.setWidth 6, oe := n.setWidth 6, imx := maskBits m }
  | .vld c vd h ra rb n m o => { baseFields c 0x21D with oa := vd.setWidth 6, ob := h, oc := ra, od := rb, oe := n.setWidth 6, imx := maskBits m, mod := boolBits 4 o }
  | .vst c h ra rb vs n m o => { baseFields c 0x21E with oa := h, ob := ra, oc := rb, od := vs.setWidth 6, oe := n.setWidth 6, imx := maskBits m, mod := boolBits 4 o }
  | .vgth c vd ra vi sh n m o => { baseFields c 0x21F with oa := vd.setWidth 6, ob := ra, oc := vi.setWidth 6, od := sh.setWidth 6, oe := n.setWidth 6, imx := maskBits m, mod := boolBits 4 o }
  | .vsct c ra vi vs sh n m o => { baseFields c 0x220 with oa := ra, ob := vi.setWidth 6, oc := vs.setWidth 6, od := sh.setWidth 6, oe := n.setWidth 6, imx := maskBits m, mod := boolBits 4 o }
  | .vrot c vd va rb n m ax => { baseFields c 0x280 with oa := vd.setWidth 6, ob := va.setWidth 6, oc := rb, oe := n.setWidth 6, imx := maskBits m, mod := boolBits 4 ax }
  | .vbc c vd va rb n m ax => { baseFields c 0x281 with oa := vd.setWidth 6, ob := va.setWidth 6, oc := rb, oe := n.setWidth 6, imx := maskBits m, mod := boolBits 4 ax }
  | .vred c vd va n m ax rop => { baseFields c 0x282 with oa := vd.setWidth 6, ob := va.setWidth 6, oe := n.setWidth 6, imx := maskBits m, mod := modAxOp ax rop }
  | .vscan c vd va n m ax rop => { baseFields c 0x283 with oa := vd.setWidth 6, ob := va.setWidth 6, oe := n.setWidth 6, imx := maskBits m, mod := modAxOp ax rop }
  | .vtrn c vd va m => { baseFields c 0x284 with oa := vd.setWidth 6, ob := va.setWidth 6, imx := maskBits m }
  | .vshuf c vd va vi n m => { baseFields c 0x285 with oa := vd.setWidth 6, ob := va.setWidth 6, oc := vi.setWidth 6, oe := n.setWidth 6, imx := maskBits m }
  | .vcmpr c vd va vps n => { baseFields c 0x286 with oa := vd.setWidth 6, ob := va.setWidth 6, oc := vps.setWidth 6, oe := n.setWidth 6 }
  | .vexp2 c vd va n m => { baseFields c 0x287 with oa := vd.setWidth 6, ob := va.setWidth 6, oe := n.setWidth 6, imx := maskBits m }
  | .vlog2 c vd va n m => { baseFields c 0x288 with oa := vd.setWidth 6, ob := va.setWidth 6, oe := n.setWidth 6, imx := maskBits m }
  | .vrcp c vd va n m => { baseFields c 0x289 with oa := vd.setWidth 6, ob := va.setWidth 6, oe := n.setWidth 6, imx := maskBits m }
  | .vrsq c vd va n m => { baseFields c 0x28A with oa := vd.setWidth 6, ob := va.setWidth 6, oe := n.setWidth 6, imx := maskBits m }
  | .vsqrt c vd va n m => { baseFields c 0x28B with oa := vd.setWidth 6, ob := va.setWidth 6, oe := n.setWidth 6, imx := maskBits m }
  | .vtanh c vd va n m => { baseFields c 0x28C with oa := vd.setWidth 6, ob := va.setWidth 6, oe := n.setWidth 6, imx := maskBits m }
  | .vsin c vd va n m => { baseFields c 0x28D with oa := vd.setWidth 6, ob := va.setWidth 6, oe := n.setWidth 6, imx := maskBits m }
  | .vqpush c q va n => { baseFields c 0x28E with oa := q.setWidth 6, ob := va.setWidth 6, oe := n.setWidth 6 }
  | .vqpop c vd q n => { baseFields c 0x28F with oa := vd.setWidth 6, ob := q.setWidth 6, oe := n.setWidth 6 }
  | .vqstat c rd q => { baseFields c 0x290 with oa := rd, ob := q.setWidth 6 }
  | .mshape c ra rb i32 => { baseFields c 0x300 with oa := ra, ob := rb, mod := boolBits 4 i32 }
  | .mzero c t => { baseFields c 0x301 with oa := t.setWidth 6 }
  | .mma c t va vb vsa vsb g => { baseFields c 0x302 with oa := t.setWidth 6, ob := va.setWidth 6, oc := vb.setWidth 6, od := optVBits vsa, oe := optVBits vsb, mod := modMma g vsa vsb }
  | .mmag c t va vb vsa vsb g prM1 pcM1 => { baseFields c 0x303 with oa := t.setWidth 6, ob := va.setWidth 6, oc := vb.setWidth 6, od := optVBits vsa, oe := optVBits vsb, mod := modMma g vsa vsb, imx := imxGrid prM1 pcM1 }
  | .mlda c t h ra => { baseFields c 0x304 with oa := t.setWidth 6, ob := h, oc := ra }
  | .msta c h t ra band o => { baseFields c 0x305 with oa := h, ob := t.setWidth 6, oc := ra, od := optBandOd band, oe := optBandOe band, mod := bits2 band.isSome o }
  | .mdrain c => baseFields c 0x306
  | .movcG c vd t b => { baseFields c 0x307 with oa := vd.setWidth 6, ob := t.setWidth 6, oc := b.setWidth 6, mod := 0 }
  | .movcP c t va b => { baseFields c 0x307 with oa := t.setWidth 6, ob := va.setWidth 6, oc := b.setWidth 6, mod := 1 }
  | .rmode c qs mode => { baseFields c 0x308 with oa := qs.setWidth 6, mod := mode.setWidth 4 }
  | .cpy c rd hd hs rp rn ch nc => { baseFields c 0x340 with oa := rd, ob := hd, oc := hs, od := rp, oe := rn, mod := modCpy ch false nc }
  | .cpyX c rd hd hs rp rn ch nc => { baseFields c 0x340 with oa := rd, ob := hd, oc := hs, od := rp, oe := rn, mod := modCpy ch true nc }
  | .cpyt c rt hd hs rp rn ch x nc => { baseFields c 0x341 with oa := rt, ob := hd, oc := hs, od := rp, oe := rn, mod := modCpy ch x nc }
  | .cmcast c rd hd hs rp rn ch nc => { baseFields c 0x342 with oa := rd, ob := hd, oc := hs, od := rp, oe := rn, mod := modCpy ch false nc }
  | .gath c rd hd ra vi vpd k ch nc => { baseFields c 0x343 with oa := rd, ob := hd, oc := ra, od := vi.setWidth 6, oe := vpd.setWidth 6, imx := k, mod := modCpy ch false nc }
  | .scat c rd hs ra vi vpm k ch => { baseFields c 0x344 with oa := rd, ob := hs, oc := ra, od := vi.setWidth 6, oe := vpm.setWidth 6, imx := k, mod := modCpy ch false false }
  | .cred c rd hd hs rg rn rop root nc => { baseFields c 0x345 with oa := rd, ob := hd, oc := hs, od := rg, oe := rn, mod := modCpy rop root nc }
  | .cwait c ra => { baseFields c 0x346 with oa := ra }
  | .cstat c rd ra => { baseFields c 0x347 with oa := rd, ob := ra }
  | .csrr c rd csr => { baseFields c 0x380 with oa := rd, od := imm20od (csr), oe := imm20oe (csr), imx := imm20imx (csr), mod := 0 }
  | .csrrX c rd n => { baseFields c 0x380 with oa := rd, ob := n, mod := 1 }
  | .csrrF c rd w => { baseFields c 0x380 with oa := rd, od := imm20od (w), oe := imm20oe (w), imx := imm20imx (w), mod := 2 }
  | .csrw c csr ra => { baseFields c 0x381 with od := imm20od (csr), oe := imm20oe (csr), imx := imm20imx (csr), oa := ra, mod := 0 }
  | .csrwX c n ra => { baseFields c 0x381 with ob := n, oa := ra, mod := 1 }
  | .trap c imm => { baseFields c 0x382 with od := imm20od (imm), oe := imm20oe (imm), imx := imm20imx (imm), mod := 0 }
  | .trapBrk c imm => { baseFields c 0x382 with od := imm20od (imm), oe := imm20oe (imm), imx := imm20imx (imm), mod := 1 }
  | .eret c => { baseFields c 0x383 with mod := 0 }
  | .eretDiscard c => { baseFields c 0x383 with mod := 1 }
  | .spawn c rd ra rb => { baseFields c 0x384 with oa := rd, ob := ra, oc := rb }
  | .gsig c ra => { baseFields c 0x385 with oa := ra }
  | .tlbiVa c ra rb => { baseFields c 0x386 with oa := ra, ob := rb, mod := 0 }
  | .tlbiAsn c ra rb => { baseFields c 0x386 with oa := ra, ob := rb, mod := 1 }
  | .tlbiVd c => { baseFields c 0x386 with mod := 2 }
  | .tlbiGpa c ra rb => { baseFields c 0x386 with oa := ra, ob := rb, mod := 3 }
  | .tlbiS2 c ra rb => { baseFields c 0x386 with oa := ra, ob := rb, mod := 4 }
  | .snap c tag => { baseFields c 0x387 with imx := tag }
  | .ebudQ c rd => { baseFields c 0x388 with oa := rd, mod := 0 }
  | .ebudR c rd ra => { baseFields c 0x388 with oa := rd, ob := ra, mod := 1 }
  | .ebudF c rd ra => { baseFields c 0x388 with oa := rd, ob := ra, mod := 2 }
  | .keyld c rd ra rb => { baseFields c 0x389 with oa := rd, ob := ra, oc := rb }
  | .faultDelivery _ => noFields
  | .holdConvert _ => noFields
  | .holdRestart _ => noFields
  | .walkComplete _ => noFields
  | .s2respSuccess _ => noFields
  | .s2respFail _ => noFields
  | .prgResponse _ _ => noFields
  | .retortLineSwitch _ => noFields
  | .granuleAssign _ _ => noFields
  | .copyBeat _ _ _ _ => noFields
  | .vectorArbiterCycle _ => noFields
  | .taskLeaveStoker _ => noFields
  | .launchCompletion _ => noFields
  | .queueNotify _ _ _ _ => noFields
  | .queueEnable _ _ => noFields
  | .queueDisable _ _ => noFields
  | .launchValidate _ _ => noFields
  | .taskCreate _ _ _ => noFields
  | .flueRound _ => noFields
  | .preqGo _ _ => noFields
  | .preempt _ => noFields
  | .dbgctlResume _ => noFields
  | .dbgctlStep _ _ => noFields
  | .pctlApply _ => noFields
  | .sqrangeWrite _ => noFields
  | .vdcfgWrite _ _ => noFields
  | .latticeWrite _ _ => noFields
  | .vdReset _ => noFields
  | .hostAccess _ => noFields
  | .peerAccess _ => noFields
  | .registerWrite _ _ _ => noFields
  | .matrixEntryComplete _ => noFields
  | .energyMeter _ _ => noFields
  | .powerLimit _ _ => noFields
  | .calendarSlot _ => noFields
  | .kilnStoreAccessComplete _ => noFields
  | .residencyFill _ _ => noFields
  | .leaseExpiry _ => noFields
  | .tenureWaitTimeout _ => noFields
  | .lineWritebackCross _ _ _ => noFields
  | .scrubLine _ => noFields
  | .credTimeout _ _ => noFields
  | .cpytRelease _ => noFields
  | .mmagMeet _ => noFields
  | .matrixHolderAcquire _ => noFields
  | .gangReserveTimeout _ => noFields
  | .starvationPreempt _ => noFields
  | .recodeWaitTimeout _ => noFields
  | .firmwareLoad _ => noFields
  | .atsInvalidate _ _ => noFields
  | .cxlCacheSnoop _ _ => noFields
  | .latticeApply _ => noFields
  | .partitionApply _ => noFields
  | .markerAtHead _ => noFields
  | .suspendDeadline _ => noFields
  | .mwaitTimeout _ => noFields
  | .convoyDrain _ => noFields
  | .credInstanceStart _ _ => noFields
  | .retortJobEnd _ => noFields
  | .haltRetire _ => noFields
  | .energyRefill => noFields
  | .snapshotLatch => noFields
  | .snapin => noFields
  | .snapshotCommand => noFields
  | .snapshotRead => noFields
  | .moduleReset => noFields

/-- The word of a well-formed instruction. -/
def encode (i : Instr) : BitVec 64 := pack (encodeF i)

/-- What a fetched word is (Table 10.11, orders 2 and 4): an instruction, an unassigned opcode, or an assigned opcode
with a reserved field or an operand beyond its limit (the instruction it would name decides order 3 first). -/
inductive Decoded where
  | ok (i : Instr)
  | unassigned
  | illegal (named : Instr)
  deriving DecidableEq, Repr

/-- Decode one word. An instruction is accepted when it is well formed and every field is as its encoding has it, so
that a bit the entry leaves reserved, or a field value beyond its class, is refused. -/
def decodeWord (w : BitVec 64) : Decoded :=
  match candidate (unpack w) with
  | none => .unassigned
  | some i => if i.wf && encodeF i == unpack w then .ok i else .illegal i

/-- Little-endian bytes to a word (R4, R256). -/
def wordOfBytes : List (BitVec 8) → Nat
  | [] => 0
  | b :: bs => b.toNat + 256 * wordOfBytes bs

/-- Decode from bytes: one instruction is eight bytes, the least significant first; the rest of the bytes come back. -/
def decodeBytes (bs : List (BitVec 8)) : Option (Instr × List (BitVec 8)) :=
  if bs.length < 8 then none
  else match decodeWord (BitVec.ofNat 64 (wordOfBytes (bs.take 8))) with
    | .ok i => some (i, bs.drop 8)
    | .unassigned => none
    | .illegal _ => none

/-- The bytes of a number, the least significant first. -/
def bytesOfNat : Nat → Nat → List (BitVec 8)
  | 0, _ => []
  | k + 1, w => BitVec.ofNat 8 w :: bytesOfNat k (w / 256)

/-- The instruction this decoder reads from a word numbered as the opcode table numbers it; every bit above nbits is 0. -/
def decodeTableWord (nbits w : Nat) : Option Instr :=
  (decodeBytes (bytesOfNat 8 (w % 2 ^ min nbits 64))).map (·.1)

/-- The pipe classes (Table 10.12). -/
inductive Pipe where
  | mad | ldp | stp | prm | sfu
  deriving DecidableEq, Repr

/-- What performs an instruction: the stream itself, a pipe of the vector queue, the vector queue without a pipe
(votes, R293), or the matrix queue (R376). -/
inductive IssueTo where
  | stream | pipe (p : Pipe) | vote | matrix
  deriving DecidableEq, Repr

/-- The modes an instruction may be performed in (Tables 10.9, 18.6). -/
inductive ModeSet where
  | any | u | s | m
  deriving DecidableEq, Repr

/-- Where an instruction may be issued. slot: in a delay slot (R289). sMode: by the shadow context (R421).
access: in the access stream (R236). modes: by privilege. word: named by a word at all. -/
structure Traits where
  queue : IssueTo := .stream
  slot : Bool := true
  sMode : Bool := true
  access : Bool := true
  modes : ModeSet := .any
  word : Bool := true
  deriving DecidableEq, Repr

/-- Where and how each instruction may be issued. -/
def Instr.traits : Instr → Traits
  | .add _ _ _ _ => {}
  | .addi _ _ _ _ => {}
  | .sub _ _ _ _ => {}
  | .mul _ _ _ _ => {}
  | .mulh _ _ _ _ => {}
  | .mulhu _ _ _ _ => {}
  | .div _ _ _ _ => {}
  | .divu _ _ _ _ => {}
  | .rem _ _ _ _ => {}
  | .remu _ _ _ _ => {}
  | .and _ _ _ _ => {}
  | .andi _ _ _ _ => {}
  | .or _ _ _ _ => {}
  | .ori _ _ _ _ => {}
  | .xor _ _ _ _ => {}
  | .xori _ _ _ _ => {}
  | .andn _ _ _ _ => {}
  | .shl _ _ _ _ => {}
  | .shli _ _ _ _ => {}
  | .shr _ _ _ _ => {}
  | .shri _ _ _ _ => {}
  | .sra _ _ _ _ => {}
  | .srai _ _ _ _ => {}
  | .rot _ _ _ _ => {}
  | .clz _ _ _ => {}
  | .ctz _ _ _ => {}
  | .popc _ _ _ => {}
  | .min _ _ _ _ => {}
  | .minu _ _ _ _ => {}
  | .max _ _ _ _ => {}
  | .maxu _ _ _ _ => {}
  | .sel _ _ _ _ _ => {}
  | .li _ _ _ => {}
  | .lih _ _ _ _ => {}
  | .ext _ _ _ _ _ _ => {}
  | .ins _ _ _ _ _ => {}
  | .addx _ _ _ _ _ => {}
  | .fadd _ _ _ _ _ => {}
  | .fsub _ _ _ _ _ => {}
  | .fmul _ _ _ _ _ => {}
  | .ffma _ _ _ _ _ _ => {}
  | .fmin _ _ _ _ => {}
  | .fmax _ _ _ _ => {}
  | .fcvt _ _ _ _ _ _ => {}
  | .fcmp _ _ _ _ _ => {}
  | .cmp _ _ _ _ _ => {}
  | .pand _ _ _ _ => {}
  | .por _ _ _ _ => {}
  | .pxor _ _ _ _ => {}
  | .pnot _ _ _ => {}
  | .pmov _ _ _ => {}
  | .pmovGet _ _ => {}
  | .pmovSet _ _ => {}
  | .pbr _ _ _ => {}
  | .br _ _ _ => { slot := false }
  | .call _ _ _ _ => { slot := false }
  | .ret _ _ _ => { slot := false }
  | .bsm _ _ _ => { slot := false, sMode := false }
  | .bsmT _ _ _ => { slot := false, sMode := false }
  | .vany _ _ _ _ => { queue := .vote, sMode := false }
  | .vall _ _ _ _ => { queue := .vote, sMode := false }
  | .halt _ => { slot := false, sMode := false }
  | .yield _ => { slot := false, sMode := false, access := false }
  | .suspend _ _ => { slot := false, sMode := false, access := false }
  | .suspendRel _ _ => { slot := false, sMode := false, access := false }
  | .nop _ => {}
  | .ldb _ _ _ _ _ _ _ => {}
  | .ldh _ _ _ _ _ _ _ => {}
  | .ldw _ _ _ _ _ _ _ => {}
  | .ldd _ _ _ _ _ _ => {}
  | .stb _ _ _ _ _ _ => {}
  | .sth _ _ _ _ _ _ => {}
  | .stw _ _ _ _ _ _ => {}
  | .std _ _ _ _ _ _ => {}
  | .pref _ _ _ _ => {}
  | .aadd _ _ _ _ _ _ _ => {}
  | .aand _ _ _ _ _ _ _ => {}
  | .aor _ _ _ _ _ _ _ => {}
  | .axor _ _ _ _ _ _ _ => {}
  | .amin _ _ _ _ _ _ _ _ => {}
  | .amax _ _ _ _ _ _ _ _ => {}
  | .aswp _ _ _ _ _ _ _ => {}
  | .acas _ _ _ _ _ _ _ _ => {}
  | .monitor _ _ _ => {}
  | .mwait _ _ => { slot := false }
  | .fence _ _ _ => {}
  | .mfence _ _ _ => { sMode := false }
  | .join _ => { sMode := false }
  | .xfence _ _ => {}
  | .publish _ _ _ _ => {}
  | .wfence _ _ => {}
  | .bara _ _ _ => { sMode := false }
  | .barw _ _ _ => { sMode := false }
  | .swset _ _ _ => { sMode := false }
  | .swadd _ _ _ _ _ => { sMode := false }
  | .swait _ _ _ _ => { slot := false, sMode := false }
  | .swread _ _ _ _ _ => { sMode := false }
  | .halloc _ _ _ _ _ => { sMode := false }
  | .hbind _ _ _ _ _ => { sMode := false }
  | .hfree _ _ => { sMode := false }
  | .hshape _ _ _ => { sMode := false }
  | .htenRead _ _ _ _ => { sMode := false }
  | .htenWrite _ _ _ _ => { sMode := false }
  | .hrel _ _ _ _ => { sMode := false }
  | .hseal _ _ _ _ => { sMode := false }
  | .hunseal _ _ _ _ => { sMode := false }
  | .hsplit _ _ _ _ => { sMode := false }
  | .hprio _ _ _ => { sMode := false }
  | .hevict _ _ => { sMode := false }
  | .hdemote _ _ _ _ => { sMode := false }
  | .hzero _ _ => { sMode := false }
  | .hq _ _ _ _ => { sMode := false }
  | .sqmap _ _ _ _ _ => { sMode := false }
  | .sqshare _ _ _ _ _ _ => { sMode := false }
  | .sqfree _ _ _ => { sMode := false }
  | .wopen _ _ _ _ _ _ => { sMode := false }
  | .wclose _ _ _ => { sMode := false }
  | .vadd _ _ _ _ _ _ => { queue := .pipe .mad, sMode := false }
  | .vsub _ _ _ _ _ _ => { queue := .pipe .mad, sMode := false }
  | .vmul _ _ _ _ _ _ => { queue := .pipe .mad, sMode := false }
  | .vfma _ _ _ _ _ _ _ => { queue := .pipe .mad, sMode := false }
  | .vfms _ _ _ _ _ _ _ => { queue := .pipe .mad, sMode := false }
  | .vmin _ _ _ _ _ _ => { queue := .pipe .mad, sMode := false }
  | .vmax _ _ _ _ _ _ => { queue := .pipe .mad, sMode := false }
  | .vabs _ _ _ _ _ => { queue := .pipe .mad, sMode := false }
  | .vneg _ _ _ _ _ => { queue := .pipe .mad, sMode := false }
  | .vand _ _ _ _ _ _ => { queue := .pipe .mad, sMode := false }
  | .vor _ _ _ _ _ _ => { queue := .pipe .mad, sMode := false }
  | .vxor _ _ _ _ _ _ => { queue := .pipe .mad, sMode := false }
  | .vshl _ _ _ _ _ _ => { queue := .pipe .mad, sMode := false }
  | .vshr _ _ _ _ _ _ => { queue := .pipe .mad, sMode := false }
  | .vsra _ _ _ _ _ _ => { queue := .pipe .mad, sMode := false }
  | .vcmp _ _ _ _ _ _ _ => { queue := .pipe .mad, sMode := false }
  | .vsel _ _ _ _ _ _ _ => { queue := .pipe .mad, sMode := false }
  | .vcvt _ _ _ _ _ _ _ _ => { queue := .pipe .mad, sMode := false }
  | .vqblk _ _ _ _ _ _ _ => { queue := .pipe .mad, sMode := false }
  | .vdeq _ _ _ _ _ _ _ => { queue := .pipe .mad, sMode := false }
  | .vtagGet _ _ _ _ => { queue := .pipe .mad, sMode := false }
  | .vtagSet _ _ _ _ => { queue := .pipe .mad, sMode := false }
  | .vtagSetAll _ _ _ => { queue := .pipe .mad, sMode := false }
  | .vretag _ _ _ _ _ => { queue := .pipe .mad, sMode := false }
  | .vsplat _ _ _ _ _ _ => { queue := .pipe .mad, sMode := false }
  | .vmovsGet _ _ _ _ => { queue := .pipe .mad, sMode := false }
  | .vmovsPut _ _ _ _ => { queue := .pipe .mad, sMode := false }
  | .vsetvl _ _ _ => { sMode := false }
  | .vpand _ _ _ _ _ _ => { queue := .pipe .mad, sMode := false }
  | .vpor _ _ _ _ _ _ => { queue := .pipe .mad, sMode := false }
  | .vpnot _ _ _ _ _ => { queue := .pipe .mad, sMode := false }
  | .vpcnt _ _ _ _ _ => { queue := .pipe .mad, sMode := false }
  | .vld _ _ _ _ _ _ _ _ => { queue := .pipe .ldp, sMode := false }
  | .vst _ _ _ _ _ _ _ _ => { queue := .pipe .stp, sMode := false }
  | .vgth _ _ _ _ _ _ _ _ => { queue := .pipe .ldp, sMode := false }
  | .vsct _ _ _ _ _ _ _ _ => { queue := .pipe .stp, sMode := false }
  | .vrot _ _ _ _ _ _ _ => { queue := .pipe .prm, sMode := false }
  | .vbc _ _ _ _ _ _ _ => { queue := .pipe .prm, sMode := false }
  | .vred _ _ _ _ _ _ _ => { queue := .pipe .prm, sMode := false }
  | .vscan _ _ _ _ _ _ _ => { queue := .pipe .prm, sMode := false }
  | .vtrn _ _ _ _ => { queue := .pipe .prm, sMode := false }
  | .vshuf _ _ _ _ _ _ => { queue := .pipe .prm, sMode := false }
  | .vcmpr _ _ _ _ _ => { queue := .pipe .prm, sMode := false }
  | .vexp2 _ _ _ _ _ => { queue := .pipe .sfu, sMode := false }
  | .vlog2 _ _ _ _ _ => { queue := .pipe .sfu, sMode := false }
  | .vrcp _ _ _ _ _ => { queue := .pipe .sfu, sMode := false }
  | .vrsq _ _ _ _ _ => { queue := .pipe .sfu, sMode := false }
  | .vsqrt _ _ _ _ _ => { queue := .pipe .sfu, sMode := false }
  | .vtanh _ _ _ _ _ => { queue := .pipe .sfu, sMode := false }
  | .vsin _ _ _ _ _ => { queue := .pipe .sfu, sMode := false }
  | .vqpush _ _ _ _ => { queue := .pipe .stp, sMode := false }
  | .vqpop _ _ _ _ => { queue := .pipe .ldp, sMode := false }
  | .vqstat _ _ _ => { sMode := false }
  | .mshape _ _ _ _ => { sMode := false, access := false }
  | .mzero _ _ => { queue := .matrix, sMode := false, access := false }
  | .mma _ _ _ _ _ _ _ => { queue := .matrix, sMode := false, access := false }
  | .mmag _ _ _ _ _ _ _ _ _ => { queue := .matrix, sMode := false, access := false }
  | .mlda _ _ _ _ => { queue := .matrix, sMode := false, access := false }
  | .msta _ _ _ _ _ _ => { queue := .matrix, sMode := false, access := false }
  | .mdrain _ => { sMode := false, access := false }
  | .movcG _ _ _ _ => { queue := .matrix, sMode := false, access := false }
  | .movcP _ _ _ _ => { queue := .matrix, sMode := false, access := false }
  | .rmode _ _ _ => { sMode := false, access := false }
  | .cpy _ _ _ _ _ _ _ _ => { sMode := false }
  | .cpyX _ _ _ _ _ _ _ _ => { sMode := false }
  | .cpyt _ _ _ _ _ _ _ _ _ => { sMode := false }
  | .cmcast _ _ _ _ _ _ _ _ => { sMode := false }
  | .gath _ _ _ _ _ _ _ _ _ => { sMode := false }
  | .scat _ _ _ _ _ _ _ _ => { sMode := false }
  | .cred _ _ _ _ _ _ _ _ _ => { sMode := false }
  | .cwait _ _ => { sMode := false }
  | .cstat _ _ _ => { sMode := false }
  | .csrr _ _ _ => {}
  | .csrrX _ _ _ => { modes := .s }
  | .csrrF _ _ _ => { modes := .s }
  | .csrw _ _ _ => {}
  | .csrwX _ _ _ => { modes := .s }
  | .trap _ _ => { slot := false, modes := .u }
  | .trapBrk _ _ => { slot := false, modes := .u }
  | .eret _ => { slot := false, modes := .s }
  | .eretDiscard _ => { slot := false, modes := .s }
  | .spawn _ _ _ _ => { access := false, modes := .u }
  | .gsig _ _ => { modes := .u }
  | .tlbiVa _ _ _ => { modes := .s }
  | .tlbiAsn _ _ _ => { modes := .s }
  | .tlbiVd _ => { modes := .s }
  | .tlbiGpa _ _ _ => { modes := .m }
  | .tlbiS2 _ _ _ => { modes := .m }
  | .snap _ _ => {}
  | .ebudQ _ _ => { modes := .u }
  | .ebudR _ _ _ => { modes := .u }
  | .ebudF _ _ _ => { modes := .u }
  | .keyld _ _ _ _ => { modes := .m }
  | .faultDelivery _ => { word := false }
  | .holdConvert _ => { word := false }
  | .holdRestart _ => { word := false }
  | .walkComplete _ => { word := false }
  | .s2respSuccess _ => { word := false }
  | .s2respFail _ => { word := false }
  | .prgResponse _ _ => { word := false }
  | .retortLineSwitch _ => { word := false }
  | .granuleAssign _ _ => { word := false }
  | .copyBeat _ _ _ _ => { word := false }
  | .vectorArbiterCycle _ => { word := false }
  | .taskLeaveStoker _ => { word := false }
  | .launchCompletion _ => { word := false }
  | .queueNotify _ _ _ _ => { word := false }
  | .queueEnable _ _ => { word := false }
  | .queueDisable _ _ => { word := false }
  | .launchValidate _ _ => { word := false }
  | .taskCreate _ _ _ => { word := false }
  | .flueRound _ => { word := false }
  | .preqGo _ _ => { word := false }
  | .preempt _ => { word := false }
  | .dbgctlResume _ => { word := false }
  | .dbgctlStep _ _ => { word := false }
  | .pctlApply _ => { word := false }
  | .sqrangeWrite _ => { word := false }
  | .vdcfgWrite _ _ => { word := false }
  | .latticeWrite _ _ => { word := false }
  | .vdReset _ => { word := false }
  | .hostAccess _ => { word := false }
  | .peerAccess _ => { word := false }
  | .registerWrite _ _ _ => { word := false }
  | .matrixEntryComplete _ => { word := false }
  | .energyMeter _ _ => { word := false }
  | .powerLimit _ _ => { word := false }
  | .calendarSlot _ => { word := false }
  | .kilnStoreAccessComplete _ => { word := false }
  | .residencyFill _ _ => { word := false }
  | .leaseExpiry _ => { word := false }
  | .tenureWaitTimeout _ => { word := false }
  | .lineWritebackCross _ _ _ => { word := false }
  | .scrubLine _ => { word := false }
  | .credTimeout _ _ => { word := false }
  | .cpytRelease _ => { word := false }
  | .mmagMeet _ => { word := false }
  | .matrixHolderAcquire _ => { word := false }
  | .gangReserveTimeout _ => { word := false }
  | .starvationPreempt _ => { word := false }
  | .recodeWaitTimeout _ => { word := false }
  | .firmwareLoad _ => { word := false }
  | .atsInvalidate _ _ => { word := false }
  | .cxlCacheSnoop _ _ => { word := false }
  | .latticeApply _ => { word := false }
  | .partitionApply _ => { word := false }
  | .markerAtHead _ => { word := false }
  | .suspendDeadline _ => { word := false }
  | .mwaitTimeout _ => { word := false }
  | .convoyDrain _ => { word := false }
  | .credInstanceStart _ _ => { word := false }
  | .retortJobEnd _ => { word := false }
  | .haltRetire _ => { word := false }
  | .energyRefill => { word := false }
  | .snapshotLatch => { word := false }
  | .snapin => { word := false }
  | .snapshotCommand => { word := false }
  | .snapshotRead => { word := false }
  | .moduleReset => { word := false }

/-- The common fields of an instruction; a step of another agent has none of its own. -/
def Instr.ctl : Instr → Ctl
  | .add c _ _ _ => c
  | .addi c _ _ _ => c
  | .sub c _ _ _ => c
  | .mul c _ _ _ => c
  | .mulh c _ _ _ => c
  | .mulhu c _ _ _ => c
  | .div c _ _ _ => c
  | .divu c _ _ _ => c
  | .rem c _ _ _ => c
  | .remu c _ _ _ => c
  | .and c _ _ _ => c
  | .andi c _ _ _ => c
  | .or c _ _ _ => c
  | .ori c _ _ _ => c
  | .xor c _ _ _ => c
  | .xori c _ _ _ => c
  | .andn c _ _ _ => c
  | .shl c _ _ _ => c
  | .shli c _ _ _ => c
  | .shr c _ _ _ => c
  | .shri c _ _ _ => c
  | .sra c _ _ _ => c
  | .srai c _ _ _ => c
  | .rot c _ _ _ => c
  | .clz c _ _ => c
  | .ctz c _ _ => c
  | .popc c _ _ => c
  | .min c _ _ _ => c
  | .minu c _ _ _ => c
  | .max c _ _ _ => c
  | .maxu c _ _ _ => c
  | .sel c _ _ _ _ => c
  | .li c _ _ => c
  | .lih c _ _ _ => c
  | .ext c _ _ _ _ _ => c
  | .ins c _ _ _ _ => c
  | .addx c _ _ _ _ => c
  | .fadd c _ _ _ _ => c
  | .fsub c _ _ _ _ => c
  | .fmul c _ _ _ _ => c
  | .ffma c _ _ _ _ _ => c
  | .fmin c _ _ _ => c
  | .fmax c _ _ _ => c
  | .fcvt c _ _ _ _ _ => c
  | .fcmp c _ _ _ _ => c
  | .cmp c _ _ _ _ => c
  | .pand c _ _ _ => c
  | .por c _ _ _ => c
  | .pxor c _ _ _ => c
  | .pnot c _ _ => c
  | .pmov c _ _ => c
  | .pmovGet c _ => c
  | .pmovSet c _ => c
  | .pbr c _ _ => c
  | .br c _ _ => c
  | .call c _ _ _ => c
  | .ret c _ _ => c
  | .bsm c _ _ => c
  | .bsmT c _ _ => c
  | .vany c _ _ _ => c
  | .vall c _ _ _ => c
  | .halt c => c
  | .yield c => c
  | .suspend c _ => c
  | .suspendRel c _ => c
  | .nop c => c
  | .ldb c _ _ _ _ _ _ => c
  | .ldh c _ _ _ _ _ _ => c
  | .ldw c _ _ _ _ _ _ => c
  | .ldd c _ _ _ _ _ => c
  | .stb c _ _ _ _ _ => c
  | .sth c _ _ _ _ _ => c
  | .stw c _ _ _ _ _ => c
  | .std c _ _ _ _ _ => c
  | .pref c _ _ _ => c
  | .aadd c _ _ _ _ _ _ => c
  | .aand c _ _ _ _ _ _ => c
  | .aor c _ _ _ _ _ _ => c
  | .axor c _ _ _ _ _ _ => c
  | .amin c _ _ _ _ _ _ _ => c
  | .amax c _ _ _ _ _ _ _ => c
  | .aswp c _ _ _ _ _ _ => c
  | .acas c _ _ _ _ _ _ _ => c
  | .monitor c _ _ => c
  | .mwait c _ => c
  | .fence c _ _ => c
  | .mfence c _ _ => c
  | .join c => c
  | .xfence c _ => c
  | .publish c _ _ _ => c
  | .wfence c _ => c
  | .bara c _ _ => c
  | .barw c _ _ => c
  | .swset c _ _ => c
  | .swadd c _ _ _ _ => c
  | .swait c _ _ _ => c
  | .swread c _ _ _ _ => c
  | .halloc c _ _ _ _ => c
  | .hbind c _ _ _ _ => c
  | .hfree c _ => c
  | .hshape c _ _ => c
  | .htenRead c _ _ _ => c
  | .htenWrite c _ _ _ => c
  | .hrel c _ _ _ => c
  | .hseal c _ _ _ => c
  | .hunseal c _ _ _ => c
  | .hsplit c _ _ _ => c
  | .hprio c _ _ => c
  | .hevict c _ => c
  | .hdemote c _ _ _ => c
  | .hzero c _ => c
  | .hq c _ _ _ => c
  | .sqmap c _ _ _ _ => c
  | .sqshare c _ _ _ _ _ => c
  | .sqfree c _ _ => c
  | .wopen c _ _ _ _ _ => c
  | .wclose c _ _ => c
  | .vadd c _ _ _ _ _ => c
  | .vsub c _ _ _ _ _ => c
  | .vmul c _ _ _ _ _ => c
  | .vfma c _ _ _ _ _ _ => c
  | .vfms c _ _ _ _ _ _ => c
  | .vmin c _ _ _ _ _ => c
  | .vmax c _ _ _ _ _ => c
  | .vabs c _ _ _ _ => c
  | .vneg c _ _ _ _ => c
  | .vand c _ _ _ _ _ => c
  | .vor c _ _ _ _ _ => c
  | .vxor c _ _ _ _ _ => c
  | .vshl c _ _ _ _ _ => c
  | .vshr c _ _ _ _ _ => c
  | .vsra c _ _ _ _ _ => c
  | .vcmp c _ _ _ _ _ _ => c
  | .vsel c _ _ _ _ _ _ => c
  | .vcvt c _ _ _ _ _ _ _ => c
  | .vqblk c _ _ _ _ _ _ => c
  | .vdeq c _ _ _ _ _ _ => c
  | .vtagGet c _ _ _ => c
  | .vtagSet c _ _ _ => c
  | .vtagSetAll c _ _ => c
  | .vretag c _ _ _ _ => c
  | .vsplat c _ _ _ _ _ => c
  | .vmovsGet c _ _ _ => c
  | .vmovsPut c _ _ _ => c
  | .vsetvl c _ _ => c
  | .vpand c _ _ _ _ _ => c
  | .vpor c _ _ _ _ _ => c
  | .vpnot c _ _ _ _ => c
  | .vpcnt c _ _ _ _ => c
  | .vld c _ _ _ _ _ _ _ => c
  | .vst c _ _ _ _ _ _ _ => c
  | .vgth c _ _ _ _ _ _ _ => c
  | .vsct c _ _ _ _ _ _ _ => c
  | .vrot c _ _ _ _ _ _ => c
  | .vbc c _ _ _ _ _ _ => c
  | .vred c _ _ _ _ _ _ => c
  | .vscan c _ _ _ _ _ _ => c
  | .vtrn c _ _ _ => c
  | .vshuf c _ _ _ _ _ => c
  | .vcmpr c _ _ _ _ => c
  | .vexp2 c _ _ _ _ => c
  | .vlog2 c _ _ _ _ => c
  | .vrcp c _ _ _ _ => c
  | .vrsq c _ _ _ _ => c
  | .vsqrt c _ _ _ _ => c
  | .vtanh c _ _ _ _ => c
  | .vsin c _ _ _ _ => c
  | .vqpush c _ _ _ => c
  | .vqpop c _ _ _ => c
  | .vqstat c _ _ => c
  | .mshape c _ _ _ => c
  | .mzero c _ => c
  | .mma c _ _ _ _ _ _ => c
  | .mmag c _ _ _ _ _ _ _ _ => c
  | .mlda c _ _ _ => c
  | .msta c _ _ _ _ _ => c
  | .mdrain c => c
  | .movcG c _ _ _ => c
  | .movcP c _ _ _ => c
  | .rmode c _ _ => c
  | .cpy c _ _ _ _ _ _ _ => c
  | .cpyX c _ _ _ _ _ _ _ => c
  | .cpyt c _ _ _ _ _ _ _ _ => c
  | .cmcast c _ _ _ _ _ _ _ => c
  | .gath c _ _ _ _ _ _ _ _ => c
  | .scat c _ _ _ _ _ _ _ => c
  | .cred c _ _ _ _ _ _ _ _ => c
  | .cwait c _ => c
  | .cstat c _ _ => c
  | .csrr c _ _ => c
  | .csrrX c _ _ => c
  | .csrrF c _ _ => c
  | .csrw c _ _ => c
  | .csrwX c _ _ => c
  | .trap c _ => c
  | .trapBrk c _ => c
  | .eret c => c
  | .eretDiscard c => c
  | .spawn c _ _ _ => c
  | .gsig c _ => c
  | .tlbiVa c _ _ => c
  | .tlbiAsn c _ _ => c
  | .tlbiVd c => c
  | .tlbiGpa c _ _ => c
  | .tlbiS2 c _ _ => c
  | .snap c _ => c
  | .ebudQ c _ => c
  | .ebudR c _ _ => c
  | .ebudF c _ _ => c
  | .keyld c _ _ _ => c
  | .faultDelivery _ => {}
  | .holdConvert _ => {}
  | .holdRestart _ => {}
  | .walkComplete _ => {}
  | .s2respSuccess _ => {}
  | .s2respFail _ => {}
  | .prgResponse _ _ => {}
  | .retortLineSwitch _ => {}
  | .granuleAssign _ _ => {}
  | .copyBeat _ _ _ _ => {}
  | .vectorArbiterCycle _ => {}
  | .taskLeaveStoker _ => {}
  | .launchCompletion _ => {}
  | .queueNotify _ _ _ _ => {}
  | .queueEnable _ _ => {}
  | .queueDisable _ _ => {}
  | .launchValidate _ _ => {}
  | .taskCreate _ _ _ => {}
  | .flueRound _ => {}
  | .preqGo _ _ => {}
  | .preempt _ => {}
  | .dbgctlResume _ => {}
  | .dbgctlStep _ _ => {}
  | .pctlApply _ => {}
  | .sqrangeWrite _ => {}
  | .vdcfgWrite _ _ => {}
  | .latticeWrite _ _ => {}
  | .vdReset _ => {}
  | .hostAccess _ => {}
  | .peerAccess _ => {}
  | .registerWrite _ _ _ => {}
  | .matrixEntryComplete _ => {}
  | .energyMeter _ _ => {}
  | .powerLimit _ _ => {}
  | .calendarSlot _ => {}
  | .kilnStoreAccessComplete _ => {}
  | .residencyFill _ _ => {}
  | .leaseExpiry _ => {}
  | .tenureWaitTimeout _ => {}
  | .lineWritebackCross _ _ _ => {}
  | .scrubLine _ => {}
  | .credTimeout _ _ => {}
  | .cpytRelease _ => {}
  | .mmagMeet _ => {}
  | .matrixHolderAcquire _ => {}
  | .gangReserveTimeout _ => {}
  | .starvationPreempt _ => {}
  | .recodeWaitTimeout _ => {}
  | .firmwareLoad _ => {}
  | .atsInvalidate _ _ => {}
  | .cxlCacheSnoop _ _ => {}
  | .latticeApply _ => {}
  | .partitionApply _ => {}
  | .markerAtHead _ => {}
  | .suspendDeadline _ => {}
  | .mwaitTimeout _ => {}
  | .convoyDrain _ => {}
  | .credInstanceStart _ _ => {}
  | .retortJobEnd _ => {}
  | .haltRetire _ => {}
  | .energyRefill => {}
  | .snapshotLatch => {}
  | .snapin => {}
  | .snapshotCommand => {}
  | .snapshotRead => {}
  | .moduleReset => {}

end Sys2Proof
end

