-- ==== Sys2Proof/Machine/State.lean ====
section
/-!
DEFINITION. Sys2Proof/Machine/State.lean: the state of the module as plain data, the ways a step can stop, and the state
after reset. One field for each piece of state the spec names; INVENTORY.md lists them with their rules.
-/

namespace Sys2Proof.Machine

open Sys2Proof

/-- A sparse map from numbers: entries of strictly rising key, none of them the map's default value. -/
abbrev SMap (β : Type) := List (Nat × β)

/-- Privilege modes (R418). -/
inductive Mode where
  | u | s | m
  deriving DecidableEq, Repr

/-- Fault causes (Table 18.3). -/
inductive Cause where
  | illegalOp | illegalConvoy | privOp | pipeNotOwned | formatPair | undefRead | poisonConsumed | foreignLine
  | recodeTimeout | translation | stage2 | permission | wxViolation | halfPublished | fetchTag | handleInvalid
  | handleShape | bindAttrMismatch | tenureTimeout | noProgress | queueError | integrity | crcExhausted | trapInstr
  | breakpoint | watchpoint
  deriving DecidableEq, Repr

/-- What raised a fault: the stream, a vector-queue entry, a matrix-queue entry, a copy beat (Table 18.5, SRC). -/
inductive FaultSrc where
  | stream | vector | matrix | beat
  deriving DecidableEq, Repr

/-- A fault: its cause and value, the PC of what raised it (FPC), where the stream resumes (epc), and for a vector
entry the element that vstart names (Tables 10.6, 18.5). -/
structure FaultInfo where
  cause : Cause
  etval : Word
  fpc : Word := 0
  epc : Word := 0
  held : Bool := false
  src : FaultSrc := .stream
  elem : Nat := 0
  deriving DecidableEq, Repr

/-- A fault that waits at its core, or is being served: the stream it belongs to and since when (R420). -/
structure Waiting where
  ctx : Nat
  info : FaultInfo
  since : Nat
  conv : Bool := false
  deriving DecidableEq, Repr

/-- A vector-register row, or a row of a tagged queue: its tag and 64 elements of up to 32 bits (R62, R238). After task
start it reads zero with tag 0x1_3F80 (R64). -/
structure Row where
  tag : Tag := 0x013F80
  data : Vector (BitVec 32) 64 := Vector.replicate 64 0
  deriving DecidableEq, Repr

/-- A pending branch transfer: the target, and the delay slots still to be performed (R289). -/
structure Pending where
  target : Word
  slots : Nat
  deriving DecidableEq, Repr

/-- A convoy: its members of each class, the rows of the first (R265, R456, Table 18.9), YLD of the last. -/
structure Convoy where
  mad : Nat := 0
  ldp : Nat := 0
  stp : Nat := 0
  prm : Nat := 0
  sfu : Nat := 0
  rows : Nat := 16
  yld : Bool := false
  deriving DecidableEq, Repr

/-- A queued vector or matrix instruction with what it captured at issue (Table 18.9). `begins` marks a convoy's first
member; `pipe` and `rows` are the class of the pipe a member needs and its rows (R263, R456); `waiting`, an entry at its queue's head whose wait has begun (R239); `piped`, an entry for which a pipe is bound (R267); `lost`, the
handle it waits on that has been freed meanwhile (R318); `seq` orders the entries of a task's vector and matrix queues by issue (R380). -/
structure QEntry where
  instr : Instr
  pc : Word
  vl : Nat := 64
  mshape : Word := 0
  vstart : Nat := 0
  op1 : Word := 0
  op2 : Word := 0
  begins : Bool := false
  pipe : Option Pipe := none
  rows : Nat := 1
  waiting : Bool := false
  piped : Bool := false
  lost : Option (BitVec 6) := none
  seq : Nat := 0
  deriving DecidableEq, Repr

/-- An item of a vector or matrix queue: an instruction, a rounding-mode entry (R379), or an MFENCE marker of a
stream (R307). -/
inductive QItem where
  | entry (e : QEntry)
  | mode (m : BitVec 3) (e : QEntry)
  | marker (ctx : Nat)
  deriving DecidableEq, Repr

/-- An MFENCE marker of a stream that has not reached its queue's head: queue 0 vector, 1 matrix, 2 to 5 copy channels;
for a channel, every transfer of the task numbered below `below` must retire (R307). -/
structure Marker where
  queue : Nat
  below : Nat := 0
  deriving DecidableEq, Repr

/-- A stream's monitor (R250): the line by VA and by physical address, and whether the watch has fired. -/
structure Monitor where
  va : Word
  line : Nat
  fired : Bool := false
  deriving DecidableEq, Repr

/-- The kinds of access (Table 2.11). -/
inductive Access where
  | load | store | atomic | fetch
  deriving DecidableEq, Repr

/-- The identity of a key: a VD's slot-0 key of a generation (64: the physical function), or a window's (R181). -/
inductive KeyId where
  | own (vd gen : Nat)
  | window (w gen : Nat)
  deriving DecidableEq, Repr

/-- A line a fetch agent holds (R219): its bytes, and the key they were read under (R184). -/
structure Fetched where
  line : Nat
  key : Option KeyId
  bytes : List (BitVec 8)
  deriving DecidableEq, Repr

/-- What a held access waits for (R426): a walk, a page request, the switch of a RECODE line or of a FOREIGN line that
a re-key job covers from the key it would be read under, or the handler of a held fault. -/
inductive HoldKind where
  | walk
  | request (kind : Nat) (page : Nat)
  | recode (line : Nat)
  | foreign (line : Nat) (key : Option KeyId)
  | handler
  deriving DecidableEq, Repr

/-- A hold of a stream's task (R426): what holds it, the address and access, the element that waits, since when the task is held and since
when for this cause, and when the awaited event has happened, the cycle at which the clocks restart. -/
structure Hold where
  kind : HoldKind
  va : Word
  access : Access
  src : FaultSrc := .stream
  elem : Nat := 0
  since : Nat
  began : Nat := since
  due : Option Nat := none
  deriving DecidableEq, Repr

/-- How far a stream's instruction has come that goes on where it stopped (R427): HBIND and HSHAPE, by the address and with the attributes
of the first page; HZERO, by the line; WOPEN, by the address and with the granules of its steps so far, the last first. -/
structure Progress where
  next : Nat
  attrs : Nat := 0
  steps : List (Option Nat) := []
  deriving DecidableEq, Repr

/-- One execution context: a stoker, a shadow context, or the management core. Registers of Tables 10.1, 10.2 and
18.5, the vector queue, what the stream waits for, the handle it waits on that has been freed meanwhile (R318), and how far its instruction
has come; for a stoker that DBGCTL stopped, whether a STEP is under way and whether its
instruction has been issued (R482). -/
structure Ctx where
  mode : Mode := .u
  live : Bool := false
  task : Option Nat := none
  access : Bool := false
  halted : Bool := false
  faulted : Bool := false
  stopped : Bool := false
  stepping : Bool := false
  stepped : Bool := false
  vd : Nat := 64
  asn : Nat := 0
  pc : Word := 0
  pend : Option Pending := none
  regs : Vector Word 64 := Vector.replicate 64 0
  preds : Vector Bool 8 := Vector.replicate 8 false
  brs : Vector Word 4 := Vector.replicate 4 0
  rows : SMap Row := []
  vps : Vector (BitVec 1024) 16 := Vector.replicate 16 0
  vl : Word := 64
  vstart : Word := 0
  vdirty : Word := 0
  vstat : Word := 0
  mshape : Word := 0
  fpmode : Word := 0
  smpc : Word := 0
  smprev : Word := 0
  smcnt : Word := 0
  cause : Word := 0
  epc : Word := 0
  etval : Word := 0
  fpc : Word := 0
  frSrc : FaultSrc := .stream
  frHeld : Bool := false
  frConv : Bool := false
  hcyc : Word := 0
  vq : List QItem := []
  vqMode : BitVec 3 := 0
  convoy : Option Convoy := none
  bound : Option Convoy := none
  drained : Bool := true
  markers : List Marker := []
  convoyMarker : Bool := false
  monitor : Option Monitor := none
  hold : Option Hold := none
  waitSince : Option Nat := none
  lost : Option (BitVec 6) := none
  progress : Option Progress := none
  fetched : List Fetched := []
  ir : Word := 0
  deriving DecidableEq, Repr

/-- Task states (Table 9.7). -/
inductive Status where
  | ready | running | suspended | done | discarded
  deriving DecidableEq, Repr

/-- Reasons (Table 9.3). -/
inductive Reason where
  | none | swait | mwait | yield | suspend | preempted | energy
  deriving DecidableEq, Repr

/-- A tagged queue: the slot of its oldest row, and its rows, oldest first (R238, Table 9.11). -/
structure TagQueue where
  head : Nat := 0
  rows : List Row := []
  deriving DecidableEq, Repr

/-- A tile-table entry's four words (Tables 5.1 to 5.4), the job word (Table 13.6), and what the part keeps of the
handle beside them: its original format (R113) and the page attributes recorded at its binding (R320). -/
structure HEntry where
  sync : Word := 0
  info : Word := 0
  shape : Word := 0
  loc : Word := 0
  fmt0 : BitVec 6 := 0
  attrs : Nat := 0
  tracked : Bool := true
  busy : Nat := 0
  skipped : Nat := 0
  deriving DecidableEq, Repr

/-- What a dispatched task still has to do before its first instruction: set the entries of its handle list from a place on
(R274), or read its frame (R506); after a move from a core that its VD has lost (R470), a fault follows. -/
inductive Boot where
  | handles (n : Nat)
  | frame
  | moved
  deriving DecidableEq, Repr

/-- A task: the fields of its continuation record (Tables 9.1 to 9.6), the state its streams share, and what the flue
keeps of it: whether the record is still to be written with STATUS RUNNING (R233), the execute stream's copy markers across a suspension
(R308), pre-emption requests, and what a save area holds of a task saved there: its streams with the contexts they ran
in, SAVED and VLS of each, its tiles, CUR (Tables 18.7 to 18.9). -/
structure Task where
  vd : Nat
  asn : Nat
  launch : Nat
  node : Nat
  lid : Nat
  index : Nat
  rank : Nat := 0
  kiln : Nat := 0
  xpc : Word := 0
  apc : Word := 0
  arg : Word := 0
  frame : Word := 0
  frameSlot : Nat := 0
  cr : Word := 0
  crSlot : Nat := 0
  status : Status := .ready
  reason : Reason := .none
  prio : Nat := 0
  core : Nat := 0
  av : Bool := false
  accessFlag : Bool := false
  cord : Bool := false
  cszm1 : Nat := 0
  cordCores : List Nat := []
  gang : Nat := 0
  pre : Bool := false
  wspill : Bool := false
  ran : Bool := false
  waitObj : Word := 0
  win : Nat := 0
  energy : Nat := 0
  ebud : Nat := 0
  xctx : Option Nat := none
  actx : Option Nat := none
  queues : Vector TagQueue 4 := Vector.replicate 4 {}
  mq : List QItem := []
  mqMode : BitVec 3 := 0
  mmag : Nat := 0
  arrived : Option Nat := none
  barGen : Nat := 0
  readySince : Nat := 0
  runSince : Nat := 0
  energyWait : Bool := false
  kept : SMap HEntry := []
  waitUntil : Option Nat := none
  preReq : Bool := false
  preqReg : Bool := false
  monitor : Option Monitor := none
  boot : Option Boot := none
  crDue : Bool := false
  markers : List Marker := []
  saved : List (Nat × Ctx) := []
  savedRegs : List (Word × List Nat) := []
  savedAcc : SMap (BitVec 32) := []
  cur : Bool := false
  deriving DecidableEq, Repr

/-- States of a transfer (Table 17.5). -/
inductive TState where
  | pending | retired | failed
  deriving DecidableEq, Repr

/-- The copy operations (Table 17.1). -/
inductive CopyKind where
  | copy | layer | cmcast | gath | scat | cred
  deriving DecidableEq, Repr

/-- A destination of a transfer: the core and tile-table entry, with the kiln and owner tag captured at issue (R130). -/
structure Dest where
  core : Nat
  entry : Nat
  kiln : Nat
  owner : Nat
  deriving DecidableEq, Repr

/-- A beat that has departed and not landed: what it waits for, if a cause of its own, the page whose walk it waits for, and since when. -/
structure BeatWait where
  beat : Nat
  kind : Option HoldKind := none
  page : Nat := 0
  since : Nat
  deriving DecidableEq, Repr

/-- A transfer of a copy channel (R395, R403, Table 17.5): its number, issuer (the task, and whether its access stream), sides, places and byte count, what it has
landed, and its outcome. For GATH and SCAT `lanes` holds the active lanes' element and address. `waits` holds the beats
that have departed and wait; `reqs`, the page requests its beats wait for, kind and page. `begun`, whether a beat of it has been attempted;
`issued`, its place in the order of issue (R407); `held`, the source lines of beats that have landed at some destinations (R408). `landed` is
keyed by 32 times the beat plus the destination's place. -/
structure Transfer where
  num : Nat
  kind : CopyKind
  task : Nat
  access : Bool := false
  pc : Word := 0
  vd : Nat
  asn : Nat
  dests : List Dest := []
  src : Dest := ⟨0, 0, 0, 0⟩
  dOff : Nat := 0
  sOff : Nat := 0
  bytes : Nat := 0
  noCredit : Bool := false
  landed : SMap Bool := []
  lanes : List (Nat × Nat) := []
  credited : Nat := 0
  state : TState := .pending
  cause : BitVec 8 := 0
  waits : List BeatWait := []
  reqs : List (Nat × Nat) := []
  begun : Bool := false
  timed : Option Nat := none
  issued : Nat := 0
  held : List (Nat × BitVec 1024 × Tag) := []
  deriving DecidableEq, Repr

/-- A copy channel: the next number (1 after reset), its transfers, and the watermark (R395). -/
structure Channel where
  next : Nat := 1
  transfers : List Transfer := []
  done : Nat := 1
  deriving DecidableEq, Repr

/-- Page attributes of a translation, as the leaves grant them (Tables 2.6, 2.9). -/
structure Attrs where
  key : Nat
  tagpol : Nat
  grain : Nat
  trk : Bool
  strict : Bool
  u : Bool
  x : Bool
  w : Bool
  r : Bool
  s2x : Bool
  s2w : Bool
  s2r : Bool
  dirty : Bool
  deriving DecidableEq, Repr

/-- A TLB entry (R48): its VD and ASN (none when G), the page it covers and its size, the host-physical base, both
leaves' attributes, where its stage-1 leaf lies and the word that was walked there (R36), and the guest page it came through. -/
structure TlbEntry where
  vd : Nat
  asn : Option Nat
  base : Nat
  size : Nat
  hpa : Nat
  gpa : Nat
  s2base : Nat
  s2size : Nat
  leaf : Nat
  word : Word := 0
  attrs : Attrs
  deriving DecidableEq, Repr

/-- Who holds a granule of scratchpad or kiln store: the holder's kiln and owner tag; owner 0 is clear (R129). -/
structure Owner where
  kiln : Nat := 0
  owner : Nat := 0
  vd : Nat := 0
  deriving DecidableEq, Repr

/-- An access that waits for or travels on the calendar network (R117, R118): its place in the fixed order, its channel pair, who asks for
which two lines of the pair, read or written. -/
structure CalReq where
  rank : Nat
  pair : Nat
  who : Nat := 0
  lines : Nat := 0
  store : Bool := false
  issued : Nat
  departs : Option Nat := none
  deriving DecidableEq, Repr

/-- A core: tile table, granule records, accumulator tiles, matrix holders, copy channels, partition records as written and as
applied, the accepted ones that wait to be applied (PCTL.BUSY), vector arbiter, the copy engine's arbiter (R394), faults, first-level TLB, calendar requests. -/
structure Core where
  tiles : SMap HEntry := []
  granules : SMap Owner := []
  acc : SMap (BitVec 32) := []
  holder0 : Option Nat := none
  holder1 : Option Nat := none
  chans : Vector Channel 4 := Vector.replicate 4 {}
  rec0A : Word := 0
  rec0B : Word := 0
  rec1A : Word := 0
  rec1B : Word := 0
  part0A : Word := 0
  part0B : Word := 0
  part1A : Word := 0
  part1B : Word := 0
  pctlNext : Option (Word × Word × Word × Word) := none
  pctlErr : Bool := false
  deficit : Vector Nat 4 := Vector.replicate 4 0
  lastBound : Nat := 3
  copyDeficit : Vector Nat 4 := Vector.replicate 4 0
  copyLast : Nat := 0
  faults : List Waiting := []
  serving : Option Waiting := none
  tlb : List TlbEntry := []
  calendar : List CalReq := []
  deriving DecidableEq, Repr

/-- What a retort job does to its lines (R77, R123, R193, R198): demote the lines of a handle, whose entry stood so when the job
was started; demote a cached tensor that its kiln needs the room of; re-key a window's granules to the window key; or back, zeroing
them or not. -/
inductive JobKind where
  | demote (e5 : Bool) (sw : Bool) (core entry asn : Nat) (e : HEntry)
  | residency (asn : Nat) (e : HEntry)
  | rekeyIn (win : Nat)
  | rekeyOut (win : Nat) (zero : Bool)
  deriving DecidableEq, Repr

/-- A retort job: its VD, its runs of lines (first line, count, and the number of the first within the handle), how many it has taken
on, those it holds in RECODE (the line, its number and the class it had), how many are done, and lines skipped. -/
structure Job where
  kind : JobKind
  vd : Nat
  runs : List (Nat × Nat × Nat)
  taken : Nat := 0
  recode : List (Nat × Nat × Nat) := []
  done : Nat := 0
  skipped : Nat := 0
  deriving DecidableEq, Repr

/-- A redirected sync word (R244): the task whose window lies in its frame, the handle, and credit not yet applied. -/
structure Redirect where
  task : Nat
  h : Nat
  kept : Nat := 0
  deriving DecidableEq, Repr

/-- A kiln: owner-tag counter, kiln-store granules, retort jobs, the flue's queues, second-level TLB, redirects. -/
structure Kiln where
  ownerCtr : Nat := 1
  granules : SMap Owner := []
  jobs : List Job := []
  ready : List Nat := []
  vtime : SMap Nat := []
  reserved : List (Nat × Nat × Nat) := []
  gangSince : Option Nat := none
  served : List Nat := []
  tlb : List TlbEntry := []
  redirect : SMap Redirect := []
  deriving DecidableEq, Repr

/-- A work queue (Table 20.2). state: 0 DISABLED, 1 ACTIVE, 2 ERROR. -/
structure WorkQueue where
  base : Word := 0
  rd : Nat := 0
  wr : Nat := 0
  vec : Nat := 0
  state : Nat := 0
  en : Bool := false
  deriving DecidableEq, Repr

/-- A watchpoint's words (Table 21.2). -/
structure Watch where
  first : Word := 0
  limit : Word := 0
  ctrl : Word := 0
  deriving DecidableEq, Repr

/-- A vector of the MSI-X table: its message data, mask and pending bits (R465; masked at reset, as PCIe has it). -/
structure Msix where
  data : BitVec 32 := 0
  masked : Bool := true
  pending : Bool := false
  deriving DecidableEq, Repr

/-- A virtual device's registers and tables (Tables 2.2, 2.4, 18.1, 20.1 to 20.9, 21.1 to 21.3); 64 stands for the
physical function. -/
structure Vd where
  astbase : Word := 0
  s2root : Word := 0
  cfg : Word := 0x0101000000000000
  peers : Word := 0
  tvec : Word := 0
  tscr : Word := 0
  psbase : Word := 0
  errbase : Word := 0
  erridx : Word := 0
  featoff : BitVec 256 := 0
  featacc : BitVec 256 := 0
  lock : Bool := false
  rst : Bool := false
  enabled : Bool := false
  pasid : SMap (BitVec 32) := []
  msix : SMap Msix := []
  btidx : Word := 0
  queues : SMap WorkQueue := []
  lat : SMap (BitVec 8) := []
  latHeld : List (Nat × BitVec 8) := []
  keyGen : Nat := 0
  slots : SMap (Option KeyId) := []
  refill : Word := 0
  refillNext : Word := 0
  rem : Int := 0
  dbgcfg : Word := 0
  dbgStk : Nat := 0
  dbgWaiting : Bool := false
  stopinfo : Word := 0
  skid : SMap Nat := []
  watch : SMap Watch := []
  aperture : SMap Nat := []
  deriving DecidableEq, Repr

/-- An HBM granule's ownership entry (Table 7.2), its tree root (R190), and the generation of the owner's key under
which its lines stand (R181, R438). -/
structure Granule where
  owner : Nat := 64
  wk : Bool := false
  win : Nat := 0
  rk : Bool := false
  rdir : Bool := false
  prog : Nat := 0
  root : Word := 0
  gen : Nat := 0
  deriving DecidableEq, Repr

/-- An error standing in an HBM line: symbols in error, a failed MAC, transfers that fail their CRC (R176 to R178, R187), or a
mismatch on the path of its counters (R191). An input of the outside world. -/
inductive LineError where
  | symbols (n : Nat)
  | mac
  | crc (fails : Nat)
  | tree
  deriving DecidableEq, Repr

/-- HBM beneath the tags: counters (R188, R189), those of the trees' nodes (R190), errors, poison lists, failed stacks, correctable
counts. -/
structure Hbm where
  granules : SMap Granule := []
  major : SMap Nat := []
  minor : SMap Nat := []
  tree : SMap Nat := []
  errors : SMap (Option LineError) := []
  poison : List Nat := []
  failed : List Nat := []
  correctable : SMap Nat := []
  marked : SMap Bool := []
  deriving DecidableEq, Repr

/-- A window's stage (R193, R198). -/
inductive WinState where
  | free | opening | openW | closing
  deriving DecidableEq, Repr

/-- A window (R193): owner, peer, granules, the slots bound in each table, its key's generation, and the
task whose WCLOSE waits for its end. -/
structure Window where
  state : WinState := .free
  owner : Nat := 0
  peer : Nat := 0
  granules : List Nat := []
  oslot : Nat := 0
  pslot : Nat := 0
  gen : Nat := 0
  flushes : Nat := 0
  closer : Option Nat := none
  deriving DecidableEq, Repr

/-- A line one party of a window retains (R194): its bytes under a mask, the tag if a tagged write made it, and, for a
sequence-store frame, the name it was written through (R500). -/
structure Retained where
  vd : Nat
  win : Nat
  line : Nat
  mask : BitVec 128
  data : BitVec 1024
  tag : Option Tag
  name : Option Nat := none
  deriving DecidableEq, Repr

/-- A frame word of the block table (Table 5.11): how many names map the frame, and whether it is sealed. -/
structure FrameWord where
  refs : Nat := 0
  sealed : Bool := false
  deriving DecidableEq, Repr

/-- A tracked tensor (Table 6.1). -/
inductive TensorId where
  | core (core gbase gcount : Nat)
  | kiln (kiln gbase gcount : Nat)
  | package (gbase gcount : Nat)
  | mem (vd asn base : Nat) (shape : Word) (fmt : BitVec 6)
  | seq (vd name : Nat)
  deriving DecidableEq, Repr

/-- States of a directory entry (Table 6.2). -/
inductive CellState where
  | idle | read | drain | write | sealed | unsealing
  deriving DecidableEq, Repr

/-- A handle of a task, as a holder of tenure. -/
structure Holder where
  task : Nat
  h : Nat
  deriving DecidableEq, Repr

/-- What a directory below a tensor's highest holds of a cell under READ (R145): the expiry of its own lease from above, and its predictor. -/
structure Lease where
  expiry : Nat := 0
  lease : Nat := 256
  deriving DecidableEq, Repr

/-- A grid cell's entry in its tensor's highest directory (Table 6.2), with what the directories below and the holders keep of it: the core
that holds WRITE (and with it the kiln and the task), leases by directory and by handle, sealed copies by core. -/
structure Cell where
  state : CellState := .idle
  holder : Option Holder := none
  core : Nat := 0
  expiry : Nat := 0
  lease : Nat := 256
  below : SMap Lease := []
  readers : List (Holder × Nat) := []
  sealer : Option Holder := none
  copies : List (Nat × Holder) := []
  deriving DecidableEq, Repr

/-- What a tenure request asks (Table 6.3, R153, R161). -/
inductive TenKind where
  | read | write | seal | unseal
  deriving DecidableEq, Repr

/-- A waiting tenure request: who asks (see Client), from which core and task, for which cells, since when, the value and element its fault
would name, whether the bound has ended its wait (R165); its places in the queues of its core's, its kiln's and the highest directory, 0
where it has not arrived (R143, R157); whether an answer to another request of its core or kiln has served it (R143); whether it is
a scalar read's, which takes no tenure (R161); the columns of the grid that its cells are numbered by; and for an unseal, all the cells it asked for. -/
structure TenReq where
  who : Nat
  core : Nat
  task : Nat
  kind : TenKind
  holder : Option Holder := none
  cells : List Nat
  since : Nat
  etval : Word := 0
  elem : Nat := 0
  timedOut : Bool := false
  atCore : Nat := 0
  atKiln : Nat := 0
  atTop : Nat := 0
  served : Bool := false
  plain : Bool := false
  cols : Nat := 1
  whole : List Nat := []
  deriving DecidableEq, Repr

/-- A tracked tensor's entries and requests, in all the directories that track it (R147, R157); `clock` numbers arrivals, `cols` is the
width of its grid in cells (R139). -/
structure TensorDir where
  id : TensorId
  cells : SMap Cell := []
  queue : List TenReq := []
  clock : Nat := 0
  cols : Nat := 1
  deriving DecidableEq, Repr

/-- A line of an untracked tensor as a kiln keeps it (R141): its bytes and tag, the bytes written there since and the streams that wrote
them, and the key it was read under (R184). -/
structure Copy where
  data : BitVec 1024
  tag : Tag
  dirty : BitVec 128 := 0
  key : Option KeyId := none
  writers : List Nat := []
  deriving DecidableEq, Repr

/-- A MEM or SEQ tensor resident in a kiln (R122): the handle that made it so, as its tensor's likeness; its lines in the store, the
cycle of its last access, whether it has been demoted since its fill; lines written back singly for room (R124); for an untracked
tensor, its lines' own copies (R141). -/
structure Resident where
  kiln : Nat
  vd : Nat
  asn : Nat
  e : HEntry
  lines : Nat
  filled : Nat := 0
  last : Nat
  demoted : Bool := false
  gone : List Nat := []
  copies : SMap (Option Copy) := []
  deriving DecidableEq, Repr

/-- States of a 32-byte sector in a core's cache (Table 6.7). -/
inductive Sector where
  | m | o | e | s | i
  deriving DecidableEq, Repr

/-- A LAYER beat's line before the beat, for agents that have not fenced since (R220): where, what it held, who has
fenced. -/
structure LayerOld where
  line : Nat
  data : BitVec 1024
  tag : Tag
  fenced : List Nat := []
  deriving DecidableEq, Repr

/-- A page-request-queue entry (R52, R53): kind 0 stage-2 miss, 1 stage-2 permission, 2 host page. -/
structure Prq where
  vd : Nat
  asn : Nat := 0
  kind : Nat
  page : Nat
  rights : BitVec 3 := 0
  shared : Bool := false
  deriving DecidableEq, Repr

/-- A node of a launch (Table 19.2): its entry, its template, and how far it has come (R229, R450, R457); `ended`, the indices whose tasks
have ended, those of `dropped` discarded. -/
structure Node where
  deps : Nat := 0
  count : Nat := 0
  succ : List Nat := []
  xpc : Word := 0
  apc : Word := 0
  arg : Word := 0
  energy : Nat := 0
  prio : Nat := 0
  csize : Nat := 0
  bar : Nat := 0
  hlist : List (Nat × Bool × Word × Word × Word) := []
  ready : Bool := false
  complete : Bool := false
  runs : List (Nat × Nat × Nat × Word) := []
  next : Nat := 0
  unfinished : Nat := 0
  release : SMap Nat := []
  arrivals : List (Nat × Nat) := []
  ended : List Nat := []
  dropped : List Nat := []
  deriving DecidableEq, Repr

/-- A launch in flight (Table 19.1); `status`, that of its completion record when it was rejected or cancelled. -/
structure Launch where
  vd : Nat
  queue : Nat
  vec : Nat := 0
  lid : Nat
  asn : Nat
  irq : Bool := false
  args : Word := 0
  frames : Word := 0
  nframes : Nat := 0
  conts : Word := 0
  nconts : Nat := 0
  compl : Word := 0
  nodes : List Node := []
  gu : Bool := false
  ds : Bool := false
  status : Nat := 0
  deriving DecidableEq, Repr

/-- One participant of a collective instance (R412, R413). -/
structure Participant where
  task : Nat
  rank : Nat
  core : Nat
  chan : Nat
  num : Nat
  word : Word
  bytes : Nat
  op : Nat
  root : Bool
  withdrawn : Bool := false
  deriving DecidableEq, Repr

/-- A collective instance: VD, group, participants, first issue, whether it has begun or failed. The instances of a group
stand in the order of their ordinals. -/
structure Collective where
  vd : Nat
  group : Nat
  parts : List Participant := []
  since : Nat
  started : Bool := false
  failed : Bool := false
  deriving DecidableEq, Repr

/-- What the part sends out of the module, for a claim to name: interrupts, log records, messages and replies. -/
inductive Signal where
  | msix (vd vector : Nat)
  | message (addr data : Word)
  | pfInterrupt
  | pfLog (what : Nat) (value : Word)
  | pageRequest (vd pasid page entry : Nat)
  | atsDone (page size : Nat)
  | reply (data : List (BitVec 8)) (tag : Tag)
  | abort (addr : Nat)
  deriving DecidableEq, Repr

/-- Snapshot trigger and record (R478). -/
structure Snapshot where
  armed : Option (Nat × Nat × Nat) := none
  record : Option (Nat × Nat × Nat) := none
  missed : Nat := 0
  deriving DecidableEq, Repr

/-- An allocation that waits for room (R119): the stream and where its instruction stands, the VD, the kilns it needs room in. -/
structure AllocReq where
  ctx : Nat
  pc : Word
  vd : Nat
  kilns : List Nat
  deriving DecidableEq, Repr

/-- Module-wide registers and tables. `priAlloc` is how many page requests the host has allocated (R54); `agentReqs` holds the page requests that the part's own reads and writes wait for: VD, kind,
page, and whether the request has failed; `allocs`, the allocations that wait, in order of arrival; `refills`, the refills of the energy accounts made so far (R476). -/
structure Pkg where
  names : SMap Nat := []
  frames : SMap FrameWord := []
  sqrange : Word := 0
  windows : SMap Window := []
  retained : List Retained := []
  winGen : Nat := 0
  prq : SMap (Option Prq) := []
  prqWait : List Prq := []
  allocs : List AllocReq := []
  prqTurn : Nat := 0
  priAlloc : Nat := 704
  agentReqs : List (Nat × Nat × Nat × Bool) := []
  s2fbase : Word := 0
  s2fidx : Word := 0
  shtbase0 : Word := 0
  shtlim0 : Word := 0
  shtbase1 : Word := 0
  shtlim1 : Word := 0
  irt : SMap (Word × Word) := []
  snapshot : Snapshot := {}
  firmware : Bool := false
  powerNum : Nat := 1
  powerDen : Nat := 1
  refills : Nat := 0
  module : Nat := 0
  hostAbsent : SMap Bool := []
  cxl : Vector Bool 2 := Vector.replicate 2 true
  deriving DecidableEq, Repr

/-- Coherence: the directories by tensor, resident tensors, the caches' sectors, those in write-back buffers until their home
acknowledges them (R169), LAYER beats not yet fenced. -/
structure Coherence where
  dirs : List TensorDir := []
  resident : List Resident := []
  sectors : SMap Sector := []
  writebacks : List Nat := []
  layer : List LayerOld := []
  deriving DecidableEq, Repr

/-- One turn of the schedule: a context issues; a step of another agent takes place; cycles pass (log entry 1, DESIGN CHOICE). -/
inductive Turn where
  | run (ctx : Nat)
  | occur (i : Instr)
  | pass (cycles : Nat)
  deriving DecidableEq, Repr

/-- The module. Contexts are numbered 5·coreid + stoker, with 4 in the stoker's place for the core's shadow context,
and 960 for the management core. `sched`, `focus` and `ticks` are the model's own (log entries 1, 2: DESIGN CHOICE). -/
structure State where
  now : Nat
  ticks : Nat
  sched : List Turn
  focus : Nat
  ctxs : SMap Ctx
  tasks : SMap (Option Task)
  nextTask : Nat
  cores : SMap Core
  kilns : SMap Kiln
  vds : SMap Vd
  mem : List Host.Cell
  tags : SMap Tag
  hbm : Hbm
  pkg : Pkg
  coh : Coherence
  launches : SMap (Option Launch)
  nextLaunch : Nat
  creds : List Collective
  out : List Signal
  deriving DecidableEq, Repr

/-- How a step can stop for good. -/
inductive Fault where
  /-- A fault met by the management core, whose traps the firmware image defines (R418). Raised by the exception entry
  of a context in M mode. Safe: the model stops where the firmware goes on. -/
  | firmwareTrap
  deriving DecidableEq, Repr

/-- What the model has no meaning for. -/
inductive Refusal where
  /-- An instruction without a meaning yet, rejected by its arm of exec. Safe. -/
  | notModelled (mnemonic : String)
  deriving DecidableEq, Repr

/-- The module after reset: every register at the value its rule gives, nothing listed in memory, no task, launch or
transfer. INVENTORY.md lists them; where the spec gives none the value is the model's (log entries 4, 5, 7, 8, 46: DESIGN CHOICE;
log entries 6, 12: PRESUMED). -/
def State.reset : State where
  now := 0
  ticks := 0
  sched := []
  focus := 0
  ctxs := []
  tasks := []
  nextTask := 1
  cores := []
  kilns := []
  vds := []
  mem := []
  tags := []
  hbm := {}
  pkg := {}
  coh := {}
  launches := []
  nextLaunch := 1
  creds := []
  out := []

end Sys2Proof.Machine
end

