-- ==== Sys2Proof/Machine/Store.lean ====
section
/-!
DEFINITION. Sys2Proof/Machine/Store.lean: the sparse map of the state (memory, tags, contexts and the tables), read and
written in its one canonical form, and the accessors of the state's parts.
-/

namespace Sys2Proof.Machine

open Sys2Proof

/-- What a key reads as: its entry, or the map's default. -/
def SMap.get {β : Type} (d : β) : SMap β → Nat → β
  | [], _ => d
  | (k', v) :: m, k => if k' = k then v else SMap.get d m k

/-- List a value under its key, the keys rising. -/
def SMap.ins {β : Type} : SMap β → Nat → β → SMap β
  | [], k, v => [(k, v)]
  | (k', v') :: m, k, v =>
    if k < k' then (k, v) :: (k', v') :: m
    else if k = k' then (k, v) :: m
    else (k', v') :: SMap.ins m k v

/-- Write a key, keeping the keys rising and listing no default value. -/
def SMap.set {β : Type} [DecidableEq β] (d : β) (m : SMap β) (k : Nat) (v : β) : SMap β :=
  if v = d then m.filter fun x => x.1 ≠ k else SMap.ins m k v

/-- The canonical form: every key is at least lo, keys rise strictly, no value is the default. -/
def SMap.wfFrom {β : Type} [DecidableEq β] (d : β) : Nat → SMap β → Bool
  | _, [] => true
  | lo, (k, v) :: m => decide (lo ≤ k) && decide (v ≠ d) && SMap.wfFrom d (k + 1) m

/-- The canonical form of a whole map. -/
def SMap.wf {β : Type} [DecidableEq β] (d : β) (m : SMap β) : Bool := SMap.wfFrom d 0 m

/-- What an unlisted byte reads as (log entry 8, DESIGN CHOICE; R57 for HBM, whose lines read as UNDEF until written). -/
def unlistedByte : Byte := 0

/-- The tag of an unlisted line: {RAW, UNDEF, 127} (R57, Table 3.1). -/
def unlistedTag : Tag := 0x013F80

/-- The canonical form of memory. -/
def Memory.wf (m : List Host.Cell) : Bool := SMap.wf unlistedByte m

/-- One byte of memory at an internal physical address. -/
def State.byte (s : State) (a : Nat) : Byte := SMap.get unlistedByte s.mem a

def State.setByte (s : State) (a : Nat) (b : Byte) : State := { s with mem := SMap.set unlistedByte s.mem a b }

/-- Write bytes at ascending addresses. -/
def State.setBytes (s : State) : Nat → List Byte → State
  | _, [] => s
  | a, b :: bs => State.setBytes (s.setByte a b) (a + 1) bs

/-- n bytes from an address, lowest first. -/
def State.bytes (s : State) : Nat → Nat → List Byte
  | _, 0 => []
  | a, n + 1 => s.byte a :: s.bytes (a + 1) n

/-- The tag beside the line with the number n (address / 128). -/
def State.tag (s : State) (n : Nat) : Tag := SMap.get unlistedTag s.tags n

def State.setTag (s : State) (n : Nat) (t : Tag) : State := { s with tags := SMap.set unlistedTag s.tags n t }

/-- Contexts, cores, kilns and virtual devices by number; one that is not listed is as reset left it. -/
def State.ctx (s : State) (k : Nat) : Ctx := SMap.get {} s.ctxs k
def State.setCtx (s : State) (k : Nat) (c : Ctx) : State := { s with ctxs := SMap.set {} s.ctxs k c }
def State.modCtx (s : State) (k : Nat) (f : Ctx → Ctx) : State := s.setCtx k (f (s.ctx k))
def State.core (s : State) (c : Nat) : Core := SMap.get {} s.cores c
def State.setCore (s : State) (c : Nat) (x : Core) : State := { s with cores := SMap.set {} s.cores c x }
def State.modCore (s : State) (c : Nat) (f : Core → Core) : State := s.setCore c (f (s.core c))
def State.kiln (s : State) (k : Nat) : Kiln := SMap.get {} s.kilns k
def State.setKiln (s : State) (k : Nat) (x : Kiln) : State := { s with kilns := SMap.set {} s.kilns k x }
def State.modKiln (s : State) (k : Nat) (f : Kiln → Kiln) : State := s.setKiln k (f (s.kiln k))
def State.vd (s : State) (v : Nat) : Vd := SMap.get {} s.vds v
def State.setVd (s : State) (v : Nat) (x : Vd) : State := { s with vds := SMap.set {} s.vds v x }
def State.modVd (s : State) (v : Nat) (f : Vd → Vd) : State := s.setVd v (f (s.vd v))

/-- A task, a launch by its number. -/
def State.task (s : State) (t : Nat) : Option Task := SMap.get none s.tasks t
def State.setTask (s : State) (t : Nat) (x : Option Task) : State := { s with tasks := SMap.set none s.tasks t x }
def State.modTask (s : State) (t : Nat) (f : Task → Task) : State := s.setTask t ((s.task t).map f)
def State.launch (s : State) (l : Nat) : Option Launch := SMap.get none s.launches l
def State.setLaunch (s : State) (l : Nat) (x : Option Launch) : State :=
  { s with launches := SMap.set none s.launches l x }
def State.modLaunch (s : State) (l : Nat) (f : Launch → Launch) : State := s.setLaunch l ((s.launch l).map f)

/-- A granule's ownership entry, an HBM page's counters. -/
def State.granule (s : State) (g : Nat) : Granule := SMap.get {} s.hbm.granules g
def State.setGranule (s : State) (g : Nat) (x : Granule) : State :=
  { s with hbm := { s.hbm with granules := SMap.set {} s.hbm.granules g x } }
def State.window (s : State) (w : Nat) : Window := SMap.get {} s.pkg.windows w
def State.setWindow (s : State) (w : Nat) (x : Window) : State :=
  { s with pkg := { s.pkg with windows := SMap.set {} s.pkg.windows w x } }

/-- Send a signal out of the module; the newest first. -/
def State.send (s : State) (x : Signal) : State := { s with out := x :: s.out }

/-- The context ids: 5·coreid + stoker, with 4 for the shadow context; 960 for the management core (R14, R418). -/
def ctxId (core stk : Nat) : Nat := 5 * core + stk
def coreOf (k : Nat) : Nat := k / 5
def stkOf (k : Nat) : Nat := k % 5
def shadowOf (core : Nat) : Nat := ctxId core 4
def managementCtx : Nat := 960
def kilnOf (core : Nat) : Nat := core / 24

/-- Replace the element at a place of a vector by number; out of range changes nothing. -/
def vecMod {α : Type} {n : Nat} (v : Vector α n) (i : Nat) (f : α → α) : Vector α n :=
  if h : i < n then v.set i (f v[i]) else v

/-- The element at a place of a vector by number, or a default beyond its end. -/
def vecGet {α : Type} {n : Nat} (d : α) (v : Vector α n) (i : Nat) : α := if h : i < n then v[i] else d

/-- A field of a word, by its highest and lowest bit, as a number. -/
def field (w : Word) (hi lo : Nat) : Nat := w.toNat / 2 ^ lo % 2 ^ (hi + 1 - lo)

/-- The word with a field replaced. -/
def putField (w : Word) (hi lo v : Nat) : Word :=
  BitVec.ofNat 64 (w.toNat - field w hi lo * 2 ^ lo + (v % 2 ^ (hi + 1 - lo)) * 2 ^ lo)

/-- One bit of a word. -/
def bit (w : Word) (i : Nat) : Bool := w.getLsbD i

end Sys2Proof.Machine
end

