-- ==== Sys2Proof/Machine/Uses.lean ====
section
/-!
DEFINITION. Sys2Proof/Machine/Uses.lean: the registers each instruction names, for the rules of pending registers (R264)
and of the register scoreboard between the vector and matrix queues (R380).
-/

namespace Sys2Proof.Machine

open Sys2Proof

/-- A group of 2^g vector registers from the first (R253). -/
def vgroup (first : BitVec 5) (g : Nat) : List (BitVec 5) := (List.range (2 ^ g)).map fun j => first + BitVec.ofNat 5 j

/-- The scalar registers an instruction names, read or written. -/
def sregs : Instr → List (BitVec 6)
  | .add _ rd ra rb => [rd, ra, rb]
  | .addi _ rd ra _ => [rd, ra]
  | .sub _ rd ra rb => [rd, ra, rb]
  | .mul _ rd ra rb => [rd, ra, rb]
  | .mulh _ rd ra rb => [rd, ra, rb]
  | .mulhu _ rd ra rb => [rd, ra, rb]
  | .div _ rd ra rb => [rd, ra, rb]
  | .divu _ rd ra rb => [rd, ra, rb]
  | .rem _ rd ra rb => [rd, ra, rb]
  | .remu _ rd ra rb => [rd, ra, rb]
  | .and _ rd ra rb => [rd, ra, rb]
  | .andi _ rd ra _ => [rd, ra]
  | .or _ rd ra rb => [rd, ra, rb]
  | .ori _ rd ra _ => [rd, ra]
  | .xor _ rd ra rb => [rd, ra, rb]
  | .xori _ rd ra _ => [rd, ra]
  | .andn _ rd ra rb => [rd, ra, rb]
  | .shl _ rd ra rb => [rd, ra, rb]
  | .shli _ rd ra _ => [rd, ra]
  | .shr _ rd ra rb => [rd, ra, rb]
  | .shri _ rd ra _ => [rd, ra]
  | .sra _ rd ra rb => [rd, ra, rb]
  | .srai _ rd ra _ => [rd, ra]
  | .rot _ rd ra rb => [rd, ra, rb]
  | .clz _ rd ra => [rd, ra]
  | .ctz _ rd ra => [rd, ra]
  | .popc _ rd ra => [rd, ra]
  | .min _ rd ra rb => [rd, ra, rb]
  | .minu _ rd ra rb => [rd, ra, rb]
  | .max _ rd ra rb => [rd, ra, rb]
  | .maxu _ rd ra rb => [rd, ra, rb]
  | .sel _ rd ra rb _ => [rd, ra, rb]
  | .li _ rd _ => [rd]
  | .lih _ rd _ _ => [rd]
  | .ext _ rd ra _ _ _ => [rd, ra]
  | .ins _ rd ra _ _ => [rd, ra]
  | .addx _ rd ra rb _ => [rd, ra, rb]
  | .fadd _ rd ra rb _ => [rd, ra, rb]
  | .fsub _ rd ra rb _ => [rd, ra, rb]
  | .fmul _ rd ra rb _ => [rd, ra, rb]
  | .ffma _ rd ra rb rc _ => [rd, ra, rb, rc]
  | .fmin _ rd ra rb => [rd, ra, rb]
  | .fmax _ rd ra rb => [rd, ra, rb]
  | .fcvt _ rd ra _ _ _ => [rd, ra]
  | .fcmp _ _ ra rb _ => [ra, rb]
  | .cmp _ _ ra rb _ => [ra, rb]
  | .pand _ _ _ _ => []
  | .por _ _ _ _ => []
  | .pxor _ _ _ _ => []
  | .pnot _ _ _ => []
  | .pmov _ _ _ => []
  | .pmovGet _ rd => [rd]
  | .pmovSet _ ra => [ra]
  | .pbr _ _ tgt => [] ++ [tgt.ob]
  | .br _ _ _ => []
  | .call _ rd _ _ => [rd]
  | .ret _ ra _ => [ra]
  | .bsm _ ra _ => [ra]
  | .bsmT _ ra _ => [ra]
  | .vany _ _ _ _ => []
  | .vall _ _ _ _ => []
  | .halt _ => []
  | .yield _ => []
  | .suspend _ ra => [ra]
  | .suspendRel _ ra => [ra]
  | .nop _ => []
  | .ldb _ rd ra _ _ _ _ => [rd, ra]
  | .ldh _ rd ra _ _ _ _ => [rd, ra]
  | .ldw _ rd ra _ _ _ _ => [rd, ra]
  | .ldd _ rd ra _ _ _ => [rd, ra]
  | .stb _ ra _ rb _ _ => [ra, rb]
  | .sth _ ra _ rb _ _ => [ra, rb]
  | .stw _ ra _ rb _ _ => [ra, rb]
  | .std _ ra _ rb _ _ => [ra, rb]
  | .pref _ ra _ _ => [ra]
  | .aadd _ rd ra rb _ _ _ => [rd, ra, rb]
  | .aand _ rd ra rb _ _ _ => [rd, ra, rb]
  | .aor _ rd ra rb _ _ _ => [rd, ra, rb]
  | .axor _ rd ra rb _ _ _ => [rd, ra, rb]
  | .amin _ rd ra rb _ _ _ _ => [rd, ra, rb]
  | .amax _ rd ra rb _ _ _ _ => [rd, ra, rb]
  | .aswp _ rd ra rb _ _ _ => [rd, ra, rb]
  | .acas _ rd ra rb rc _ _ _ => [rd, ra, rb, rc]
  | .monitor _ ra _ => [ra]
  | .mwait _ ra => [ra]
  | .fence _ _ _ => []
  | .mfence _ _ _ => []
  | .join _ => []
  | .xfence _ _ => []
  | .publish _ ra rb _ => [ra, rb]
  | .wfence _ _ => []
  | .bara _ rd _ => [rd]
  | .barw _ ra _ => [ra]
  | .swset _ _ ra => [ra]
  | .swadd _ _ ra _ _ => [ra]
  | .swait _ _ ra _ => [ra]
  | .swread _ rd _ _ _ => [rd]
  | .halloc _ _ rd rs ra => [rd, rs, ra]
  | .hbind _ _ rv rs ra => [rv, rs, ra]
  | .hfree _ _ => []
  | .hshape _ _ rs => [rs]
  | .htenRead _ _ rw rx => [rw, rx]
  | .htenWrite _ _ rw rx => [rw, rx]
  | .hrel _ _ rw rx => [rw, rx]
  | .hseal _ _ rw rx => [rw, rx]
  | .hunseal _ _ rw rx => [rw, rx]
  | .hsplit _ _ rw rx => [rw, rx]
  | .hprio _ _ ra => [ra]
  | .hevict _ _ => []
  | .hdemote _ _ _ _ => []
  | .hzero _ _ => []
  | .hq _ rd _ _ => [rd]
  | .sqmap _ rd rn rc rg => [rd, rn, rc] ++ rg.toList
  | .sqshare _ rd rn rm rc rw => [rd, rn, rm, rc] ++ rw.toList
  | .sqfree _ rn rc => [rn, rc]
  | .wopen _ rd ra rb rp _ => [rd, ra, rb, rp]
  | .wclose _ rw _ => [rw]
  | .vadd _ _ _ _ _ _ => []
  | .vsub _ _ _ _ _ _ => []
  | .vmul _ _ _ _ _ _ => []
  | .vfma _ _ _ _ _ _ _ => []
  | .vfms _ _ _ _ _ _ _ => []
  | .vmin _ _ _ _ _ _ => []
  | .vmax _ _ _ _ _ _ => []
  | .vabs _ _ _ _ _ => []
  | .vneg _ _ _ _ _ => []
  | .vand _ _ _ _ _ _ => []
  | .vor _ _ _ _ _ _ => []
  | .vxor _ _ _ _ _ _ => []
  | .vshl _ _ _ _ _ _ => []
  | .vshr _ _ _ _ _ _ => []
  | .vsra _ _ _ _ _ _ => []
  | .vcmp _ _ _ _ _ _ _ => []
  | .vsel _ _ _ _ _ _ _ => []
  | .vcvt _ _ _ _ _ _ _ _ => []
  | .vqblk _ _ _ _ _ _ _ => []
  | .vdeq _ _ _ _ _ _ _ => []
  | .vtagGet _ rd _ _ => [rd]
  | .vtagSet _ _ ra _ => [ra]
  | .vtagSetAll _ _ ra => [ra]
  | .vretag _ _ _ _ _ => []
  | .vsplat _ _ ra _ _ _ => [ra]
  | .vmovsGet _ rd _ rb => [rd, rb]
  | .vmovsPut _ _ ra rb => [ra, rb]
  | .vsetvl _ rd ra => [rd, ra]
  | .vpand _ _ _ _ _ _ => []
  | .vpor _ _ _ _ _ _ => []
  | .vpnot _ _ _ _ _ => []
  | .vpcnt _ rd _ _ _ => [rd]
  | .vld _ _ _ ra rb _ _ _ => [ra, rb]
  | .vst _ _ ra rb _ _ _ _ => [ra, rb]
  | .vgth _ _ ra _ _ _ _ _ => [ra]
  | .vsct _ ra _ _ _ _ _ _ => [ra]
  | .vrot _ _ _ rb _ _ _ => [rb]
  | .vbc _ _ _ rb _ _ _ => [rb]
  | .vred _ _ _ _ _ _ _ => []
  | .vscan _ _ _ _ _ _ _ => []
  | .vtrn _ _ _ _ => []
  | .vshuf _ _ _ _ _ _ => []
  | .vcmpr _ _ _ _ _ => []
  | .vexp2 _ _ _ _ _ => []
  | .vlog2 _ _ _ _ _ => []
  | .vrcp _ _ _ _ _ => []
  | .vrsq _ _ _ _ _ => []
  | .vsqrt _ _ _ _ _ => []
  | .vtanh _ _ _ _ _ => []
  | .vsin _ _ _ _ _ => []
  | .vqpush _ _ _ _ => []
  | .vqpop _ _ _ _ => []
  | .vqstat _ rd _ => [rd]
  | .mshape _ ra rb _ => [ra, rb]
  | .mzero _ _ => []
  | .mma _ _ _ _ _ _ _ => []
  | .mmag _ _ _ _ _ _ _ _ _ => []
  | .mlda _ _ _ ra => [ra]
  | .msta _ _ _ ra band _ => [ra] ++ (band.map (·.2)).toList
  | .mdrain _ => []
  | .movcG _ _ _ _ => []
  | .movcP _ _ _ _ => []
  | .rmode _ _ _ => []
  | .cpy _ rd _ _ rp rn _ _ => [rd, rp, rn]
  | .cpyX _ rd _ _ rp rn _ _ => [rd, rp, rn]
  | .cpyt _ rt _ _ rp rn _ _ _ => [rt, rp, rn]
  | .cmcast _ rd _ _ rp rn _ _ => [rd, rp, rn]
  | .gath _ rd _ ra _ _ _ _ _ => [rd, ra]
  | .scat _ rd _ ra _ _ _ _ => [rd, ra]
  | .cred _ rd _ _ rg rn _ _ _ => [rd, rg, rn]
  | .cwait _ ra => [ra]
  | .cstat _ rd ra => [rd, ra]
  | .csrr _ rd _ => [rd]
  | .csrrX _ rd n => [rd, n]
  | .csrrF _ rd _ => [rd]
  | .csrw _ _ ra => [ra]
  | .csrwX _ n ra => [n, ra]
  | .trap _ _ => []
  | .trapBrk _ _ => []
  | .eret _ => []
  | .eretDiscard _ => []
  | .spawn _ rd ra rb => [rd, ra, rb]
  | .gsig _ ra => [ra]
  | .tlbiVa _ ra rb => [ra, rb]
  | .tlbiAsn _ ra rb => [ra, rb]
  | .tlbiVd _ => []
  | .tlbiGpa _ ra rb => [ra, rb]
  | .tlbiS2 _ ra rb => [ra, rb]
  | .snap _ _ => []
  | .ebudQ _ rd => [rd]
  | .ebudR _ rd ra => [rd, ra]
  | .ebudF _ rd ra => [rd, ra]
  | .keyld _ rd ra rb => [rd, ra, rb]
  | .faultDelivery _ => []
  | .holdConvert _ => []
  | .holdRestart _ => []
  | .walkComplete _ => []
  | .s2respSuccess _ => []
  | .s2respFail _ => []
  | .prgResponse _ _ => []
  | .retortLineSwitch _ => []
  | .granuleAssign _ _ => []
  | .copyBeat _ _ _ _ => []
  | .vectorArbiterCycle _ => []
  | .taskLeaveStoker _ => []
  | .launchCompletion _ => []
  | .queueNotify _ _ _ _ => []
  | .queueEnable _ _ => []
  | .queueDisable _ _ => []
  | .launchValidate _ _ => []
  | .taskCreate _ _ _ => []
  | .flueRound _ => []
  | .preqGo _ _ => []
  | .preempt _ => []
  | .dbgctlResume _ => []
  | .dbgctlStep _ _ => []
  | .pctlApply _ => []
  | .sqrangeWrite _ => []
  | .vdcfgWrite _ _ => []
  | .latticeWrite _ _ => []
  | .vdReset _ => []
  | .hostAccess _ => []
  | .peerAccess _ => []
  | .registerWrite _ _ _ => []
  | .matrixEntryComplete _ => []
  | .energyMeter _ _ => []
  | .powerLimit _ _ => []
  | .calendarSlot _ => []
  | .kilnStoreAccessComplete _ => []
  | .residencyFill _ _ => []
  | .leaseExpiry _ => []
  | .tenureWaitTimeout _ => []
  | .lineWritebackCross _ _ _ => []
  | .scrubLine _ => []
  | .credTimeout _ _ => []
  | .cpytRelease _ => []
  | .mmagMeet _ => []
  | .matrixHolderAcquire _ => []
  | .gangReserveTimeout _ => []
  | .starvationPreempt _ => []
  | .recodeWaitTimeout _ => []
  | .firmwareLoad _ => []
  | .atsInvalidate _ _ => []
  | .cxlCacheSnoop _ _ => []
  | .latticeApply _ => []
  | .partitionApply _ => []
  | .markerAtHead _ => []
  | .suspendDeadline _ => []
  | .mwaitTimeout _ => []
  | .convoyDrain _ => []
  | .credInstanceStart _ _ => []
  | .retortJobEnd _ => []
  | .haltRetire _ => []
  | .energyRefill => []
  | .snapshotLatch => []
  | .snapin => []
  | .snapshotCommand => []
  | .snapshotRead => []
  | .moduleReset => []

/-- The scalar predicates an instruction names, its guards among them (p0 never waits). -/
def pregs : Instr → List (BitVec 3)
  | .add c _ _ _ => [c.g1.setWidth 3, c.g2.setWidth 3]
  | .addi c _ _ _ => [c.g1.setWidth 3, c.g2.setWidth 3]
  | .sub c _ _ _ => [c.g1.setWidth 3, c.g2.setWidth 3]
  | .mul c _ _ _ => [c.g1.setWidth 3, c.g2.setWidth 3]
  | .mulh c _ _ _ => [c.g1.setWidth 3, c.g2.setWidth 3]
  | .mulhu c _ _ _ => [c.g1.setWidth 3, c.g2.setWidth 3]
  | .div c _ _ _ => [c.g1.setWidth 3, c.g2.setWidth 3]
  | .divu c _ _ _ => [c.g1.setWidth 3, c.g2.setWidth 3]
  | .rem c _ _ _ => [c.g1.setWidth 3, c.g2.setWidth 3]
  | .remu c _ _ _ => [c.g1.setWidth 3, c.g2.setWidth 3]
  | .and c _ _ _ => [c.g1.setWidth 3, c.g2.setWidth 3]
  | .andi c _ _ _ => [c.g1.setWidth 3, c.g2.setWidth 3]
  | .or c _ _ _ => [c.g1.setWidth 3, c.g2.setWidth 3]
  | .ori c _ _ _ => [c.g1.setWidth 3, c.g2.setWidth 3]
  | .xor c _ _ _ => [c.g1.setWidth 3, c.g2.setWidth 3]
  | .xori c _ _ _ => [c.g1.setWidth 3, c.g2.setWidth 3]
  | .andn c _ _ _ => [c.g1.setWidth 3, c.g2.setWidth 3]
  | .shl c _ _ _ => [c.g1.setWidth 3, c.g2.setWidth 3]
  | .shli c _ _ _ => [c.g1.setWidth 3, c.g2.setWidth 3]
  | .shr c _ _ _ => [c.g1.setWidth 3, c.g2.setWidth 3]
  | .shri c _ _ _ => [c.g1.setWidth 3, c.g2.setWidth 3]
  | .sra c _ _ _ => [c.g1.setWidth 3, c.g2.setWidth 3]
  | .srai c _ _ _ => [c.g1.setWidth 3, c.g2.setWidth 3]
  | .rot c _ _ _ => [c.g1.setWidth 3, c.g2.setWidth 3]
  | .clz c _ _ => [c.g1.setWidth 3, c.g2.setWidth 3]
  | .ctz c _ _ => [c.g1.setWidth 3, c.g2.setWidth 3]
  | .popc c _ _ => [c.g1.setWidth 3, c.g2.setWidth 3]
  | .min c _ _ _ => [c.g1.setWidth 3, c.g2.setWidth 3]
  | .minu c _ _ _ => [c.g1.setWidth 3, c.g2.setWidth 3]
  | .max c _ _ _ => [c.g1.setWidth 3, c.g2.setWidth 3]
  | .maxu c _ _ _ => [c.g1.setWidth 3, c.g2.setWidth 3]
  | .sel c _ _ _ pc => [c.g1.setWidth 3, c.g2.setWidth 3, pc]
  | .li c _ _ => [c.g1.setWidth 3, c.g2.setWidth 3]
  | .lih c _ _ _ => [c.g1.setWidth 3, c.g2.setWidth 3]
  | .ext c _ _ _ _ _ => [c.g1.setWidth 3, c.g2.setWidth 3]
  | .ins c _ _ _ _ => [c.g1.setWidth 3, c.g2.setWidth 3]
  | .addx c _ _ _ _ => [c.g1.setWidth 3, c.g2.setWidth 3]
  | .fadd c _ _ _ _ => [c.g1.setWidth 3, c.g2.setWidth 3]
  | .fsub c _ _ _ _ => [c.g1.setWidth 3, c.g2.setWidth 3]
  | .fmul c _ _ _ _ => [c.g1.setWidth 3, c.g2.setWidth 3]
  | .ffma c _ _ _ _ _ => [c.g1.setWidth 3, c.g2.setWidth 3]
  | .fmin c _ _ _ => [c.g1.setWidth 3, c.g2.setWidth 3]
  | .fmax c _ _ _ => [c.g1.setWidth 3, c.g2.setWidth 3]
  | .fcvt c _ _ _ _ _ => [c.g1.setWidth 3, c.g2.setWidth 3]
  | .fcmp c pd _ _ _ => [c.g1.setWidth 3, c.g2.setWidth 3, pd]
  | .cmp c pd _ _ _ => [c.g1.setWidth 3, c.g2.setWidth 3, pd]
  | .pand c pd pa pb => [c.g1.setWidth 3, c.g2.setWidth 3, pd, pa, pb]
  | .por c pd pa pb => [c.g1.setWidth 3, c.g2.setWidth 3, pd, pa, pb]
  | .pxor c pd pa pb => [c.g1.setWidth 3, c.g2.setWidth 3, pd, pa, pb]
  | .pnot c pd pa => [c.g1.setWidth 3, c.g2.setWidth 3, pd, pa]
  | .pmov c pd pa => [c.g1.setWidth 3, c.g2.setWidth 3, pd, pa]
  | .pmovGet c _ => [c.g1.setWidth 3, c.g2.setWidth 3, 1, 2, 3, 4, 5, 6, 7]
  | .pmovSet c _ => [c.g1.setWidth 3, c.g2.setWidth 3, 1, 2, 3, 4, 5, 6, 7]
  | .pbr c _ _ => [c.g1.setWidth 3, c.g2.setWidth 3]
  | .br c _ _ => [c.g1.setWidth 3, c.g2.setWidth 3]
  | .call c _ _ _ => [c.g1.setWidth 3, c.g2.setWidth 3]
  | .ret c _ _ => [c.g1.setWidth 3, c.g2.setWidth 3]
  | .bsm c _ _ => [c.g1.setWidth 3, c.g2.setWidth 3]
  | .bsmT c _ _ => [c.g1.setWidth 3, c.g2.setWidth 3]
  | .vany c pd _ _ => [c.g1.setWidth 3, c.g2.setWidth 3, pd]
  | .vall c pd _ _ => [c.g1.setWidth 3, c.g2.setWidth 3, pd]
  | .halt c => [c.g1.setWidth 3, c.g2.setWidth 3]
  | .yield c => [c.g1.setWidth 3, c.g2.setWidth 3]
  | .suspend c _ => [c.g1.setWidth 3, c.g2.setWidth 3]
  | .suspendRel c _ => [c.g1.setWidth 3, c.g2.setWidth 3]
  | .nop c => [c.g1.setWidth 3, c.g2.setWidth 3]
  | .ldb c _ _ _ _ _ _ => [c.g1.setWidth 3, c.g2.setWidth 3]
  | .ldh c _ _ _ _ _ _ => [c.g1.setWidth 3, c.g2.setWidth 3]
  | .ldw c _ _ _ _ _ _ => [c.g1.setWidth 3, c.g2.setWidth 3]
  | .ldd c _ _ _ _ _ => [c.g1.setWidth 3, c.g2.setWidth 3]
  | .stb c _ _ _ _ _ => [c.g1.setWidth 3, c.g2.setWidth 3]
  | .sth c _ _ _ _ _ => [c.g1.setWidth 3, c.g2.setWidth 3]
  | .stw c _ _ _ _ _ => [c.g1.setWidth 3, c.g2.setWidth 3]
  | .std c _ _ _ _ _ => [c.g1.setWidth 3, c.g2.setWidth 3]
  | .pref c _ _ _ => [c.g1.setWidth 3, c.g2.setWidth 3]
  | .aadd c _ _ _ _ _ _ => [c.g1.setWidth 3, c.g2.setWidth 3]
  | .aand c _ _ _ _ _ _ => [c.g1.setWidth 3, c.g2.setWidth 3]
  | .aor c _ _ _ _ _ _ => [c.g1.setWidth 3, c.g2.setWidth 3]
  | .axor c _ _ _ _ _ _ => [c.g1.setWidth 3, c.g2.setWidth 3]
  | .amin c _ _ _ _ _ _ _ => [c.g1.setWidth 3, c.g2.setWidth 3]
  | .amax c _ _ _ _ _ _ _ => [c.g1.setWidth 3, c.g2.setWidth 3]
  | .aswp c _ _ _ _ _ _ => [c.g1.setWidth 3, c.g2.setWidth 3]
  | .acas c _ _ _ _ _ _ _ => [c.g1.setWidth 3, c.g2.setWidth 3]
  | .monitor c _ _ => [c.g1.setWidth 3, c.g2.setWidth 3]
  | .mwait c _ => [c.g1.setWidth 3, c.g2.setWidth 3]
  | .fence c _ _ => [c.g1.setWidth 3, c.g2.setWidth 3]
  | .mfence c _ _ => [c.g1.setWidth 3, c.g2.setWidth 3]
  | .join c => [c.g1.setWidth 3, c.g2.setWidth 3]
  | .xfence c _ => [c.g1.setWidth 3, c.g2.setWidth 3]
  | .publish c _ _ _ => [c.g1.setWidth 3, c.g2.setWidth 3]
  | .wfence c _ => [c.g1.setWidth 3, c.g2.setWidth 3]
  | .bara c _ _ => [c.g1.setWidth 3, c.g2.setWidth 3]
  | .barw c _ _ => [c.g1.setWidth 3, c.g2.setWidth 3]
  | .swset c _ _ => [c.g1.setWidth 3, c.g2.setWidth 3]
  | .swadd c _ _ _ _ => [c.g1.setWidth 3, c.g2.setWidth 3]
  | .swait c _ _ _ => [c.g1.setWidth 3, c.g2.setWidth 3]
  | .swread c _ _ _ _ => [c.g1.setWidth 3, c.g2.setWidth 3]
  | .halloc c _ _ _ _ => [c.g1.setWidth 3, c.g2.setWidth 3]
  | .hbind c _ _ _ _ => [c.g1.setWidth 3, c.g2.setWidth 3]
  | .hfree c _ => [c.g1.setWidth 3, c.g2.setWidth 3]
  | .hshape c _ _ => [c.g1.setWidth 3, c.g2.setWidth 3]
  | .htenRead c _ _ _ => [c.g1.setWidth 3, c.g2.setWidth 3]
  | .htenWrite c _ _ _ => [c.g1.setWidth 3, c.g2.setWidth 3]
  | .hrel c _ _ _ => [c.g1.setWidth 3, c.g2.setWidth 3]
  | .hseal c _ _ _ => [c.g1.setWidth 3, c.g2.setWidth 3]
  | .hunseal c _ _ _ => [c.g1.setWidth 3, c.g2.setWidth 3]
  | .hsplit c _ _ _ => [c.g1.setWidth 3, c.g2.setWidth 3]
  | .hprio c _ _ => [c.g1.setWidth 3, c.g2.setWidth 3]
  | .hevict c _ => [c.g1.setWidth 3, c.g2.setWidth 3]
  | .hdemote c _ _ _ => [c.g1.setWidth 3, c.g2.setWidth 3]
  | .hzero c _ => [c.g1.setWidth 3, c.g2.setWidth 3]
  | .hq c _ _ _ => [c.g1.setWidth 3, c.g2.setWidth 3]
  | .sqmap c _ _ _ _ => [c.g1.setWidth 3, c.g2.setWidth 3]
  | .sqshare c _ _ _ _ _ => [c.g1.setWidth 3, c.g2.setWidth 3]
  | .sqfree c _ _ => [c.g1.setWidth 3, c.g2.setWidth 3]
  | .wopen c _ _ _ _ _ => [c.g1.setWidth 3, c.g2.setWidth 3]
  | .wclose c _ _ => [c.g1.setWidth 3, c.g2.setWidth 3]
  | .vadd c _ _ _ _ _ => [c.g1.setWidth 3, c.g2.setWidth 3]
  | .vsub c _ _ _ _ _ => [c.g1.setWidth 3, c.g2.setWidth 3]
  | .vmul c _ _ _ _ _ => [c.g1.setWidth 3, c.g2.setWidth 3]
  | .vfma c _ _ _ _ _ _ => [c.g1.setWidth 3, c.g2.setWidth 3]
  | .vfms c _ _ _ _ _ _ => [c.g1.setWidth 3, c.g2.setWidth 3]
  | .vmin c _ _ _ _ _ => [c.g1.setWidth 3, c.g2.setWidth 3]
  | .vmax c _ _ _ _ _ => [c.g1.setWidth 3, c.g2.setWidth 3]
  | .vabs c _ _ _ _ => [c.g1.setWidth 3, c.g2.setWidth 3]
  | .vneg c _ _ _ _ => [c.g1.setWidth 3, c.g2.setWidth 3]
  | .vand c _ _ _ _ _ => [c.g1.setWidth 3, c.g2.setWidth 3]
  | .vor c _ _ _ _ _ => [c.g1.setWidth 3, c.g2.setWidth 3]
  | .vxor c _ _ _ _ _ => [c.g1.setWidth 3, c.g2.setWidth 3]
  | .vshl c _ _ _ _ _ => [c.g1.setWidth 3, c.g2.setWidth 3]
  | .vshr c _ _ _ _ _ => [c.g1.setWidth 3, c.g2.setWidth 3]
  | .vsra c _ _ _ _ _ => [c.g1.setWidth 3, c.g2.setWidth 3]
  | .vcmp c _ _ _ _ _ _ => [c.g1.setWidth 3, c.g2.setWidth 3]
  | .vsel c _ _ _ _ _ _ => [c.g1.setWidth 3, c.g2.setWidth 3]
  | .vcvt c _ _ _ _ _ _ _ => [c.g1.setWidth 3, c.g2.setWidth 3]
  | .vqblk c _ _ _ _ _ _ => [c.g1.setWidth 3, c.g2.setWidth 3]
  | .vdeq c _ _ _ _ _ _ => [c.g1.setWidth 3, c.g2.setWidth 3]
  | .vtagGet c _ _ _ => [c.g1.setWidth 3, c.g2.setWidth 3]
  | .vtagSet c _ _ _ => [c.g1.setWidth 3, c.g2.setWidth 3]
  | .vtagSetAll c _ _ => [c.g1.setWidth 3, c.g2.setWidth 3]
  | .vretag c _ _ _ _ => [c.g1.setWidth 3, c.g2.setWidth 3]
  | .vsplat c _ _ _ _ _ => [c.g1.setWidth 3, c.g2.setWidth 3]
  | .vmovsGet c _ _ _ => [c.g1.setWidth 3, c.g2.setWidth 3]
  | .vmovsPut c _ _ _ => [c.g1.setWidth 3, c.g2.setWidth 3]
  | .vsetvl c _ _ => [c.g1.setWidth 3, c.g2.setWidth 3]
  | .vpand c _ _ _ _ _ => [c.g1.setWidth 3, c.g2.setWidth 3]
  | .vpor c _ _ _ _ _ => [c.g1.setWidth 3, c.g2.setWidth 3]
  | .vpnot c _ _ _ _ => [c.g1.setWidth 3, c.g2.setWidth 3]
  | .vpcnt c _ _ _ _ => [c.g1.setWidth 3, c.g2.setWidth 3]
  | .vld c _ _ _ _ _ _ _ => [c.g1.setWidth 3, c.g2.setWidth 3]
  | .vst c _ _ _ _ _ _ _ => [c.g1.setWidth 3, c.g2.setWidth 3]
  | .vgth c _ _ _ _ _ _ _ => [c.g1.setWidth 3, c.g2.setWidth 3]
  | .vsct c _ _ _ _ _ _ _ => [c.g1.setWidth 3, c.g2.setWidth 3]
  | .vrot c _ _ _ _ _ _ => [c.g1.setWidth 3, c.g2.setWidth 3]
  | .vbc c _ _ _ _ _ _ => [c.g1.setWidth 3, c.g2.setWidth 3]
  | .vred c _ _ _ _ _ _ => [c.g1.setWidth 3, c.g2.setWidth 3]
  | .vscan c _ _ _ _ _ _ => [c.g1.setWidth 3, c.g2.setWidth 3]
  | .vtrn c _ _ _ => [c.g1.setWidth 3, c.g2.setWidth 3]
  | .vshuf c _ _ _ _ _ => [c.g1.setWidth 3, c.g2.setWidth 3]
  | .vcmpr c _ _ _ _ => [c.g1.setWidth 3, c.g2.setWidth 3]
  | .vexp2 c _ _ _ _ => [c.g1.setWidth 3, c.g2.setWidth 3]
  | .vlog2 c _ _ _ _ => [c.g1.setWidth 3, c.g2.setWidth 3]
  | .vrcp c _ _ _ _ => [c.g1.setWidth 3, c.g2.setWidth 3]
  | .vrsq c _ _ _ _ => [c.g1.setWidth 3, c.g2.setWidth 3]
  | .vsqrt c _ _ _ _ => [c.g1.setWidth 3, c.g2.setWidth 3]
  | .vtanh c _ _ _ _ => [c.g1.setWidth 3, c.g2.setWidth 3]
  | .vsin c _ _ _ _ => [c.g1.setWidth 3, c.g2.setWidth 3]
  | .vqpush c _ _ _ => [c.g1.setWidth 3, c.g2.setWidth 3]
  | .vqpop c _ _ _ => [c.g1.setWidth 3, c.g2.setWidth 3]
  | .vqstat c _ _ => [c.g1.setWidth 3, c.g2.setWidth 3]
  | .mshape c _ _ _ => [c.g1.setWidth 3, c.g2.setWidth 3]
  | .mzero c _ => [c.g1.setWidth 3, c.g2.setWidth 3]
  | .mma c _ _ _ _ _ _ => [c.g1.setWidth 3, c.g2.setWidth 3]
  | .mmag c _ _ _ _ _ _ _ _ => [c.g1.setWidth 3, c.g2.setWidth 3]
  | .mlda c _ _ _ => [c.g1.setWidth 3, c.g2.setWidth 3]
  | .msta c _ _ _ _ _ => [c.g1.setWidth 3, c.g2.setWidth 3]
  | .mdrain c => [c.g1.setWidth 3, c.g2.setWidth 3]
  | .movcG c _ _ _ => [c.g1.setWidth 3, c.g2.setWidth 3]
  | .movcP c _ _ _ => [c.g1.setWidth 3, c.g2.setWidth 3]
  | .rmode c _ _ => [c.g1.setWidth 3, c.g2.setWidth 3]
  | .cpy c _ _ _ _ _ _ _ => [c.g1.setWidth 3, c.g2.setWidth 3]
  | .cpyX c _ _ _ _ _ _ _ => [c.g1.setWidth 3, c.g2.setWidth 3]
  | .cpyt c _ _ _ _ _ _ _ _ => [c.g1.setWidth 3, c.g2.setWidth 3]
  | .cmcast c _ _ _ _ _ _ _ => [c.g1.setWidth 3, c.g2.setWidth 3]
  | .gath c _ _ _ _ _ _ _ _ => [c.g1.setWidth 3, c.g2.setWidth 3]
  | .scat c _ _ _ _ _ _ _ => [c.g1.setWidth 3, c.g2.setWidth 3]
  | .cred c _ _ _ _ _ _ _ _ => [c.g1.setWidth 3, c.g2.setWidth 3]
  | .cwait c _ => [c.g1.setWidth 3, c.g2.setWidth 3]
  | .cstat c _ _ => [c.g1.setWidth 3, c.g2.setWidth 3]
  | .csrr c _ _ => [c.g1.setWidth 3, c.g2.setWidth 3]
  | .csrrX c _ _ => [c.g1.setWidth 3, c.g2.setWidth 3]
  | .csrrF c _ _ => [c.g1.setWidth 3, c.g2.setWidth 3]
  | .csrw c _ _ => [c.g1.setWidth 3, c.g2.setWidth 3]
  | .csrwX c _ _ => [c.g1.setWidth 3, c.g2.setWidth 3]
  | .trap c _ => [c.g1.setWidth 3, c.g2.setWidth 3]
  | .trapBrk c _ => [c.g1.setWidth 3, c.g2.setWidth 3]
  | .eret c => [c.g1.setWidth 3, c.g2.setWidth 3]
  | .eretDiscard c => [c.g1.setWidth 3, c.g2.setWidth 3]
  | .spawn c _ _ _ => [c.g1.setWidth 3, c.g2.setWidth 3]
  | .gsig c _ => [c.g1.setWidth 3, c.g2.setWidth 3]
  | .tlbiVa c _ _ => [c.g1.setWidth 3, c.g2.setWidth 3]
  | .tlbiAsn c _ _ => [c.g1.setWidth 3, c.g2.setWidth 3]
  | .tlbiVd c => [c.g1.setWidth 3, c.g2.setWidth 3]
  | .tlbiGpa c _ _ => [c.g1.setWidth 3, c.g2.setWidth 3]
  | .tlbiS2 c _ _ => [c.g1.setWidth 3, c.g2.setWidth 3]
  | .snap c _ => [c.g1.setWidth 3, c.g2.setWidth 3]
  | .ebudQ c _ => [c.g1.setWidth 3, c.g2.setWidth 3]
  | .ebudR c _ _ => [c.g1.setWidth 3, c.g2.setWidth 3]
  | .ebudF c _ _ => [c.g1.setWidth 3, c.g2.setWidth 3]
  | .keyld c _ _ _ => [c.g1.setWidth 3, c.g2.setWidth 3]
  | .faultDelivery _ => []
  | .holdConvert _ => []
  | .holdRestart _ => []
  | .walkComplete _ => []
  | .s2respSuccess _ => []
  | .s2respFail _ => []
  | .prgResponse _ _ => []
  | .retortLineSwitch _ => []
  | .granuleAssign _ _ => []
  | .copyBeat _ _ _ _ => []
  | .vectorArbiterCycle _ => []
  | .taskLeaveStoker _ => []
  | .launchCompletion _ => []
  | .queueNotify _ _ _ _ => []
  | .queueEnable _ _ => []
  | .queueDisable _ _ => []
  | .launchValidate _ _ => []
  | .taskCreate _ _ _ => []
  | .flueRound _ => []
  | .preqGo _ _ => []
  | .preempt _ => []
  | .dbgctlResume _ => []
  | .dbgctlStep _ _ => []
  | .pctlApply _ => []
  | .sqrangeWrite _ => []
  | .vdcfgWrite _ _ => []
  | .latticeWrite _ _ => []
  | .vdReset _ => []
  | .hostAccess _ => []
  | .peerAccess _ => []
  | .registerWrite _ _ _ => []
  | .matrixEntryComplete _ => []
  | .energyMeter _ _ => []
  | .powerLimit _ _ => []
  | .calendarSlot _ => []
  | .kilnStoreAccessComplete _ => []
  | .residencyFill _ _ => []
  | .leaseExpiry _ => []
  | .tenureWaitTimeout _ => []
  | .lineWritebackCross _ _ _ => []
  | .scrubLine _ => []
  | .credTimeout _ _ => []
  | .cpytRelease _ => []
  | .mmagMeet _ => []
  | .matrixHolderAcquire _ => []
  | .gangReserveTimeout _ => []
  | .starvationPreempt _ => []
  | .recodeWaitTimeout _ => []
  | .firmwareLoad _ => []
  | .atsInvalidate _ _ => []
  | .cxlCacheSnoop _ _ => []
  | .latticeApply _ => []
  | .partitionApply _ => []
  | .markerAtHead _ => []
  | .suspendDeadline _ => []
  | .mwaitTimeout _ => []
  | .convoyDrain _ => []
  | .credInstanceStart _ _ => []
  | .retortJobEnd _ => []
  | .haltRetire _ => []
  | .energyRefill => []
  | .snapshotLatch => []
  | .snapin => []
  | .snapshotCommand => []
  | .snapshotRead => []
  | .moduleReset => []

/-- The vector registers an instruction reads; the matrix products read register groups (R377). -/
def vreads : Instr → List (BitVec 5)
  | .add _ _ _ _ => []
  | .addi _ _ _ _ => []
  | .sub _ _ _ _ => []
  | .mul _ _ _ _ => []
  | .mulh _ _ _ _ => []
  | .mulhu _ _ _ _ => []
  | .div _ _ _ _ => []
  | .divu _ _ _ _ => []
  | .rem _ _ _ _ => []
  | .remu _ _ _ _ => []
  | .and _ _ _ _ => []
  | .andi _ _ _ _ => []
  | .or _ _ _ _ => []
  | .ori _ _ _ _ => []
  | .xor _ _ _ _ => []
  | .xori _ _ _ _ => []
  | .andn _ _ _ _ => []
  | .shl _ _ _ _ => []
  | .shli _ _ _ _ => []
  | .shr _ _ _ _ => []
  | .shri _ _ _ _ => []
  | .sra _ _ _ _ => []
  | .srai _ _ _ _ => []
  | .rot _ _ _ _ => []
  | .clz _ _ _ => []
  | .ctz _ _ _ => []
  | .popc _ _ _ => []
  | .min _ _ _ _ => []
  | .minu _ _ _ _ => []
  | .max _ _ _ _ => []
  | .maxu _ _ _ _ => []
  | .sel _ _ _ _ _ => []
  | .li _ _ _ => []
  | .lih _ _ _ _ => []
  | .ext _ _ _ _ _ _ => []
  | .ins _ _ _ _ _ => []
  | .addx _ _ _ _ _ => []
  | .fadd _ _ _ _ _ => []
  | .fsub _ _ _ _ _ => []
  | .fmul _ _ _ _ _ => []
  | .ffma _ _ _ _ _ _ => []
  | .fmin _ _ _ _ => []
  | .fmax _ _ _ _ => []
  | .fcvt _ _ _ _ _ _ => []
  | .fcmp _ _ _ _ _ => []
  | .cmp _ _ _ _ _ => []
  | .pand _ _ _ _ => []
  | .por _ _ _ _ => []
  | .pxor _ _ _ _ => []
  | .pnot _ _ _ => []
  | .pmov _ _ _ => []
  | .pmovGet _ _ => []
  | .pmovSet _ _ => []
  | .pbr _ _ _ => []
  | .br _ _ _ => []
  | .call _ _ _ _ => []
  | .ret _ _ _ => []
  | .bsm _ _ _ => []
  | .bsmT _ _ _ => []
  | .vany _ _ _ _ => []
  | .vall _ _ _ _ => []
  | .halt _ => []
  | .yield _ => []
  | .suspend _ _ => []
  | .suspendRel _ _ => []
  | .nop _ => []
  | .ldb _ _ _ _ _ _ _ => []
  | .ldh _ _ _ _ _ _ _ => []
  | .ldw _ _ _ _ _ _ _ => []
  | .ldd _ _ _ _ _ _ => []
  | .stb _ _ _ _ _ _ => []
  | .sth _ _ _ _ _ _ => []
  | .stw _ _ _ _ _ _ => []
  | .std _ _ _ _ _ _ => []
  | .pref _ _ _ _ => []
  | .aadd _ _ _ _ _ _ _ => []
  | .aand _ _ _ _ _ _ _ => []
  | .aor _ _ _ _ _ _ _ => []
  | .axor _ _ _ _ _ _ _ => []
  | .amin _ _ _ _ _ _ _ _ => []
  | .amax _ _ _ _ _ _ _ _ => []
  | .aswp _ _ _ _ _ _ _ => []
  | .acas _ _ _ _ _ _ _ _ => []
  | .monitor _ _ _ => []
  | .mwait _ _ => []
  | .fence _ _ _ => []
  | .mfence _ _ _ => []
  | .join _ => []
  | .xfence _ _ => []
  | .publish _ _ _ _ => []
  | .wfence _ _ => []
  | .bara _ _ _ => []
  | .barw _ _ _ => []
  | .swset _ _ _ => []
  | .swadd _ _ _ _ _ => []
  | .swait _ _ _ _ => []
  | .swread _ _ _ _ _ => []
  | .halloc _ _ _ _ _ => []
  | .hbind _ _ _ _ _ => []
  | .hfree _ _ => []
  | .hshape _ _ _ => []
  | .htenRead _ _ _ _ => []
  | .htenWrite _ _ _ _ => []
  | .hrel _ _ _ _ => []
  | .hseal _ _ _ _ => []
  | .hunseal _ _ _ _ => []
  | .hsplit _ _ _ _ => []
  | .hprio _ _ _ => []
  | .hevict _ _ => []
  | .hdemote _ _ _ _ => []
  | .hzero _ _ => []
  | .hq _ _ _ _ => []
  | .sqmap _ _ _ _ _ => []
  | .sqshare _ _ _ _ _ _ => []
  | .sqfree _ _ _ => []
  | .wopen _ _ _ _ _ _ => []
  | .wclose _ _ _ => []
  | .vadd _ _ va vb _ _ => [va, vb]
  | .vsub _ _ va vb _ _ => [va, vb]
  | .vmul _ _ va vb _ _ => [va, vb]
  | .vfma _ _ va vb vc _ _ => [va, vb, vc]
  | .vfms _ _ va vb vc _ _ => [va, vb, vc]
  | .vmin _ _ va vb _ _ => [va, vb]
  | .vmax _ _ va vb _ _ => [va, vb]
  | .vabs _ _ va _ _ => [va]
  | .vneg _ _ va _ _ => [va]
  | .vand _ _ va vb _ _ => [va, vb]
  | .vor _ _ va vb _ _ => [va, vb]
  | .vxor _ _ va vb _ _ => [va, vb]
  | .vshl _ _ va vb _ _ => [va, vb]
  | .vshr _ _ va vb _ _ => [va, vb]
  | .vsra _ _ va vb _ _ => [va, vb]
  | .vcmp _ _ va vb _ _ _ => [va, vb]
  | .vsel _ _ va vb _ _ _ => [va, vb]
  | .vcvt _ _ va _ _ _ _ _ => [va]
  | .vqblk _ _ _ va _ _ _ => [va]
  | .vdeq _ _ va vs _ _ _ => [va, vs]
  | .vtagGet _ _ va _ => [va]
  | .vtagSet _ vd _ _ => [vd]
  | .vtagSetAll _ vd _ => [vd]
  | .vretag _ _ va _ _ => [va]
  | .vsplat _ _ _ _ _ _ => []
  | .vmovsGet _ _ va _ => [va]
  | .vmovsPut _ vd _ _ => [vd]
  | .vsetvl _ _ _ => []
  | .vpand _ _ _ _ _ _ => []
  | .vpor _ _ _ _ _ _ => []
  | .vpnot _ _ _ _ _ => []
  | .vpcnt _ _ _ _ _ => []
  | .vld _ _ _ _ _ _ _ _ => []
  | .vst _ _ _ _ vs _ _ _ => [vs]
  | .vgth _ _ _ vi _ _ _ _ => [vi]
  | .vsct _ _ vi vs _ _ _ _ => [vi, vs]
  | .vrot _ _ va _ _ _ _ => [va]
  | .vbc _ _ va _ _ _ _ => [va]
  | .vred _ _ va _ _ _ _ => [va]
  | .vscan _ _ va _ _ _ _ => [va]
  | .vtrn _ _ va _ => [va]
  | .vshuf _ _ va vi _ _ => [va, vi]
  | .vcmpr _ _ va _ _ => [va]
  | .vexp2 _ _ va _ _ => [va]
  | .vlog2 _ _ va _ _ => [va]
  | .vrcp _ _ va _ _ => [va]
  | .vrsq _ _ va _ _ => [va]
  | .vsqrt _ _ va _ _ => [va]
  | .vtanh _ _ va _ _ => [va]
  | .vsin _ _ va _ _ => [va]
  | .vqpush _ _ va _ => [va]
  | .vqpop _ _ _ _ => []
  | .vqstat _ _ _ => []
  | .mshape _ _ _ _ => []
  | .mzero _ _ => []
  | .mma _ _ va vb vsa vsb g => vgroup va g.toNat ++ vgroup vb 3 ++ vsa.toList ++ vsb.toList
  | .mmag _ _ va vb vsa vsb g _ _ => vgroup va g.toNat ++ vgroup vb 3 ++ vsa.toList ++ vsb.toList
  | .mlda _ _ _ _ => []
  | .msta _ _ _ _ _ _ => []
  | .mdrain _ => []
  | .movcG _ _ _ _ => []
  | .movcP _ _ va _ => [va]
  | .rmode _ _ _ => []
  | .cpy _ _ _ _ _ _ _ _ => []
  | .cpyX _ _ _ _ _ _ _ _ => []
  | .cpyt _ _ _ _ _ _ _ _ _ => []
  | .cmcast _ _ _ _ _ _ _ _ => []
  | .gath _ _ _ _ vi _ _ _ _ => [vi]
  | .scat _ _ _ _ vi _ _ _ => [vi]
  | .cred _ _ _ _ _ _ _ _ _ => []
  | .cwait _ _ => []
  | .cstat _ _ _ => []
  | .csrr _ _ _ => []
  | .csrrX _ _ _ => []
  | .csrrF _ _ _ => []
  | .csrw _ _ _ => []
  | .csrwX _ _ _ => []
  | .trap _ _ => []
  | .trapBrk _ _ => []
  | .eret _ => []
  | .eretDiscard _ => []
  | .spawn _ _ _ _ => []
  | .gsig _ _ => []
  | .tlbiVa _ _ _ => []
  | .tlbiAsn _ _ _ => []
  | .tlbiVd _ => []
  | .tlbiGpa _ _ _ => []
  | .tlbiS2 _ _ _ => []
  | .snap _ _ => []
  | .ebudQ _ _ => []
  | .ebudR _ _ _ => []
  | .ebudF _ _ _ => []
  | .keyld _ _ _ _ => []
  | .faultDelivery _ => []
  | .holdConvert _ => []
  | .holdRestart _ => []
  | .walkComplete _ => []
  | .s2respSuccess _ => []
  | .s2respFail _ => []
  | .prgResponse _ _ => []
  | .retortLineSwitch _ => []
  | .granuleAssign _ _ => []
  | .copyBeat _ _ _ _ => []
  | .vectorArbiterCycle _ => []
  | .taskLeaveStoker _ => []
  | .launchCompletion _ => []
  | .queueNotify _ _ _ _ => []
  | .queueEnable _ _ => []
  | .queueDisable _ _ => []
  | .launchValidate _ _ => []
  | .taskCreate _ _ _ => []
  | .flueRound _ => []
  | .preqGo _ _ => []
  | .preempt _ => []
  | .dbgctlResume _ => []
  | .dbgctlStep _ _ => []
  | .pctlApply _ => []
  | .sqrangeWrite _ => []
  | .vdcfgWrite _ _ => []
  | .latticeWrite _ _ => []
  | .vdReset _ => []
  | .hostAccess _ => []
  | .peerAccess _ => []
  | .registerWrite _ _ _ => []
  | .matrixEntryComplete _ => []
  | .energyMeter _ _ => []
  | .powerLimit _ _ => []
  | .calendarSlot _ => []
  | .kilnStoreAccessComplete _ => []
  | .residencyFill _ _ => []
  | .leaseExpiry _ => []
  | .tenureWaitTimeout _ => []
  | .lineWritebackCross _ _ _ => []
  | .scrubLine _ => []
  | .credTimeout _ _ => []
  | .cpytRelease _ => []
  | .mmagMeet _ => []
  | .matrixHolderAcquire _ => []
  | .gangReserveTimeout _ => []
  | .starvationPreempt _ => []
  | .recodeWaitTimeout _ => []
  | .firmwareLoad _ => []
  | .atsInvalidate _ _ => []
  | .cxlCacheSnoop _ _ => []
  | .latticeApply _ => []
  | .partitionApply _ => []
  | .markerAtHead _ => []
  | .suspendDeadline _ => []
  | .mwaitTimeout _ => []
  | .convoyDrain _ => []
  | .credInstanceStart _ _ => []
  | .retortJobEnd _ => []
  | .haltRetire _ => []
  | .energyRefill => []
  | .snapshotLatch => []
  | .snapin => []
  | .snapshotCommand => []
  | .snapshotRead => []
  | .moduleReset => []

/-- The vector registers an instruction writes. -/
def vwrites : Instr → List (BitVec 5)
  | .add _ _ _ _ => []
  | .addi _ _ _ _ => []
  | .sub _ _ _ _ => []
  | .mul _ _ _ _ => []
  | .mulh _ _ _ _ => []
  | .mulhu _ _ _ _ => []
  | .div _ _ _ _ => []
  | .divu _ _ _ _ => []
  | .rem _ _ _ _ => []
  | .remu _ _ _ _ => []
  | .and _ _ _ _ => []
  | .andi _ _ _ _ => []
  | .or _ _ _ _ => []
  | .ori _ _ _ _ => []
  | .xor _ _ _ _ => []
  | .xori _ _ _ _ => []
  | .andn _ _ _ _ => []
  | .shl _ _ _ _ => []
  | .shli _ _ _ _ => []
  | .shr _ _ _ _ => []
  | .shri _ _ _ _ => []
  | .sra _ _ _ _ => []
  | .srai _ _ _ _ => []
  | .rot _ _ _ _ => []
  | .clz _ _ _ => []
  | .ctz _ _ _ => []
  | .popc _ _ _ => []
  | .min _ _ _ _ => []
  | .minu _ _ _ _ => []
  | .max _ _ _ _ => []
  | .maxu _ _ _ _ => []
  | .sel _ _ _ _ _ => []
  | .li _ _ _ => []
  | .lih _ _ _ _ => []
  | .ext _ _ _ _ _ _ => []
  | .ins _ _ _ _ _ => []
  | .addx _ _ _ _ _ => []
  | .fadd _ _ _ _ _ => []
  | .fsub _ _ _ _ _ => []
  | .fmul _ _ _ _ _ => []
  | .ffma _ _ _ _ _ _ => []
  | .fmin _ _ _ _ => []
  | .fmax _ _ _ _ => []
  | .fcvt _ _ _ _ _ _ => []
  | .fcmp _ _ _ _ _ => []
  | .cmp _ _ _ _ _ => []
  | .pand _ _ _ _ => []
  | .por _ _ _ _ => []
  | .pxor _ _ _ _ => []
  | .pnot _ _ _ => []
  | .pmov _ _ _ => []
  | .pmovGet _ _ => []
  | .pmovSet _ _ => []
  | .pbr _ _ _ => []
  | .br _ _ _ => []
  | .call _ _ _ _ => []
  | .ret _ _ _ => []
  | .bsm _ _ _ => []
  | .bsmT _ _ _ => []
  | .vany _ _ _ _ => []
  | .vall _ _ _ _ => []
  | .halt _ => []
  | .yield _ => []
  | .suspend _ _ => []
  | .suspendRel _ _ => []
  | .nop _ => []
  | .ldb _ _ _ _ _ _ _ => []
  | .ldh _ _ _ _ _ _ _ => []
  | .ldw _ _ _ _ _ _ _ => []
  | .ldd _ _ _ _ _ _ => []
  | .stb _ _ _ _ _ _ => []
  | .sth _ _ _ _ _ _ => []
  | .stw _ _ _ _ _ _ => []
  | .std _ _ _ _ _ _ => []
  | .pref _ _ _ _ => []
  | .aadd _ _ _ _ _ _ _ => []
  | .aand _ _ _ _ _ _ _ => []
  | .aor _ _ _ _ _ _ _ => []
  | .axor _ _ _ _ _ _ _ => []
  | .amin _ _ _ _ _ _ _ _ => []
  | .amax _ _ _ _ _ _ _ _ => []
  | .aswp _ _ _ _ _ _ _ => []
  | .acas _ _ _ _ _ _ _ _ => []
  | .monitor _ _ _ => []
  | .mwait _ _ => []
  | .fence _ _ _ => []
  | .mfence _ _ _ => []
  | .join _ => []
  | .xfence _ _ => []
  | .publish _ _ _ _ => []
  | .wfence _ _ => []
  | .bara _ _ _ => []
  | .barw _ _ _ => []
  | .swset _ _ _ => []
  | .swadd _ _ _ _ _ => []
  | .swait _ _ _ _ => []
  | .swread _ _ _ _ _ => []
  | .halloc _ _ _ _ _ => []
  | .hbind _ _ _ _ _ => []
  | .hfree _ _ => []
  | .hshape _ _ _ => []
  | .htenRead _ _ _ _ => []
  | .htenWrite _ _ _ _ => []
  | .hrel _ _ _ _ => []
  | .hseal _ _ _ _ => []
  | .hunseal _ _ _ _ => []
  | .hsplit _ _ _ _ => []
  | .hprio _ _ _ => []
  | .hevict _ _ => []
  | .hdemote _ _ _ _ => []
  | .hzero _ _ => []
  | .hq _ _ _ _ => []
  | .sqmap _ _ _ _ _ => []
  | .sqshare _ _ _ _ _ _ => []
  | .sqfree _ _ _ => []
  | .wopen _ _ _ _ _ _ => []
  | .wclose _ _ _ => []
  | .vadd _ vd _ _ _ _ => [vd]
  | .vsub _ vd _ _ _ _ => [vd]
  | .vmul _ vd _ _ _ _ => [vd]
  | .vfma _ vd _ _ _ _ _ => [vd]
  | .vfms _ vd _ _ _ _ _ => [vd]
  | .vmin _ vd _ _ _ _ => [vd]
  | .vmax _ vd _ _ _ _ => [vd]
  | .vabs _ vd _ _ _ => [vd]
  | .vneg _ vd _ _ _ => [vd]
  | .vand _ vd _ _ _ _ => [vd]
  | .vor _ vd _ _ _ _ => [vd]
  | .vxor _ vd _ _ _ _ => [vd]
  | .vshl _ vd _ _ _ _ => [vd]
  | .vshr _ vd _ _ _ _ => [vd]
  | .vsra _ vd _ _ _ _ => [vd]
  | .vcmp _ _ _ _ _ _ _ => []
  | .vsel _ vd _ _ _ _ _ => [vd]
  | .vcvt _ vd _ _ _ _ _ _ => [vd]
  | .vqblk _ vd vs _ _ _ _ => [vd, vs]
  | .vdeq _ vd _ _ _ _ _ => [vd]
  | .vtagGet _ _ _ _ => []
  | .vtagSet _ vd _ _ => [vd]
  | .vtagSetAll _ vd _ => [vd]
  | .vretag _ vd _ _ _ => [vd]
  | .vsplat _ vd _ _ _ _ => [vd]
  | .vmovsGet _ _ _ _ => []
  | .vmovsPut _ vd _ _ => [vd]
  | .vsetvl _ _ _ => []
  | .vpand _ _ _ _ _ _ => []
  | .vpor _ _ _ _ _ _ => []
  | .vpnot _ _ _ _ _ => []
  | .vpcnt _ _ _ _ _ => []
  | .vld _ vd _ _ _ _ _ _ => [vd]
  | .vst _ _ _ _ _ _ _ _ => []
  | .vgth _ vd _ _ _ _ _ _ => [vd]
  | .vsct _ _ _ _ _ _ _ _ => []
  | .vrot _ vd _ _ _ _ _ => [vd]
  | .vbc _ vd _ _ _ _ _ => [vd]
  | .vred _ vd _ _ _ _ _ => [vd]
  | .vscan _ vd _ _ _ _ _ => [vd]
  | .vtrn _ vd _ _ => [vd]
  | .vshuf _ vd _ _ _ _ => [vd]
  | .vcmpr _ vd _ _ _ => [vd]
  | .vexp2 _ vd _ _ _ => [vd]
  | .vlog2 _ vd _ _ _ => [vd]
  | .vrcp _ vd _ _ _ => [vd]
  | .vrsq _ vd _ _ _ => [vd]
  | .vsqrt _ vd _ _ _ => [vd]
  | .vtanh _ vd _ _ _ => [vd]
  | .vsin _ vd _ _ _ => [vd]
  | .vqpush _ _ _ _ => []
  | .vqpop _ vd _ _ => [vd]
  | .vqstat _ _ _ => []
  | .mshape _ _ _ _ => []
  | .mzero _ _ => []
  | .mma _ _ _ _ _ _ _ => []
  | .mmag _ _ _ _ _ _ _ _ _ => []
  | .mlda _ _ _ _ => []
  | .msta _ _ _ _ _ _ => []
  | .mdrain _ => []
  | .movcG _ vd _ _ => [vd]
  | .movcP _ _ _ _ => []
  | .rmode _ _ _ => []
  | .cpy _ _ _ _ _ _ _ _ => []
  | .cpyX _ _ _ _ _ _ _ _ => []
  | .cpyt _ _ _ _ _ _ _ _ _ => []
  | .cmcast _ _ _ _ _ _ _ _ => []
  | .gath _ _ _ _ _ _ _ _ _ => []
  | .scat _ _ _ _ _ _ _ _ => []
  | .cred _ _ _ _ _ _ _ _ _ => []
  | .cwait _ _ => []
  | .cstat _ _ _ => []
  | .csrr _ _ _ => []
  | .csrrX _ _ _ => []
  | .csrrF _ _ _ => []
  | .csrw _ _ _ => []
  | .csrwX _ _ _ => []
  | .trap _ _ => []
  | .trapBrk _ _ => []
  | .eret _ => []
  | .eretDiscard _ => []
  | .spawn _ _ _ _ => []
  | .gsig _ _ => []
  | .tlbiVa _ _ _ => []
  | .tlbiAsn _ _ _ => []
  | .tlbiVd _ => []
  | .tlbiGpa _ _ _ => []
  | .tlbiS2 _ _ _ => []
  | .snap _ _ => []
  | .ebudQ _ _ => []
  | .ebudR _ _ _ => []
  | .ebudF _ _ _ => []
  | .keyld _ _ _ _ => []
  | .faultDelivery _ => []
  | .holdConvert _ => []
  | .holdRestart _ => []
  | .walkComplete _ => []
  | .s2respSuccess _ => []
  | .s2respFail _ => []
  | .prgResponse _ _ => []
  | .retortLineSwitch _ => []
  | .granuleAssign _ _ => []
  | .copyBeat _ _ _ _ => []
  | .vectorArbiterCycle _ => []
  | .taskLeaveStoker _ => []
  | .launchCompletion _ => []
  | .queueNotify _ _ _ _ => []
  | .queueEnable _ _ => []
  | .queueDisable _ _ => []
  | .launchValidate _ _ => []
  | .taskCreate _ _ _ => []
  | .flueRound _ => []
  | .preqGo _ _ => []
  | .preempt _ => []
  | .dbgctlResume _ => []
  | .dbgctlStep _ _ => []
  | .pctlApply _ => []
  | .sqrangeWrite _ => []
  | .vdcfgWrite _ _ => []
  | .latticeWrite _ _ => []
  | .vdReset _ => []
  | .hostAccess _ => []
  | .peerAccess _ => []
  | .registerWrite _ _ _ => []
  | .matrixEntryComplete _ => []
  | .energyMeter _ _ => []
  | .powerLimit _ _ => []
  | .calendarSlot _ => []
  | .kilnStoreAccessComplete _ => []
  | .residencyFill _ _ => []
  | .leaseExpiry _ => []
  | .tenureWaitTimeout _ => []
  | .lineWritebackCross _ _ _ => []
  | .scrubLine _ => []
  | .credTimeout _ _ => []
  | .cpytRelease _ => []
  | .mmagMeet _ => []
  | .matrixHolderAcquire _ => []
  | .gangReserveTimeout _ => []
  | .starvationPreempt _ => []
  | .recodeWaitTimeout _ => []
  | .firmwareLoad _ => []
  | .atsInvalidate _ _ => []
  | .cxlCacheSnoop _ _ => []
  | .latticeApply _ => []
  | .partitionApply _ => []
  | .markerAtHead _ => []
  | .suspendDeadline _ => []
  | .mwaitTimeout _ => []
  | .convoyDrain _ => []
  | .credInstanceStart _ _ => []
  | .retortJobEnd _ => []
  | .haltRetire _ => []
  | .energyRefill => []
  | .snapshotLatch => []
  | .snapin => []
  | .snapshotCommand => []
  | .snapshotRead => []
  | .moduleReset => []

/-- The scalar register a vector-queue instruction writes, pending until it is performed (R264). -/
def sdest : Instr → Option (BitVec 6)
  | .vpcnt _ rd _ _ _ => some rd
  | .vmovsGet _ rd _ _ => some rd
  | .vtagGet _ rd _ _ => some rd
  | _ => none

/-- The scalar predicate a vector-queue instruction writes (R264, R293). -/
def pdest : Instr → Option (BitVec 3)
  | .vany _ pd _ _ => some pd
  | .vall _ pd _ _ => some pd
  | _ => none

/-- An instruction names a register that a queued instruction has pending (R264). -/
def pendsOn (i : Instr) (j : Instr) : Bool :=
  (match sdest j with | some r => r != 0 && (sregs i).contains r | none => false) ||
  (match pdest j with | some p => p != 0 && (pregs i).contains p | none => false)

/-- The handle that an instruction may wait on: for tenure, for its sync word, for the lines it reads or writes (R314, R318). -/
def waitsOn : Instr → Option (BitVec 6)
  | .swait _ h _ _ => some h
  | .htenRead _ h _ _ => some h
  | .htenWrite _ h _ _ => some h
  | .hseal _ h _ _ => some h
  | .hunseal _ h _ _ => some h
  | .hzero _ h => some h
  | .vld _ _ h _ _ _ _ _ => some h
  | .vst _ h _ _ _ _ _ _ => some h
  | .mlda _ _ h _ => some h
  | .msta _ h _ _ _ _ => some h
  | _ => none

end Sys2Proof.Machine
end

