-- ==== Sys2Proof/Machine/Ops.lean ====
section
/-!
DEFINITION. Sys2Proof/Machine/Ops.lean: the operations every meaning shares: registers and predicates, guards, moving
past an instruction, stopping (a fault, a wait, a hold), taking a fault into the shadow context and returning from it,
and the checks of Table 10.11 around an instruction's own effect.
-/

namespace Sys2Proof.Machine

open Sys2Proof

/-- Fault codes (Table 18.3). -/
def Cause.code : Cause → BitVec 8
  | .illegalOp => 0x01 | .illegalConvoy => 0x02 | .privOp => 0x03 | .pipeNotOwned => 0x04 | .formatPair => 0x08
  | .undefRead => 0x09 | .poisonConsumed => 0x0A | .foreignLine => 0x0B | .recodeTimeout => 0x0C
  | .translation => 0x10 | .stage2 => 0x11 | .permission => 0x12 | .wxViolation => 0x13 | .halfPublished => 0x14
  | .fetchTag => 0x15 | .handleInvalid => 0x18 | .handleShape => 0x19 | .bindAttrMismatch => 0x1A
  | .tenureTimeout => 0x1B | .noProgress => 0x20 | .queueError => 0x28 | .integrity => 0x30 | .crcExhausted => 0x31
  | .trapInstr => 0x40 | .breakpoint => 0x41 | .watchpoint => 0x42

/-- SRC of the fault record (Table 18.5). -/
def FaultSrc.code : FaultSrc → Nat
  | .stream => 0 | .vector => 1 | .matrix => 2 | .beat => 3

/-! Registers (Table 10.1). s0 reads zero and discards writes; p0 reads true and discards writes. -/

def Ctx.s (c : Ctx) (r : BitVec 6) : Word := if r = 0 then 0 else c.regs.get r.toFin
def Ctx.setS (c : Ctx) (r : BitVec 6) (v : Word) : Ctx := if r = 0 then c else { c with regs := c.regs.set r.toNat v r.isLt }
def Ctx.p (c : Ctx) (r : BitVec 3) : Bool := if r = 0 then true else c.preds.get r.toFin
def Ctx.setP (c : Ctx) (r : BitVec 3) (v : Bool) : Ctx := if r = 0 then c else { c with preds := c.preds.set r.toNat v r.isLt }
def Ctx.b (c : Ctx) (r : BitVec 2) : Word := c.brs.get r.toFin
def Ctx.setB (c : Ctx) (r : BitVec 2) (v : Word) : Ctx := { c with brs := c.brs.set r.toNat v r.isLt }
def Ctx.vp (c : Ctx) (r : BitVec 4) : BitVec 1024 := c.vps.get r.toFin
def Ctx.setVp (c : Ctx) (r : BitVec 4) (v : BitVec 1024) : Ctx := { c with vps := c.vps.set r.toNat v r.isLt }

/-- Row r of vector register v. -/
def Ctx.row (c : Ctx) (v r : Nat) : Row := SMap.get {} c.rows (16 * v + r)

/-- Write a row; the register's bit of vdirty is set (R334, Table 10.2). -/
def Ctx.setRow (c : Ctx) (v r : Nat) (x : Row) : Ctx :=
  { c with rows := SMap.set {} c.rows (16 * v + r) x, vdirty := c.vdirty ||| BitVec.ofNat 64 (2 ^ v) }

/-- A guard holds when p[G[2:0]] XOR G[3] is true (R259). -/
def Ctx.guard (c : Ctx) (g : BitVec 4) : Bool := c.p (g.setWidth 3) ^^ g.getLsbD 3

/-- Both guards hold: the instruction is performed (R259). -/
def Ctx.guards (c : Ctx) (x : Ctl) : Bool := c.guard x.g1 && c.guard x.g2

/-- A stream that begins an instruction anew: it has waited for nothing, lost no handle, and come nowhere. -/
def Ctx.anew (c : Ctx) : Ctx := { c with waitSince := none, lost := none, progress := none }

/-- Move past an instruction: the PC advances by 8 (R256); with a transfer pending, a slot has been used, and after the
last one the stream continues at the target (R289). -/
def Ctx.advance (c : Ctx) : Ctx :=
  let c := c.anew
  match c.pend with
  | none => { c with pc := c.pc + 8 }
  | some p => if p.slots ≤ 1 then { c with pc := p.target, pend := none }
              else { c with pc := c.pc + 8, pend := some { p with slots := p.slots - 1 } }

/-- The PC the stream would stop at after the instruction at hand (R424). -/
def Ctx.nextPc (c : Ctx) : Word := c.advance.pc

/-- How an instruction's effect ends early: a fault, a wait in place, or a hold of the task (R426). With a state, that
state stands; with none, the instruction has had no effect. -/
inductive Stop where
  | fault (f : FaultInfo) (s : Option State)
  | wait (elem : Nat) (s : Option State)
  | hold (k : HoldKind) (va : Word) (a : Access) (elem : Nat) (s : Option State)

/-- An effect on the state that may stop early. A stop without a state discards everything done before it, which is
what makes a fault precise (R424). -/
abbrev Op (α : Type) := StateT State (Except Stop) α

/-- Raise a fault; nothing done so far stands. -/
def raise {α : Type} (c : Cause) (etval : Word) : Op α := throw (.fault { cause := c, etval := etval } none)

/-- Raise a fault of element e of a vector access; what the state now holds (the elements below) stands (R226). -/
def raiseAt {α : Type} (c : Cause) (etval : Word) (e : Nat) : Op α := do
  let s ← get
  throw (.fault { cause := c, etval := etval, elem := e } (some s))

/-- Wait in place; nothing done so far stands. -/
def waitHere {α : Type} : Op α := throw (.wait 0 none)

/-- Wait in place with the state as it now is (a request queued, say). -/
def waitKeep {α : Type} : Op α := do
  let s ← get
  throw (.wait 0 (some s))

/-- A check that raises a fault when it fails. -/
def require (b : Bool) (c : Cause) (etval : Word) : Op Unit := if b then pure () else raise c etval

/-- Where the stream goes when an instruction has been performed: on, to a target, or nowhere yet. -/
inductive Flow where
  | on | jump (target : Word) | stay

/-! Faults (R420 to R427). -/

/-- Record a fault of stream k: it waits at its core, in the order of arrival, and keeps its stream stopped (R420); its instruction goes on later from where it has come only after a held fault, or one of a queue (R427). -/
def raiseFault (s : State) (k : Nat) (f : FaultInfo) : State :=
  let w : Waiting := { ctx := k, info := f, since := s.now }
  (s.modCore (coreOf k) fun x => { x with faults := x.faults ++ [w] }).modCtx k fun c =>
    { c with faulted := true, lost := none, progress := if f.held || f.src ≠ .stream then c.progress else none }

/-- A fault of stream k raised by one of its queues waits or is served: that queue is stopped (R424). -/
def queueStopped (s : State) (k : Nat) (src : FaultSrc) : Bool :=
  let x := s.core (coreOf k)
  let mine := fun (w : Waiting) => w.ctx = k && w.info.src = src
  x.faults.any mine || x.serving.any mine

/-- The task of stream k is held, by either of its streams, or stopped by the debugger (R426, R481). -/
def heldTask (s : State) (k : Nat) : Bool :=
  let c := s.ctx k
  c.hold.isSome || (c.stopped && !c.stepping) ||
    (match c.task.bind s.task with
     | none => false
     | some x => (x.xctx.toList ++ x.actx.toList).any fun j => (s.ctx j).hold.isSome)

/-- The cause register of a fault (Table 10.6). -/
def causeWord (f : FaultInfo) (k : Nat) : Word :=
  f.cause.code.setWidth 64 ||| BitVec.ofNat 64 ((if f.src = .vector && !f.held then 256 else 0) + 512 * (stkOf k % 4))

/-- The shadow context as a fault starts it (R420): S mode, in the faulting task's VD and ASN, from TVEC, s1 = TSCR,
every other register zero, and cause, epc, etval and the fault record of the fault (Tables 10.6, 18.5). -/
def handlerCtx (v : Vd) (c : Ctx) (w : Waiting) (now : Nat) : Ctx :=
  { mode := .s, live := true, task := c.task, vd := c.vd, asn := c.asn,
    pc := BitVec.ofNat 64 (field v.tvec 55 3 * 8), regs := (Vector.replicate 64 0).set 1 v.tscr,
    cause := causeWord w.info w.ctx, epc := w.info.epc, etval := w.info.etval, fpc := w.info.fpc,
    frSrc := w.info.src, frHeld := w.info.held, frConv := w.conv, hcyc := BitVec.ofNat 64 (now - w.since) }

/-- Taking a fault: the core's shadow context starts the handler for a waiting fault, which is then being served. A
vector entry's fault leaves vstart at the faulting element (R424). -/
def takeFault (s : State) (core : Nat) (w : Waiting) (rest : List Waiting) : State :=
  let c := s.ctx w.ctx
  let s := s.modCore core fun x => { x with faults := rest, serving := some w }
  let s := if w.info.src = .vector && !w.info.held then
      s.modCtx w.ctx fun c => { c with vstart := BitVec.ofNat 64 w.info.elem } else s
  s.setCtx (shadowOf core) (handlerCtx (s.vd c.vd) c w s.now)

/-- The first number at or after `held` that is a whole multiple of 24 (R426). -/
def restartCycles (held : Nat) : Nat := (held + 23) / 24 * 24

/-- Whether the served fault is a held fault of a queue entry, for which epc is not used (R427). -/
def Waiting.queueHeld (w : Waiting) : Bool := w.info.held && !w.conv && (w.info.src = .vector || w.info.src = .matrix)

/-- A stream whose wait a fault has ended issues its instruction again: a suspension point that its task had begun to leave by is performed
anew (R243, R295, R304). -/
def reissue (s : State) (k : Nat) : State :=
  match (s.ctx k).task with
  | none => s
  | some t => s.modTask t fun x =>
    if x.xctx = some k ∧ x.status = .running then { x with reason := .none, waitObj := 0, waitUntil := none, monitor := none } else x

/-- Return from the handler (R432, R424, R427): the faulting stream resumes at epc, a pending transfer kept, or for a
held fault of a queue entry where its issue stopped, with no convoy open; the vector entry at the queue's head restarts from
vstart; a held task's clocks restart at the next multiple of 24 held cycles (R426). The shadow context falls idle, its state gone. -/
def returnFrom (s : State) (core : Nat) (w : Waiting) : State :=
  let sh := s.ctx (shadowOf core)
  let again := s.core core |>.faults.any (fun x => x.ctx == w.ctx)
  let s := s.modCtx w.ctx fun c =>
    let pc := if w.queueHeld then c.pc else sh.epc
    let c := { c with faulted := again, pc := pc, progress := if pc = c.pc then c.progress else none, convoy := none, bound := none,
                      waitSince := if w.info.held && !w.conv then c.waitSince else none }
    let c := if w.info.src = .vector && (!w.info.held || w.conv) then
      match c.vq with
      | .entry e :: q => { c with vq := .entry { e with vstart := c.vstart.toNat } :: q }
      | q => { c with vq := q }
      else c
    match c.hold with
    | none => c
    | some h => if w.info.held && !w.conv then { c with hold := some { h with due := some (h.since + restartCycles (s.now - h.since)) } }
                else { c with hold := none }
  let s := if w.info.held && !w.conv then s else reissue s w.ctx
  (s.modCore core fun x => { x with serving := none }).setCtx (shadowOf core) {}

/-! Checks around an instruction (Table 10.11, R289, R421). -/

/-- The CSRs of Table 10.2, and those a program may not write (columns U and S). -/
def csrKnown (n : Nat) : Bool :=
  decide (n ≤ 5) || (8 ≤ n && n ≤ 10) || (0x10 ≤ n && n ≤ 0x16) || (0x18 ≤ n && n ≤ 0x1B) || (0x100 ≤ n && n ≤ 0x102)
def csrReadOnlyS (n : Nat) : Bool := (0x10 ≤ n && n ≤ 0x16) || (0x18 ≤ n && n ≤ 0x1B)
def csrReadOnlyU (n : Nat) : Bool := n = 1 || n = 2 || n = 4 || (8 ≤ n && n ≤ 10) || csrReadOnlyS n

/-- The CSR an instruction reads or writes, and whether it writes. -/
def csrUse : Instr → Option (Nat × Bool)
  | .csrr _ _ n => some (n.toNat, false)
  | .csrw _ n _ => some (n.toNat, true)
  | _ => none

/-- Order 3: privilege. -/
def privFault (md : Mode) (i : Instr) : Bool :=
  match md, i.traits.modes, csrUse i with
  | .u, .s, _ => true
  | .u, .m, _ => true
  | .u, .any, some (n, w) => (0x100 ≤ n && n ≤ 0x102) || (w && csrReadOnlyU n)
  | _, _, _ => false

/-- Orders 4 and 5 and the rule of delay slots, as far as they depend on where the instruction is issued: a form not
for this mode (R429), S mode's exclusions (R421), a CSR no table names or S mode may not write, the access stream (R236), a
slot (R289). -/
def placeFault (c : Ctx) (i : Instr) : Bool :=
  let t := i.traits
  (match c.mode, t.modes with
    | .s, .m => true | .s, .u => true | .m, .u => true | _, _ => false) ||
  (c.mode = .s && !t.sMode) ||
  (match csrUse i with | some (n, _) => !csrKnown n | none => false) ||
  (c.mode = .s && (match csrUse i with | some (n, true) => csrReadOnlyS n | _ => false)) ||
  (c.access && c.mode = .u && !t.access) ||
  (c.pend.isSome && !t.slot)

/-- A fault of the stream's own instruction: FPC and epc are its PC (R424); epc of a TRAP is that of the instruction after it (R431). -/
def Ctx.ownFault (c : Ctx) (f : FaultInfo) : FaultInfo :=
  { f with fpc := c.pc, epc := if f.cause = .trapInstr then c.pc + 8 else c.pc }

/-- Settle how an instruction of stream k ended. In M mode a fault is the firmware's own (R418). -/
def settle (s : State) (k : Nat) (r : Except Stop (Flow × State)) : Host.Outcome State Fault Refusal :=
  match r with
  | .ok (.on, s') => .next (s'.modCtx k Ctx.advance)
  | .ok (.jump t, s') => .next (s'.modCtx k fun c => { c.anew with pc := t })
  | .ok (.stay, s') => .next s'
  | .error (.fault f s') =>
    if (s.ctx k).mode = .m then .fault .firmwareTrap
    else .next (raiseFault (s'.getD s) k ((s.ctx k).ownFault f))
  | .error (.wait _ s') =>
    .next ((s'.getD s).modCtx k fun c => { c with waitSince := some (c.waitSince.getD s.now) })
  | .error (.hold h va a e s') =>
    .next ((s'.getD s).modCtx k fun c => { c with hold := some { kind := h, va := va, access := a, elem := e, since := s.now } })

/-- What R266 keeps out of an open convoy: BSM, VSETVL, CSRW to vl and vstart, RMODE that names the vector queue. -/
def breaksConvoy : Instr → Bool
  | .bsm _ _ _ => true
  | .bsmT _ _ _ => true
  | .vsetvl _ _ _ => true
  | .csrw _ n _ => decide (n.toNat ≤ 1)
  | .rmode _ qs _ => qs.getLsbD 0
  | _ => false

/-- The checks of orders 3 to 6 and of delay slots, before the guards and before anything of the stream is read (Table 10.11); those of
order 6 that concern a convoy's members are joinConvoy's. -/
def issueFault (i : Instr) (c : Ctx) : Option FaultInfo :=
  if privFault c.mode i then some { cause := .privOp, etval := c.ir }
  else if placeFault c i then some { cause := .illegalOp, etval := c.ir }
  else if c.convoy.isSome && breaksConvoy i then some { cause := .illegalConvoy, etval := c.ir }
  else none

/-- A register the instruction names is pending: the stream stalls until its value has arrived (R264). -/
def Ctx.stalls (c : Ctx) (i : Instr) : Bool :=
  c.vq.any fun q => match q with
    | .entry e => pendsOn i e.instr
    | .mode _ _ => false
    | .marker _ => false

/-- Issue an instruction that the stream itself performs: the checks of Table 10.11 in their order, the guards last,
then its effect, unless it has waited on a handle that has been freed meanwhile (R318). -/
def issue (i : Instr) (s : State) (body : Nat → Op Flow) : Host.Outcome State Fault Refusal :=
  let k := s.focus
  match issueFault i (s.ctx k) with
  | some f => settle s k (.error (.fault f none))
  | none =>
    if (s.ctx k).stalls i then .next s
    else if (s.ctx k).guards i.ctl then
      match (s.ctx k).lost with
      | some h => settle s k (raise .handleInvalid (h.setWidth 64) s)
      | none => settle s k (body k s)
    else .next (s.modCtx k Ctx.advance)

/-- An effect on the issuing stream's own registers alone. -/
def onCtx (f : Ctx → Ctx) : Nat → Op Flow := fun k s => .ok (.on, s.modCtx k f)

end Sys2Proof.Machine
end

