-- ==== Sys2Proof/Machine/Operands.lean ====
section
/-!
DEFINITION. Sys2Proof/Machine/Operands.lean: operand words and the fields of tile-table entries (Tables 5.1 to 5.5, 13.2
to 13.4), shapes and footprints (R112), and immediates (R258).
-/

namespace Sys2Proof.Machine

open Sys2Proof

/-- A base register plus the short immediate, as an address (R298). -/
def addr20 (a : Word) (imm : BitVec 20) : Word := a + imm.signExtend 64

/-- A PC-relative target: the PC of the instruction plus 8 times the immediate (R258). -/
def pcTarget (pc : Word) (imm : BitVec 26) : Word := pc + (imm.signExtend 64) * 8

/-! Fields of an entry. -/

def HEntry.valid (h : HEntry) : Bool := bit h.info 63
def HEntry.rankM1 (h : HEntry) : Nat := field h.info 62 61
def HEntry.prio (h : HEntry) : Nat := field h.info 60 57
def HEntry.fmt (h : HEntry) : BitVec 6 := BitVec.ofNat 6 (field h.info 56 51)
def HEntry.level (h : HEntry) : Nat := field h.info 50 48
def HEntry.owner (h : HEntry) : Nat := field h.info 47 32
def HEntry.ovf (h : HEntry) : Nat := field h.info 31 0
def HEntry.res (h : HEntry) : Nat := field h.shape 5 4
def HEntry.ten (h : HEntry) : Nat := field h.shape 7 6
def HEntry.locv (h : HEntry) : Nat := field h.loc 63 15
def HEntry.plane (h : HEntry) : Option Nat := if bit h.loc 14 then some (field h.loc 13 8) else none
def HEntry.band (h : HEntry) : Option Nat := if bit h.loc 7 then some (field h.loc 6 1) else none

def HEntry.setTen (h : HEntry) (t : Nat) : HEntry := { h with shape := putField h.shape 7 6 t }
def HEntry.setFmt (h : HEntry) (f : BitVec 6) : HEntry := { h with info := putField h.info 56 51 f.toNat }

/-- Add to the overflow counter, which saturates at 2^32 − 1 (R94). -/
def HEntry.addOvf (h : HEntry) (n : Nat) : HEntry :=
  { h with info := putField h.info 31 0 (min (h.ovf + n) (2 ^ 32 - 1)) }

/-- Levels (Table 5.2). -/
def lvCore : Nat := 0
def lvKiln : Nat := 1
def lvPackage : Nat := 2
def lvMem : Nat := 3
def lvSeq : Nat := 4

/-- A tensor's shape: the four dimensions. -/
structure Shape where
  d0 : Nat
  d1 : Nat
  d2 : Nat
  d3 : Nat
  deriving DecidableEq, Repr

/-- The shape of a shape word or of an entry's shape word: the fields lie alike (Tables 5.3, 13.2). -/
def shapeOf (w : Word) : Shape := ⟨field w 63 48, field w 47 32, field w 31 20, field w 19 8⟩

/-- A shape R112 admits at rank rankM1 + 1: no dimension 0, and dimensions above the rank 1. -/
def Shape.ok (x : Shape) (rankM1 : Nat) : Bool :=
  decide (0 < x.d0) && decide (0 < x.d1) && decide (0 < x.d2) && decide (0 < x.d3) &&
    (decide (1 ≤ rankM1) || x.d1 = 1) && (decide (2 ≤ rankM1) || x.d2 = 1) && (decide (3 ≤ rankM1) || x.d3 = 1)

/-- The innermost dimension padded to whole rows of 64 elements (R112). -/
def Shape.p0 (x : Shape) : Nat := (x.d0 + 63) / 64 * 64

/-- The padded rows of the tensor (R139). -/
def Shape.rows (x : Shape) : Nat := x.d1 * x.d2 * x.d3

/-- The padded elements. -/
def Shape.elems (x : Shape) : Nat := x.p0 * x.rows

/-- The footprint in lines of 128 bytes at an element width in bits (R112). -/
def Shape.footprint (x : Shape) (w : Nat) : Nat := (x.elems * w + 1023) / 1024

/-- The element width of a format code; RAW and CODE count as 8 bits. -/
def widthOf (f : BitVec 6) : Nat := ((Fmt.ofCode f).map Fmt.width).getD 8

/-- An entry's shape, its element width (of the original format, R113), its footprint in lines. -/
def HEntry.shp (h : HEntry) : Shape := shapeOf h.shape
def HEntry.width (h : HEntry) : Nat := widthOf h.fmt0
def HEntry.footprint (h : HEntry) : Nat := h.shp.footprint h.width

/-- Grid cells of a tensor: bands of 4 rows by bands of 64 columns, numbered row band by row band (R139). -/
def cellsOf (x : Shape) (row nrows col ncols : Nat) : List Nat :=
  let nb := x.p0 / 64
  let rb := row / 4
  let re := (row + nrows + 3) / 4
  let cb := col / 64
  let ce := (col + ncols + 63) / 64
  (List.range (re - rb)).flatMap fun i => (List.range (ce - cb)).map fun j => (rb + i) * nb + cb + j

/-- The cell of an element by its padded index. -/
def cellOfElem (x : Shape) (e : Nat) : Nat := e / x.p0 / 4 * (x.p0 / 64) + e % x.p0 / 64

/-- The rectangle of a tenure instruction: first row and extent word (R317, Table 13.4); none when it reaches beyond the
tensor's rows or padded columns. -/
def rectCells (x : Shape) (rw rx : Word) : Option (List Nat) :=
  let row := rw.toNat
  let nr := field rx 63 32
  let c0 := field rx 31 16
  let nc := field rx 15 0
  let nrows := if nr = 0 then x.rows - row else nr
  let ncols := if nc = 0 then x.p0 - c0 else nc
  if row ≥ x.rows || row + nrows > x.rows || c0 ≥ x.p0 || c0 + ncols > x.p0 then none
  else some (cellsOf x row nrows c0 ncols)

/-- A shape word that R316 and R112 accept. -/
def shapeWordOk (w : Word) : Bool := field w 7 2 = 0 && (shapeOf w).ok (field w 1 0)

/-- An attribute word that R316 accepts. -/
def attrWordOk (w : Word) : Bool :=
  field w 63 29 = 0 && decide (field w 8 6 ≤ 4) && decide (field w 14 13 ≠ 3) &&
    (Fmt.ofCode (BitVec.ofNat 6 (field w 5 0))).isSome

/-- The words of a new entry from its shape and attribute words, owner tag and location (R319, R320). -/
def newEntry (shape attr : Word) (owner loc : Nat) : HEntry :=
  let info : Nat := 2 ^ 63 + field shape 1 0 * 2 ^ 61 + field attr 12 9 * 2 ^ 57 + field attr 5 0 * 2 ^ 51 +
    field attr 8 6 * 2 ^ 48 + owner % 2 ^ 16 * 2 ^ 32
  let sh : Nat := field shape 63 8 * 2 ^ 8 + field attr 14 13 * 2 ^ 4
  let lw : Nat := loc * 2 ^ 15 + field attr 15 15 * 2 ^ 14 + field attr 21 16 * 2 ^ 8 + field attr 22 22 * 2 ^ 7 +
    field attr 28 23 * 2
  { sync := 0, info := BitVec.ofNat 64 info, shape := BitVec.ofNat 64 sh, loc := BitVec.ofNat 64 lw,
    fmt0 := BitVec.ofNat 6 (field attr 5 0) }

/-- A name word of the sequence store (R317): sequence, layer, block. -/
def nameSeq (w : Nat) : Nat := w / 2 ^ 24 % 2 ^ 20
def nameLayer (w : Nat) : Nat := w / 2 ^ 16 % 2 ^ 8
def nameBlock (w : Nat) : Nat := w % 2 ^ 16

/-- A name entry's key in the block table: VD, sequence, layer and block, in ascending name order within a VD. -/
def nameKey (vd name : Nat) : Nat := vd * 2 ^ 44 + name % 2 ^ 44

/-- A credit of n bytes to a sync word (R126): idle words discard it; each time the target is reached, a flip. -/
def creditWord (w : Word) (n : Nat) : Word :=
  let target := field w 63 36
  if target = 0 then w
  else
    let a := field w 35 8 + n
    let w := putField w 35 8 (a % target)
    putField w 7 0 (field w 7 0 + a / target)

/-- A generation has been reached: (GEN − g) mod 256 < 128 (R312). -/
def genReached (w : Word) (g : Nat) : Bool := decide ((field w 7 0 + 256 - g % 256) % 256 < 128)

end Sys2Proof.Machine
end

