-- ==== Sys2Proof/Machine/Tenure.lean ====
section
/-!
DEFINITION. Sys2Proof/Machine/Tenure.lean: the directories of tracked tensors (chapter 06), by grid cell: what a request
meets (Table 6.3), its way up through the core, kiln and package directories (R142 to R144), their leases (R145, R148) and
entries (R146), grants and releases (Table 6.4), implicit tenure of engines (R156) and the check of scalar accesses (Table 6.5).
-/

namespace Sys2Proof.Machine

open Sys2Proof

/-! The three directories (R142). A core's is numbered 8 + core, a kiln's by its kiln, the package's 1000. -/

/-- The highest directory that tracks a tensor (Table 6.1). -/
def TensorId.top : TensorId → Nat
  | .core c _ _ => 8 + c
  | .kiln k _ _ => k
  | .package _ _ | .mem _ _ _ _ _ | .seq _ _ => 1000

/-- The directories a core's request passes below the highest, its own first. -/
def TensorId.path (id : TensorId) (core : Nat) : List Nat :=
  match id with
  | .core _ _ _ => []
  | .kiln _ _ _ => [8 + core]
  | .package _ _ | .mem _ _ _ _ _ | .seq _ _ => [8 + core, kilnOf core]

/-- A tensor's directory; one never asked about is all IDLE. -/
def State.dir (s : State) (id : TensorId) : TensorDir := (s.coh.dirs.find? fun d => d.id = id).getD { id := id }

def TensorDir.cell (d : TensorDir) (k : Nat) : Cell := SMap.get {} d.cells k
def TensorDir.setCell (d : TensorDir) (k : Nat) (c : Cell) : TensorDir := { d with cells := SMap.set {} d.cells k c }
def TensorDir.modCell (d : TensorDir) (k : Nat) (f : Cell → Cell) : TensorDir := d.setCell k (f (d.cell k))
def TensorDir.modCells (d : TensorDir) (ks : List Nat) (f : Cell → Cell) : TensorDir := ks.foldl (fun d k => d.modCell k f) d

/-- Two cell lists overlap. -/
def overlaps (a b : List Nat) : Bool := a.any fun k => b.contains k

/-- The cell's WRITE is a task's own. -/
def Cell.mine (c : Cell) (task : Nat) : Bool :=
  c.state = .write && (match c.holder with | some h => h.task == task | none => false)

/-- A task's tenure spans an access's cells and suits it (R156): WRITE of all of them; for a read, live leases of all, or sealed copies
of all. -/
def TensorDir.covers (d : TensorDir) (cells : List Nat) (task now : Nat) (write : Bool) : Bool :=
  cells.all (fun k => (d.cell k).mine task) ||
  (!write && (cells.all (fun k => (d.cell k).readers.any fun r => r.1.task == task && decide (now < r.2)) ||
              cells.all fun k => (d.cell k).copies.any fun r => r.2.task == task))

/-- The cell stands in the way of a request (Table 6.3). A lease that has ended stands in no one's way (R148, R149). -/
def Cell.conflicts (c : Cell) (k : TenKind) (task now : Nat) : Bool :=
  match c.state, k with
  | .idle, _ => false
  | .read, .read => false
  | .read, .write => decide (now < c.expiry)
  | .read, .seal => decide (now < c.expiry)
  | .read, .unseal => false
  | .drain, .unseal => false
  | .drain, _ => decide (now < c.expiry)
  | .write, .unseal => false
  | .write, _ => !c.mine task
  | .sealed, .write => true
  | .sealed, _ => false
  | .unsealing, .unseal => false
  | .unsealing, _ => true

/-- A predictor after a lease: a renewal in state READ, made at or after the end of the asker's last lease, doubles it (R148). -/
def Cell.predict (c : Cell) (l now was : Nat) : Nat :=
  if c.state = .read && was ≠ 0 && decide (was ≤ now) then min (2 * l) 65536 else l

/-- A lease from the nearest of a list of directories whose own lease lives, and so on down (R142, R145): `was` is the end of the asker's
last lease. It ends no later than the lease above it. -/
def Cell.lend (now : Nat) : List Nat → Nat → Cell → Cell × Nat
  | [], was, c => ({ c with expiry := max c.expiry (now + c.lease), lease := c.predict c.lease now was }, now + c.lease)
  | n :: up, was, c =>
    let x := SMap.get {} c.below n
    let (c', b) := if now < x.expiry then (c, x.expiry) else Cell.lend now up x.expiry c
    ({ c' with below := SMap.set {} c'.below n { expiry := b, lease := c.predict x.lease now was } }, min (now + x.lease) b)

/-- A READ grant over a cell (R148, R152): a lease through the directories on the way; on a sealed cell, a copy, counted once per core;
under the task's own WRITE, nothing. A cell whose readers drain goes on draining. -/
def Cell.grantRead (c : Cell) (h : Option Holder) (core : Nat) (path : List Nat) (now : Nat) : Cell :=
  match c.state with
  | .write => c
  | .unsealing => c
  | .sealed =>
    match h with
    | some h => if c.copies.any (fun r => r.1 == core) then c else { c with copies := (core, h) :: c.copies }
    | none => c
  | .idle | .read | .drain =>
    let was := match h with | some h => ((c.readers.find? fun r => r.1 == h).map (·.2)).getD 0 | none => 0
    let (c', e) := Cell.lend now path was c
    { c' with state := if c.state = .drain && decide (now < c.expiry) then .drain else .read, holder := none,
              readers := match h with
                | some h => (h, e) :: c.readers.filter (fun r => r.1 ≠ h)
                | none => c.readers }

/-- A WRITE grant (Table 6.4): the holder is recorded and the predictors return to 256 (R150). -/
def Cell.grantWrite (c : Cell) (h : Option Holder) (core : Nat) : Cell :=
  if c.state = .write then c else { state := .write, holder := h, core := core }

/-- Sealing (R152): SEALED with no copies; cells already sealed do not change. -/
def Cell.seal (c : Cell) (h : Option Holder) : Cell :=
  if c.state = .sealed then c else { state := .sealed, sealer := h }

/-- An access's own write over a cell, taken and given back (R156, R161): the task's WRITE stays, any other cell is left IDLE. -/
def Cell.passWrite (c : Cell) : Cell := if c.state = .write then c else {}

/-- Giving up what a handle holds on a cell (R152, R323): a WRITE becomes IDLE, its lease and copies go, and its hold on
cells it sealed; an unsealing cell without copies becomes IDLE (R153). -/
def Cell.release (c : Cell) (h : Holder) : Cell :=
  let c := { c with readers := c.readers.filter (fun r => r.1 ≠ h), copies := c.copies.filter (fun r => r.2 ≠ h),
                    sealer := if c.sealer = some h then none else c.sealer }
  if c.state = .write && c.holder = some h then {}
  else if c.state = .unsealing && c.copies.isEmpty then {}
  else if c.state = .read && c.readers.isEmpty && c.expiry = 0 then {}
  else c

/-- HSPLIT over a cell (Table 13.5): the handle's WRITE becomes a READ lease of 256 cycles. -/
def Cell.split (c : Cell) (h : Holder) (path : List Nat) (now : Nat) : Cell :=
  if c.state = .write && c.holder = some h then Cell.grantRead {} (some h) 0 path now else c

/-- HUNSEAL over a cell (R153): no new copies are given; without any the cell is IDLE at once. A cell not SEALED stays as it is. -/
def Cell.unseal (c : Cell) : Cell :=
  if c.state = .sealed then (if c.copies.isEmpty then {} else { c with state := .unsealing }) else c

/-- A core gives back its copy of a sealed cell (R152). -/
def Cell.returned (c : Cell) (p : Nat × Holder → Bool) : Cell :=
  let c := { c with copies := c.copies.filter fun r => !p r }
  if c.state = .unsealing && c.copies.isEmpty then {} else c

/-- A handle's strongest tenure over a tensor: 3 SEALED, 2 WRITE, 1 READ, 0 none (Table 5.3). A handle that holds nothing but a sealed copy
shows 1 (log entry 59, DESIGN CHOICE). -/
def TensorDir.strongest (d : TensorDir) (h : Holder) (now : Nat) : Nat :=
  let cs := d.cells.map (·.2)
  if cs.any (fun c => (c.state = .sealed || c.state = .unsealing) && c.sealer = some h) then 3
  else if cs.any (fun c => c.state = .write && c.holder = some h) then 2
  else if cs.any (fun c => c.readers.any (fun r => r.1 = h && decide (now < r.2)) || c.copies.any (fun r => r.2 = h)) then 1
  else 0

/-! Requests on their way up (R143, R144, R157). -/

/-- A request that stands in a directory's queue: an unseal only waits for copies, a scalar read takes nothing. -/
def TenReq.ranked (r : TenReq) : Bool := r.kind ≠ .unseal && !r.plain

/-- Another request before one in a directory's queue, by a number of arrival there, over some of the same cells. -/
def TenReq.before (at_ : TenReq → Nat) (y x : TenReq) : Bool :=
  y.ranked && y.atCore ≠ x.atCore && at_ y ≠ 0 && (at_ x = 0 || decide (at_ y < at_ x)) && overlaps y.cells x.cells

/-- Another request of the same core, or kiln, over some of the same cells has an upward request outstanding from there. -/
def TenReq.outstanding (at_ : TenReq → Nat) (y x : TenReq) : Bool :=
  y.ranked && y.atCore ≠ x.atCore && at_ y ≠ 0 && overlaps y.cells x.cells

def sameCore (y x : TenReq) : Bool := y.core == x.core
def sameKiln (y x : TenReq) : Bool := kilnOf y.core == kilnOf x.core

/-- A cell that another task of the request's core, or kiln, holds under WRITE: the level holds the grant, and the request waits there
for the release (R144). -/
def TensorDir.heldNear (d : TensorDir) (near : Nat → Nat → Bool) (x : TenReq) : Bool :=
  x.cells.any fun k => let c := d.cell k; c.state = .write && !c.mine x.task && near c.core x.core

/-- Requests that stand at one directory, by their arrival `lo`, go up to the next, where `hi` numbers arrivals: the first of each
overlapping set, none while an upward request over its cells is outstanding or the level holds a grant of them (R143, R144). -/
def TensorDir.rise (d : TensorDir) (lo hi : TenReq → Nat) (put : TenReq → Nat → TenReq) (near : TenReq → TenReq → Bool)
    (held : TensorDir → TenReq → Bool) : TensorDir :=
  d.queue.foldl (fun d x =>
    if lo x ≠ 0 && hi x = 0 && !held d x && !(d.queue.any fun y => near y x && (y.before lo x || y.outstanding hi x)) then
      { d with clock := d.clock + 1, queue := d.queue.map fun y => if y.atCore = x.atCore then put y (d.clock + 1) else y }
    else d) d

/-- An unseal waits for the cells it asked for that are still UNSEALING; one that has become IDLE meanwhile is done, whatever becomes of it
next (R153). -/
def TensorDir.unsealed (d : TensorDir) : TensorDir :=
  let left := fun (r : TenReq) => if r.kind = .unseal then { r with cells := r.cells.filter fun k => (d.cell k).state = .unsealing } else r
  { d with queue := d.queue.map left }

/-- Every request that may go up does. -/
def TensorDir.settle (d : TensorDir) : TensorDir :=
  let d := d.unsealed
  let toTop := fun (r : TenReq) n => { r with atTop := n }
  match d.id with
  | .core _ _ _ => { d with queue := d.queue.map fun r => { r with atTop := r.atCore } }
  | .kiln _ _ _ => d.rise (·.atCore) (·.atTop) toTop sameCore fun d x => d.heldNear (· == ·) x
  | .package _ _ | .mem _ _ _ _ _ | .seq _ _ =>
    (d.rise (·.atCore) (·.atKiln) (fun r n => { r with atKiln := n }) sameCore fun d x => d.heldNear (· == ·) x).rise
      (·.atKiln) (·.atTop) toTop sameKiln fun d x => d.heldNear (fun a b => kilnOf a == kilnOf b) x

/-- Store a directory, its requests risen as far as they may; one with every cell idle and no request is not listed. -/
def State.setDir (s : State) (d : TensorDir) : State :=
  let rest := s.coh.dirs.filter fun x => x.id ≠ d.id
  { s with coh := { s.coh with dirs := if d.cells.isEmpty && d.queue.isEmpty then rest else rest ++ [d.settle] } }

/-- Leave the queue: a requester's requests of a kind over cells it no longer waits for. -/
def TensorDir.leave (d : TensorDir) (who : Nat) (kind : TenKind) (cells : List Nat) : TensorDir :=
  { d with queue := d.queue.filter fun r => !(r.who = who && r.kind = kind && r.cells.all cells.contains) }

/-- Join the queue at its tail, or keep one's place, a wait that the bound has ended beginning anew (R165); READ cells stop renewing for
a writer (R149). -/
def TensorDir.join (d : TensorDir) (r : TenReq) : TensorDir :=
  let same := fun (x : TenReq) => x.who = r.who && x.kind = r.kind && x.cells = r.cells
  let d := if d.queue.any same then
      { d with queue := d.queue.map fun x => if same x then
          { x with timedOut := false, since := if x.timedOut then r.since else x.since, etval := r.etval, elem := r.elem } else x }
    else { d with clock := d.clock + 1, queue := d.queue ++ [{ r with atCore := d.clock + 1 }] }
  let d := { d with cols := r.cols }
  match r.kind with
  | .write | .seal => d.modCells r.cells fun c => if c.state = .read then { c with state := .drain } else c
  | .read | .unseal => d

/-- A lease that an answer to a core's, or its kiln's, request has brought lives for a cell, in the highest directory or below (R143,
R148). -/
def TensorDir.leased (d : TensorDir) (core k now : Nat) : Bool :=
  let c := d.cell k
  (c.state = .read || c.state = .drain) &&
    (match d.id.path core with
     | [] => decide (now < c.expiry)
     | ns => ns.any fun n => decide (now < (SMap.get {} c.below n).expiry))

/-- A READ request that an answer to another has served, over the lease it brought (R143). -/
def TensorDir.answered (d : TensorDir) (r : TenReq) (now : Nat) : Bool :=
  r.served && r.kind = .read && r.cells.all fun k => d.leased r.core k now

/-- What Table 6.3 grants past every queue: cells the task holds under WRITE already, and sealed cells to read or to seal. -/
def TensorDir.granted (d : TensorDir) (r : TenReq) : Bool :=
  r.cells.all (fun k => (d.cell k).mine r.task) ||
  ((r.kind = .read || r.kind = .seal) && r.cells.all fun k => (d.cell k).state = .sealed)

/-- A request is granted when it has come to the highest directory, no cell conflicts, it overlaps no earlier request there (R157), and,
for a WRITE, no scalar read still waits for data released before it (R161); a READ, also when an answer to another has served it. -/
def TensorDir.grantable (d : TensorDir) (r : TenReq) (now : Nat) : Bool :=
  d.answered r now ||
  (!(r.cells.any fun k => (d.cell k).conflicts r.kind r.task now) &&
   (d.granted r || (r.atTop ≠ 0 && !(d.queue.any fun y => y.before (·.atTop) r) &&
     (r.kind = .read || !(d.queue.any fun y => y.plain && y.who ≠ r.who && overlaps y.cells r.cells)))))

/-- The answer to a READ request serves the readers that wait at its core and its kiln for cells within it (R143). -/
def TensorDir.serve (d : TensorDir) (r : TenReq) : TensorDir :=
  let within := fun (x y : TenReq) => x.kind = .read && !x.plain && x.cells.all y.cells.contains
  let behind := fun (at_ : TenReq → Nat) (near : TenReq → TenReq → Bool) (x : TenReq) =>
    d.queue.any fun y => near y x && y.kind ≠ .read && y.before at_ x
  let kin := if r.atKiln = 0 then [] else d.queue.filter fun x => sameKiln x r && x.atKiln ≠ 0 && within x r && !behind (·.atKiln) sameKiln x
  let answered := r :: kin
  let mark := fun (x : TenReq) => if kin.contains x ||
      (r.atTop ≠ r.atCore && answered.any (fun y => sameCore x y && within x y) && !behind (·.atCore) sameCore x)
    then { x with served := true } else x
  { d with queue := d.queue.map mark }

/-- The waiting readers that a change of some cells lets in take their leases in the same step, in the order of the queue (R323). -/
def TensorDir.letIn (d : TensorDir) (now : Nat) : TensorDir :=
  d.queue.foldl (fun d x =>
    if x.kind = .read && !x.plain && x.cells.all (fun k => (d.cell k).state = .read) && d.grantable x now then
      let g := d.modCells x.cells fun c => c.grantRead x.holder x.core (d.id.path x.core) now
      { g with queue := g.queue.map fun y => if y = x then { y with served := true } else y }
    else d) d

/-- Ask for tenure over cells: granted whole, with `f` applied to each cell, or the request waits in the queues. -/
def TensorDir.ask (d : TensorDir) (r : TenReq) (now : Nat) (f : Cell → Cell) : TensorDir × Bool :=
  let w := (d.join r).settle
  match w.queue.find? fun x => x.who = r.who && x.kind = r.kind && x.cells = r.cells with
  | none => (w, false)
  | some x =>
    if w.grantable x now then
      let g := (w.modCells r.cells f).leave r.who r.kind r.cells
      (if r.kind = .read then g.serve x else g, true)
    else (w, false)

/-! Directory entries (R146). An entry is a rectangle of cells of one tensor whose fields are equal, as far as cells join by rows (log
entry 10, DESIGN CHOICE: R158 leaves when pieces merge to the part). -/

/-- How many entries a directory has. -/
def dirCapacity (n : Nat) : Nat := if n = 1000 then 65536 else if n < 8 then 32768 else 1024

/-- A core stands below a directory. -/
def coreBelow (n core : Nat) : Bool := n = 1000 || n = kilnOf core || n = 8 + core

/-- A cell of a tensor takes part of an entry of directory n. -/
def Cell.entryIn (c : Cell) (id : TensorId) (n : Nat) : Bool :=
  n = id.top || (SMap.get {} c.below n).expiry ≠ 0 || (c.state = .write && coreBelow n c.core) || c.copies.any fun x => coreBelow n x.1

/-- Runs of cells with equal fields within one row band of the grid, `cols` cells wide: the first, the last, the fields. -/
def rowRuns (cols : Nat) : SMap Cell → List (Nat × Nat × Cell)
  | [] => []
  | (k, c) :: m =>
    match rowRuns cols m with
    | (a, b, x) :: rs => if a = k + 1 && a % cols ≠ 0 && x = c then (k, b, c) :: rs else (k, k, c) :: (a, b, x) :: rs
    | [] => [(k, k, c)]

/-- The runs that begin a rectangle: no run of the same columns and fields stands right above. -/
def topRuns (cols : Nat) (rs : List (Nat × Nat × Cell)) : List (Nat × Nat × Cell) :=
  rs.filter fun x => !rs.any fun y => y.1 + cols = x.1 && y.2.1 + cols = x.2.1 && y.2.2 = x.2.2

/-- The cells of the rectangle that begins with a run. -/
def rectOf (cols : Nat) (rs : List (Nat × Nat × Cell)) : Nat → Nat × Nat × Cell → List Nat
  | 0, _ => []
  | fuel + 1, x =>
    (List.range (x.2.1 + 1 - x.1)).map (x.1 + ·) ++
      (match rs.find? fun y => x.1 + cols = y.1 && x.2.1 + cols = y.2.1 && y.2.2 = x.2.2 with
       | some y => rectOf cols rs fuel y
       | none => [])

/-- A directory's entries of a tensor: rectangles of cells with equal fields (R146, R158), each with its cells and their fields. -/
def TensorDir.entries (d : TensorDir) (n : Nat) : List (List Nat × Cell) :=
  let rs := rowRuns d.cols (d.cells.filter fun x => x.2.entryIn d.id n)
  (topRuns d.cols rs).map fun x => (rectOf d.cols rs rs.length x, x.2.2)

/-- The entries a directory holds. -/
def dirEntries (s : State) (n : Nat) : Nat := s.coh.dirs.foldl (fun a d => a + (d.entries n).length) 0

/-- When a directory's hold of a cell ends, for one whose entry may be taken: IDLE at once, READ at its expiry. -/
def Cell.takenAt (c : Cell) (id : TensorId) (n : Nat) : Option Nat :=
  if n = id.top then
    match c.state with
    | .idle => some 0
    | .read | .drain => some c.expiry
    | .write | .sealed | .unsealing => none
  else if (SMap.get {} c.below n).expiry ≠ 0 then some (SMap.get {} c.below n).expiry else none

/-- A directory's entry of a cell is taken for another; or, its lease still living, it is renewed no more. -/
def Cell.take (c : Cell) (id : TensorId) (n now : Nat) : Cell :=
  if (c.takenAt id n).getD 0 ≤ now then (if n = id.top then {} else { c with below := SMap.set {} c.below n {} })
  else if n = id.top then { c with state := .drain } else c

/-- An entry of a directory is taken for a request: the IDLE one, or the READ one of earliest expiry, whole, once its lease has ended;
whether there now is one more (R146). -/
def takeDirEntry (s : State) (n : Nat) : State × Bool :=
  let all := s.coh.dirs.flatMap fun d => (d.entries n).filterMap fun x => (x.2.takenAt d.id n).map fun e => (d.id, x.1, e)
  match all with
  | [] => (s, false)
  | x :: xs =>
    let (id, ks, e) := xs.foldl (fun a b => if b.2.2 < a.2.2 then b else a) x
    (s.setDir ((s.dir id).modCells ks fun c => c.take id n s.now), decide (e ≤ s.now))

/-- The directory, of those a grant of a tensor's cells to a core passes through, whose entries the state after it outruns. -/
def overfull (s s' : State) (id : TensorId) (core : Nat) : Option Nat :=
  (id.path core ++ [id.top]).find? fun n => decide (dirCapacity n < dirEntries s' n) && decide (dirEntries s n < dirEntries s' n)

/-- Ask for tenure, with the entries its grant needs: whether it is granted. -/
def askWith (id : TensorId) (r : TenReq) (f : Cell → Cell) : Nat → State → State × Bool
  | 0, s => (s.setDir ((s.dir id).join r), false)
  | fuel + 1, s =>
    match (s.dir id).ask r s.now f with
    | (d, false) => (s.setDir d, false)
    | (d, true) =>
      match overfull s (s.setDir d) id r.core with
      | none => (s.setDir d, true)
      | some n =>
        match takeDirEntry s n with
        | (s, true) => askWith id r f fuel s
        | (s, false) => (s.setDir ((s.dir id).join r), false)

/-- Ask for tenure: a request takes as many entries as its rectangle's cut may need. -/
def State.ask (s : State) (id : TensorId) (r : TenReq) (f : Cell → Cell) : State × Bool := askWith id r f (5 * r.cells.length + 1) s

/-- What an access under implicit tenure, or a scalar access, meets (R155, R156, Table 6.5). -/
inductive Implicit where
  | go (s : State) | wait (s : State) | sealed

/-- Implicit tenure of an engine access over the cells it touches: a covering tenure of the task is used; a read takes
and gives back a lease, or a sealed copy; a write takes and gives back WRITE, or meets a SEALED cell. An access that reads and
writes the same cells asks for its WRITE with its reading done: it takes no second lease while that request waits. A read under a lease of the task
that has ended renews it (R148). -/
def State.implicit (s : State) (id : TensorId) (r : TenReq) (h : Holder) : Implicit :=
  let d := s.dir id
  let gone := s.setDir (d.leave r.who r.kind r.cells)
  let write := r.kind = .write
  if d.covers r.cells r.task s.now write then .go gone
  else if write && r.cells.any (fun k => (d.cell k).state = .sealed || (d.cell k).state = .unsealing) then .sealed
  else if !write && d.queue.any (fun x => x.who = r.who && x.kind = .write && overlaps x.cells r.cells) &&
      r.cells.all (fun k => !((d.cell k).state = .write || (d.cell k).state = .unsealing)) then .go gone
  else
    let (s', ok) := s.ask id r (if write then Cell.passWrite
       else fun c => if c.state = .sealed then c.grantRead (some h) r.core (id.path r.core) s.now
         else c.grantRead ((c.readers.find? fun x => x.1.task == r.task).map (·.1)) r.core (id.path r.core) s.now)
    if ok then .go s' else .wait s'

/-- What a scalar access to a tensor's cells does (Table 6.5). -/
def State.scalar (s : State) (id : TensorId) (r : TenReq) : Implicit :=
  let d := s.dir id
  let write := r.kind = .write
  if d.covers r.cells r.task s.now write then .go (s.setDir (d.leave r.who r.kind r.cells))
  else if write then
    if r.cells.any (fun k => (d.cell k).state = .sealed || (d.cell k).state = .unsealing) then .sealed
    else
      let (s', ok) := s.ask id r Cell.passWrite
      if ok then .go s' else .wait s'
  else if r.cells.any (fun k => (d.cell k).state = .write && !(d.cell k).mine r.task) then .wait (s.setDir (d.join { r with plain := true }))
  else .go (s.setDir (d.leave r.who .read r.cells))

/-- The requests of some requesters leave every queue. -/
def State.dropRequests (s : State) (p : TenReq → Bool) : State :=
  let gone := fun (d : TensorDir) => { d with queue := d.queue.filter fun r => !p r }.settle
  let kept := fun (d : TensorDir) => !(d.cells.isEmpty && d.queue.isEmpty)
  { s with coh := { s.coh with dirs := (s.coh.dirs.map gone).filter kept } }

/-- A requester leaves every queue (its task has ended, or its wait is over). -/
def State.leaveQueues (s : State) (who : Nat) : State := s.dropRequests fun r => r.who = who

/-- The element a queue entry's requests wait at (R165). -/
def State.noteElem (s : State) (who el : Nat) : State :=
  { s with coh := { s.coh with dirs := s.coh.dirs.map fun d =>
    { d with queue := d.queue.map fun r => if r.who = who then { r with elem := el } else r } } }

/-- A requester's requests become another's, their places kept (R165: those of a task that leaves its stoker while their fault is
served, and that comes back). -/
def State.renameRequests (s : State) (who new : Nat) : State :=
  { s with coh := { s.coh with dirs := s.coh.dirs.map fun d =>
    { d with queue := d.queue.map fun r => if r.who = who then { r with who := new } else r } } }

/-! Handles as tracked tensors (Table 6.1). -/

/-- The tile-table entry of handle h of a task: entry 64·w + h of its core (R106). -/
def entryIndex (win h : Nat) : Nat := 64 * win + h
def State.entry (s : State) (core idx : Nat) : HEntry := SMap.get {} (s.core core).tiles idx
def State.setEntry (s : State) (core idx : Nat) (e : HEntry) : State :=
  s.modCore core fun c => { c with tiles := SMap.set {} c.tiles idx e }

/-- A VD's block size in bytes (Table 20.9). -/
def blockBytes (s : State) (vd : Nat) : Nat :=
  match field (s.vd vd).cfg 24 23 with
  | 1 => 2 ^ 16 | 2 => 2 ^ 18 | _ => 2 ^ 14

/-- The tracked tensor an entry names: none for an untracked MEM tensor (R141). A SEQ tensor is its sequence and layer,
whose cells are numbered by the place of their first element (log entry 11, DEDUCED). -/
def tensorId (core vd asn : Nat) (e : HEntry) : Option TensorId :=
  let l := e.level
  if l = lvCore then some (.core core (e.locv % 512) (e.locv / 512 % 1024))
  else if l = lvKiln then some (.kiln (kilnOf core) (e.locv % 2 ^ 17) (e.locv / 2 ^ 17 % 2 ^ 17))
  else if l = lvPackage then some (.package (e.locv % 2 ^ 17) (e.locv / 2 ^ 17 % 2 ^ 17))
  else if l = lvMem then (if e.tracked then some (.mem vd asn (e.locv * 128) (e.shape &&& 0xFFFFFFFFFFFFFF00) e.fmt0) else none)
  else some (.seq vd (e.locv / 2 ^ 16))

/-- A directory's numbers for grid cells of the entry. Handles of one sequence may cut its blocks into unlike cells, so a cell counts there
by the 32-byte pieces it holds of the tensor's rows (R138; log entry 11, DEDUCED). -/
def cellKeys (s : State) (vd : Nat) (e : HEntry) (cells : List Nat) : List Nat :=
  if e.level = lvSeq then
    let nb := e.shp.p0 / 64
    let base := nameBlock e.locv * blockBytes s vd / 32
    cells.flatMap fun k => ((List.range 4).filter fun j => decide (k / nb * 4 + j < e.shp.rows)).flatMap fun j =>
      let first := ((k / nb * 4 + j) * e.shp.p0 + k % nb * 64) * e.width / 256
      (List.range (e.width / 4)).map fun i => base + first + i
  else cells

/-- The columns of a directory's grid as a handle's requests number its cells. -/
def gridCols (e : HEntry) : Nat := if e.level = lvSeq then e.shp.p0 * e.width / 256 else e.shp.p0 / 64

/-- The TEN of an entry as its handle's tenures have it (R147, R323); that of an untracked tensor's is what its instructions left (R141). -/
def tenNow (s : State) (core vd asn : Nat) (e : HEntry) (h : Holder) : HEntry :=
  match tensorId core vd asn e with
  | none => e
  | some id => e.setTen ((s.dir id).strongest h s.now)

/-- Renew the TEN field of an entry from what its handle still holds (R323). -/
def refreshTen (s : State) (core idx vd asn : Nat) (h : Holder) : State :=
  match tensorId core vd asn (s.entry core idx) with
  | none => s
  | some _ => s.setEntry core idx (tenNow s core vd asn (s.entry core idx) h)

end Sys2Proof.Machine
end

