-- ==== Sys2Proof/Machine/Hbm.lean ====
section
/-!
DEFINITION. Sys2Proof/Machine/Hbm.lean: where a physical address lies (Table 2.10), whose key a line stands under (Table 7.3), a line's
bytes and tag at its home, the errors beneath the tag (R176 to R180, R192), the counters and their tree (R188 to R191), the copies on
the die that a switch takes with it (R171), and a write landing at a line's home.
-/

namespace Sys2Proof.Machine

open Sys2Proof

/-- Regions of the internal physical space: HBM, its metadata carve-out (R173), the kiln stores, another module's HBM,
host windows, and, above the 52 bits of HPA, the scratchpads (log entry 9, DESIGN CHOICE). -/
inductive Region where
  | hbm | carveOut | kilnStore (kiln : Nat) | peer (m : Nat) (off : Nat) | host (port : Nat) | scratch (core : Nat) | none
  deriving DecidableEq, Repr

/-- The region of an address (Table 2.10). -/
def region (a : Nat) : Region :=
  if a < 0xBC80000000 then .hbm
  else if a < 0xC000000000 then .carveOut
  else if 0x10000000000 ≤ a ∧ a < 0x10000000000 + 8 * 0x20000000 then
    if (a - 0x10000000000) % 0x20000000 < 464 * 2 ^ 20 then .kilnStore ((a - 0x10000000000) / 0x20000000) else .none
  else if 0x4000000000000 ≤ a ∧ a < 0x4000000000000 + 64 * 2 ^ 40 then
    if (a - 0x4000000000000) % 2 ^ 40 < 0xBC80000000 then
      .peer ((a - 0x4000000000000) / 2 ^ 40) ((a - 0x4000000000000) % 2 ^ 40) else .none
  else if 2 ^ 51 ≤ a ∧ a < 2 ^ 52 then .host (a / 2 ^ 50 % 2)
  else if 2 ^ 52 ≤ a ∧ a < 2 ^ 52 + 192 * 2 ^ 21 then .scratch ((a - 2 ^ 52) / 2 ^ 21)
  else .none

/-- An address of the Bagon range that names this module reaches its own HBM (Table 2.10). -/
def normalise (s : State) (a : Nat) : Nat :=
  match region a with
  | .peer m off => if m = s.pkg.module then off else a
  | _ => a

/-- The first byte of a core's scratchpad, of a kiln's store. -/
def scratchBase (core : Nat) : Nat := 2 ^ 52 + core * 2 ^ 21
def kilnBase (k : Nat) : Nat := 0x10000000000 + k * 0x20000000

/-- The sequence-store backing region holds an address (R41, Table 20.10). -/
def inSqRange (s : State) (a : Nat) : Bool :=
  let g := a / 2 ^ 21
  decide (field s.pkg.sqrange 18 0 ≤ g) && decide (g < field s.pkg.sqrange 18 0 + field s.pkg.sqrange 63 32) &&
    region a == .hbm

/-! Keys (R181 to R183). -/

/-- The key a VD's slot holds; an unbound slot holds none. -/
def slotKey (s : State) (vd slot : Nat) : Option KeyId :=
  if slot = 0 then some (.own vd (s.vd vd).keyGen) else SMap.get none (s.vd vd).slots slot

/-- The key of a granule's owner, at the generation its lines stand under, and of its window. -/
def ownerKey (g : Granule) : KeyId := .own g.owner g.gen
def windowKey (s : State) (w : Nat) : KeyId := .window w (s.window w).gen

/-- A line's current key, and, while a re-key job covers its granule, the job's other key (R183). -/
def lineKeys (s : State) (line : Nat) : KeyId × Option KeyId :=
  let g := s.granule (line / 16384)
  let wkey := windowKey s g.win
  if g.rk then
    let moved := decide (line % 16384 < g.prog)
    if g.rdir = moved then (ownerKey g, some wkey) else (wkey, some (ownerKey g))
  else (if g.wk then wkey else ownerKey g, none)

/-- The outcome of the key check (Table 7.3). -/
inductive KeyCheck where
  | current | covered | foreign
  deriving DecidableEq, Repr

/-- The key check of an access to HBM under a key; other memory is under no key (R181). -/
def keyCheck (s : State) (key : Option KeyId) (line : Nat) : KeyCheck :=
  if region (line * 128) = .hbm then
    let (cur, other) := lineKeys s line
    if key = some cur then .current else if key.isSome && key = other then .covered else .foreign
  else .current

/-- The tag word of a host line in the shadow tag region of its port (R468); none beyond the limit, or beyond the port's window. -/
def shadowTagAddr (s : State) (line : Nat) : Option Nat :=
  let a := line * 128
  let port := a / 2 ^ 50 % 2
  let x := a % 2 ^ 50
  let base := if port = 0 then s.pkg.shtbase0 else s.pkg.shtbase1
  let lim := if port = 0 then s.pkg.shtlim0 else s.pkg.shtlim1
  let off := field base 49 12 * 4096 + 4 * (x / 128)
  if bit base 0 && decide (x < field lim 49 7 * 128) && decide (off < 2 ^ 50) then some (2 ^ 51 + port * 2 ^ 50 + off)
  else none

/-- An HBM line stands on its stack's poison list (R177). -/
def onPoison (s : State) (line : Nat) : Bool := decide (region (line * 128) = .hbm) && s.hbm.poison.contains line

/-- The tag of a line as it stands at its home: host lines through the shadow tag region (R468), a line on a poison list
as POISON (R177), any other line beside its data; the carve-out's lines are plain bytes (log entry 16, DESIGN CHOICE). -/
def homeTag (s : State) (line : Nat) : Tag :=
  match region (line * 128) with
  | .host _ =>
    match shadowTagAddr s line with
    | none => mkTag 0 vcValid 127
    | some a => readTag (wordOfBytes (s.bytes a 3))
  | .carveOut => mkTag 0 vcValid 127
  | _ =>
    if onPoison s line then
      let t := s.tag line
      mkTag (tagFmt t) vcPoison (tagLxp t)
    else s.tag line

/-- Write a line's tag at its home, reserved bits zero (R59, R184: VC FOREIGN is stored as POISON). -/
def setHomeTag (s : State) (line : Nat) (t : Tag) : State :=
  let t := mkTag (tagFmt t) (if tagVc t = vcForeign then vcPoison else tagVc t) (tagLxp t)
  match region (line * 128) with
  | .host _ =>
    match shadowTagAddr s line with
    | none => s
    | some a => s.setBytes a (bytesOfNat 3 t.toNat)
  | _ => s.setTag line t

/-! A line at its home. -/

/-- The mask of bytes off to off + n − 1. -/
def byteMask (off n : Nat) : BitVec 128 := BitVec.ofNat 128 ((2 ^ n - 1) * 2 ^ off)

/-- Bits of data under a byte mask. -/
def maskBits128 (m : BitVec 128) : BitVec 1024 :=
  BitVec.ofNat 1024 ((List.range 128).foldl (fun a j => if m.getLsbD j then a + 255 * 2 ^ (8 * j) else a) 0)

/-- old with the masked bytes of new. -/
def mergeBytes (old new : BitVec 1024) (m : BitVec 128) : BitVec 1024 :=
  let b := maskBits128 m
  (old &&& ~~~b) ||| (new &&& b)
/-- Write the masked bytes of a line to memory. -/
def State.storeMasked (s : State) (line : Nat) (data : BitVec 1024) (m : BitVec 128) : State :=
  (List.range 128).foldl (fun s j => if m.getLsbD j then s.setByte (line * 128 + j) (data.extractLsb' (8 * j) 8) else s) s

/-! Counters and their tree (R188 to R191). -/

/-- One write of a line in a page's minor counters (R189): a rollover past 127 clears them; whether it happened. -/
def bumpMinor (m : SMap Nat) (line : Nat) : SMap Nat × Bool :=
  let c := SMap.get 0 m line
  if c < 127 then (SMap.set 0 m line (c + 1), false) else (m.filter fun x => x.1 / 32 ≠ line / 32, true)

/-- The key of a counter of a tree node: node j of granule g's record (Table 7.5), slot k. -/
def treeKey (g j k : Nat) : Nat := (g * 73 + j) * 8 + k

/-- A page's counter block has been written to HBM n times, and with it each node above it: their counters, of 56 bits, and the
granule's root rise (R190, R191). Every write goes through to HBM (log entry 16, DESIGN CHOICE). -/
def treeUp (s : State) (page n : Nat) : State :=
  let g := page / 512
  let p := page % 512
  let up := fun (m : SMap Nat) (k : Nat) => SMap.set 0 m k ((SMap.get 0 m k + n) % 2 ^ 56)
  let x := s.granule g
  let s := { s with hbm := { s.hbm with
    tree := up (up (up s.hbm.tree (treeKey g (9 + p / 8) (p % 8))) (treeKey g (1 + p / 64) (p / 8 % 8))) (treeKey g 0 (p / 64)) } }
  s.setGranule g { x with root := x.root + BitVec.ofNat 64 n }

/-- The counters of an HBM line advance (R189): past 127 the page rolls over. -/
def bumpCounters (s : State) (line : Nat) : State :=
  if region (line * 128) = .hbm then
    let page := line / 32
    let (m, rolled) := bumpMinor s.hbm.minor line
    treeUp { s with hbm := { s.hbm with
      minor := m, major := if rolled then SMap.set 0 s.hbm.major page (SMap.get 0 s.hbm.major page + 1) else s.hbm.major } } page 1
  else s

/-- The MAC field of a 64-byte record of the carve-out: under a key the part never releases (R190), so its value is free. -/
def recordMac (s : State) (unit parent : Nat) : Nat := (Config.treeMac unit parent s.ticks).toNat

/-- A counter block (Table 7.4), as a number. -/
def counterBlock (s : State) (page : Nat) : Nat :=
  let minors := (List.range 32).foldl (fun a i => a + SMap.get 0 s.hbm.minor (32 * page + i) * 2 ^ (7 * i)) 0
  SMap.get 0 s.hbm.major page % 2 ^ 64 + minors * 2 ^ 64 +
    recordMac s page (SMap.get 0 s.hbm.tree (treeKey (page / 512) (9 + page % 512 / 8) (page % 8))) * 2 ^ 288

/-- The counter of node j of a granule's record in its parent; that of the level-3 node is the root. -/
def nodeParent (s : State) (g j : Nat) : Nat :=
  if j = 0 then (s.granule g).root.toNat
  else if j < 9 then SMap.get 0 s.hbm.tree (treeKey g 0 (j - 1))
  else SMap.get 0 s.hbm.tree (treeKey g (1 + (j - 9) / 8) ((j - 9) % 8))

/-- A tree node (R190), as a number. -/
def treeNode (s : State) (g j : Nat) : Nat :=
  (List.range 8).foldl (fun a k => a + SMap.get 0 s.hbm.tree (treeKey g j k) * 2 ^ (56 * k)) 0 +
    recordMac s (2 ^ 28 + g * 73 + j) (nodeParent s g j) * 2 ^ 448

/-- A 64-byte unit of the carve-out, numbered from its start: counter blocks, then from 0xBF_8000_0000 the granules' records. -/
def carveUnit (s : State) (u : Nat) : Nat :=
  if u < 0x300000000 / 64 then counterBlock s u
  else
    let n := u - 0x300000000 / 64
    if n / 73 < 386048 then treeNode s (n / 73) (n % 73) else 0

/-- A line of the carve-out. -/
def carveLine (s : State) (line : Nat) : BitVec 1024 :=
  let u := (line - 0xBC80000000 / 128) * 2
  BitVec.ofNat 1024 (carveUnit s u + carveUnit s (u + 1) * 2 ^ 512)

/-- A line's bytes: byte j is bits 8j and up. A marked line, or one on a poison list, reads as zero (R177, R179); the carve-out holds the
counters. -/
def lineData (s : State) (line : Nat) : BitVec 1024 :=
  if region (line * 128) = .carveOut then carveLine s line
  else if SMap.get false s.hbm.marked line || onPoison s line then 0
  else BitVec.ofNat 1024 (wordOfBytes (s.bytes (line * 128) 128))

/-! Errors of an HBM line (R176 to R180, R192). -/

/-- The stack of an HBM line (R172). -/
def stackOf (line : Nat) : Nat := (line % 16) ^^^ (line / 2 ^ 14 % 16)

/-- What an HBM read meets beneath the tag: nothing, transfers repeated in silence, a correction, a fault, or an uncorrectable line to
be marked. -/
inductive LineHealth where
  | good | retried | corrected | mark | fault (c : Cause)
  deriving DecidableEq, Repr

/-- The layers of Table 7.1 in their order. Neither the code nor the MAC of a line marked already, or on a poison list, is checked
(R177, R179). -/
def health (s : State) (line : Nat) : LineHealth :=
  if region (line * 128) = .hbm then
    if s.hbm.failed.contains (stackOf line) then .fault .crcExhausted
    else
      let unread := SMap.get false s.hbm.marked line || onPoison s line
      match SMap.get none s.hbm.errors line with
      | none => .good
      | some (.crc n) => if n > 8 then .fault .crcExhausted else .retried
      | some (.symbols n) => if unread then .good else if n ≤ 2 then .corrected else .mark
      | some .mac => if unread then .good else .fault .integrity
      | some .tree => if unread then .good else .fault .integrity
  else .good

/-- A line's error has been dealt with. -/
def clearError (s : State) (line : Nat) : State := { s with hbm := { s.hbm with errors := SMap.set none s.hbm.errors line none } }

/-- A line marked POISON in place: its data reads as zero from then on (R179). -/
def markLine (s : State) (line : Nat) : State :=
  let t := s.tag line
  let s := clearError (s.setTag line (mkTag (tagFmt t) vcPoison (tagLxp t))) line
  { s with hbm := { s.hbm with marked := SMap.set false s.hbm.marked line true } }

/-- A corrected line is counted and written back good (R178). -/
def correctLine (s : State) (line : Nat) : State :=
  let s := clearError s line
  { s with hbm := { s.hbm with correctable := SMap.set 0 s.hbm.correctable (stackOf line)
                                 (SMap.get 0 s.hbm.correctable (stackOf line) + 1) } }

/-- An event of a line that the physical function's log records with its address (R177, R178, R192): 2 a line marked, 5 a failed MAC, 6 an
exhausted transfer; the last two interrupt it. -/
def logLine (s : State) (what line : Nat) : State :=
  let s := s.send (.pfLog what (BitVec.ofNat 64 (line * 128)))
  if what = 2 then s else s.send .pfInterrupt

/-- A read meets the error layers: what they leave, and the cause it ends in if any. An exhausted read's transfer is over. -/
def meetErrors (s : State) (line : Nat) : State × Option Cause :=
  match health s line with
  | .good => (s, none)
  | .retried => (clearError s line, none)
  | .corrected => (correctLine s line, none)
  | .mark => (logLine (markLine s line) 2 line, none)
  | .fault .integrity => (logLine s 5 line, some .integrity)
  | .fault c => (logLine (clearError s line) 6 line, some c)

/-- The poison list with one more line; at 256 lines of a stack its list is full, and the stack enters FAILED (R177; log entry 53,
DEDUCED: as soon as it is full). -/
def Hbm.list (h : Hbm) (line : Nat) : Hbm :=
  if h.poison.contains line then h
  else
    let p := line :: h.poison
    { h with poison := p, failed := if (p.filter fun l => stackOf l = stackOf line).length < 256 then h.failed else stackOf line :: h.failed }

/-- A write meets the transfer layer, and its counters' path (R177, R191): whether it is performed. An exhausted one puts its line on its
stack's poison list. -/
def meetWrite (s : State) (line : Nat) : State × Bool :=
  if region (line * 128) = .hbm then
    if s.hbm.failed.contains (stackOf line) then (logLine s 6 line, false)
    else match SMap.get none s.hbm.errors line with
      | some (.crc n) =>
        if n ≤ 8 then (clearError s line, true)
        else
          let s := logLine (clearError s line) 6 line
          ({ s with hbm := s.hbm.list line }, false)
      | some .tree => (logLine s 5 line, false)
      | some .mac => (s, true)
      | some (.symbols _) => (s, true)
      | none => (s, true)
  else (s, true)

/-! Watches (R250). -/

/-- Every watch, a stream's, a suspended task's or a saved stream's, as f has it, by the core whose copies it follows and its VD. -/
def mapMonitors (s : State) (f : Nat → Nat → Monitor → Monitor) : State :=
  { s with ctxs := s.ctxs.map fun x => (x.1, { x.2 with monitor := x.2.monitor.map (f (coreOf x.1) x.2.vd) }),
           tasks := s.tasks.map fun x => (x.1, x.2.map fun t =>
             { t with monitor := t.monitor.map (f t.core t.vd),
                      saved := t.saved.map fun y => (y.1, { y.2 with monitor := y.2.monitor.map (f t.core t.vd) }) }) }

/-- A write reaches a line: the watches on it fire. -/
def fireMonitors (s : State) (line : Nat) : State :=
  mapMonitors s fun _ _ m => if m.line = line then { m with fired := true } else m

/-- A window write is retained: it has reached its own party's watches alone (R194, R303). -/
def fireOwnMonitors (s : State) (vd line : Nat) : State :=
  mapMonitors s fun _ v m => if v = vd ∧ m.line = line then { m with fired := true } else m

/-- The sectors that p selects, by sector and core, leave their caches: the watches of those cores' streams on their lines fire. -/
def dropSectors (s : State) (p : Nat → Bool) : State :=
  let gone := s.coh.sectors.filter fun x => p x.1
  let s := mapMonitors s fun core _ m => if gone.any fun x => x.1 % 256 = core && x.1 / 1024 = m.line then { m with fired := true } else m
  { s with coh := { s.coh with sectors := s.coh.sectors.filter fun x => !p x.1 } }

/-! Copies on the die. -/

/-- Every copy of the lines that p selects is gone from the die (R171, R182, R193): kilns' own copies, the caches' sectors; with `fetch`, fetch
agents' lines too. -/
def dropLines (s : State) (p : Nat → Bool) (fetch : Bool) : State :=
  let agent := fun (c : Ctx) => if fetch then { c with fetched := c.fetched.filter fun f => !p f.line } else c
  let s := dropSectors s fun k => p (k / 1024)
  { s with ctxs := s.ctxs.map (fun x => (x.1, agent x.2)),
           coh := { s.coh with resident := s.coh.resident.map (fun r => { r with copies := r.copies.filter fun x => !p x.1 }),
                               writebacks := s.coh.writebacks.filter fun k => !p (k / 1024) } }

/-- What lines held before a LAYER beat is forgotten: another write has reached them, or their storage has changed hands (R220). -/
def forgetLayer (s : State) (p : Nat → Bool) : State := { s with coh := { s.coh with layer := s.coh.layer.filter fun l => !p l.line } }

/-! Writing a line at its home. -/

/-- A write that leaves a marked line another class than POISON writes all of it: what it does not cover reads as zero (R179). -/
def unmarks (s : State) (line : Nat) (t : Tag) : Bool :=
  SMap.get false s.hbm.marked line && !onPoison s line && !vcPoisoned (tagVc t)

/-- A write lands at a line's home: its bytes under the mask, its tag; a whole line clears its errors and marks (R177, R179). A write
whose transfer is exhausted is not performed, and none reaches the carve-out. -/
def landHome (s : State) (line : Nat) (data : BitVec 1024) (m : BitVec 128) (t : Tag) : State :=
  if region (line * 128) = .carveOut then s
  else match meetWrite s line with
    | (s, false) => s
    | (s, true) =>
      let (data, m) := if unmarks s line t then (mergeBytes 0 data m, BitVec.allOnes 128) else (data, m)
      let s := setHomeTag (s.storeMasked line data m) line t
      let s := if m = BitVec.allOnes 128 then
          { s with hbm := { s.hbm with marked := SMap.set false s.hbm.marked line false,
                                       poison := s.hbm.poison.filter (fun l => l ≠ line),
                                       errors := SMap.set none s.hbm.errors line none } } else s
      forgetLayer (fireMonitors (bumpCounters s line) line) fun l => l = line

/-- A write of a line would be performed at its home (R127, R177). -/
def lands (s : State) (line : Nat) : Bool := region (line * 128) ≠ .carveOut && (meetWrite s line).2

/-- A line's tag changes in place, its data as it stands (a switch of its class, PUBLISH): a write of the line all the same. -/
def landTag (s : State) (line : Nat) (t : Tag) : State := landHome s line 0 0 t

end Sys2Proof.Machine
end

