-- ==== Sys2Proof/Machine/Translate.lean ====
section
/-!
DEFINITION. Sys2Proof/Machine/Translate.lean: the two-stage walk with its faults in the order of Table 2.12, and the TLBs (R28 to R51).
-/

namespace Sys2Proof.Machine

open Sys2Proof

/-! Stage 2 (R37 to R40). -/

/-- How a walk ends short of an address: a fault, held or precise; a page request (kind 0 stage-2 miss, 1 stage-2
permission, 2 host page); or a wait on a table line (Table 2.13). -/
inductive WalkStop where
  | fault (c : Cause) (held : Bool)
  | request (kind page : Nat) (rights : BitVec 3)
  | wait (h : HoldKind)
  deriving DecidableEq, Repr

/-- What a walk does: it reads tables, which the error layers may correct or mark on the way, and ends in a value or short of one. -/
abbrev Walk (α : Type) := ExceptT WalkStop (StateM State) α

/-- What a walk answers, and the state it leaves. -/
def Walk.on {α : Type} (w : Walk α) (s : State) : Except WalkStop α × State := w.run s

/-- A page of host memory that the host does not hold present must be asked for (Table 2.12, order 9). -/
def hostPage (s : State) (h : Nat) (r : BitVec 3) : Except WalkStop Unit :=
  match region h with
  | .host _ => if SMap.get false s.pkg.hostAbsent (h / 4096) then .error (.request 2 (h / 4096) r) else .ok ()
  | _ => .ok ()

/-- What the walker reads of a table entry (Table 2.13), under a key. A host line whose shadow tag holds VC = 6, a class the part never
stores (R184), is met as POISON (log entry 54, DESIGN CHOICE). -/
def tableRead (key : Option KeyId) (a : Nat) : Walk Word := do
  let line := a / 128
  let s ← get
  hostPage s a 1
  let (s, c) := meetErrors s line
  set s
  match c with
  | some c => throw (.fault c false)
  | none =>
    let vc := tagVc (homeTag s line)
    if vc = vcRecode then throw (.wait (.recode line))
    match keyCheck s key line with
    | .covered => throw (.wait (.foreign line key))
    | .foreign => throw (.fault .foreignLine false)
    | .current =>
      if vc = vcValid then pure (BitVec.ofNat 64 (wordOfBytes (s.bytes a 8)))
      else if vc = vcZero || vc = vcUndef then pure 0
      else throw (.fault .poisonConsumed false)

/-- The module numbered m is reached with feature POD (Table 20.5). -/
def hasPod (s : State) (vd : Nat) : Bool := (s.vd vd).featacc.getLsbD 4 && (s.vd vd).lock

/-- An address of the Bagon range needs POD, the module's own number too (R40). -/
def podOk (s : State) (vd h : Nat) : Bool := match region h with | .peer _ _ => hasPod s vd | _ => true

/-- The page size of a leaf: level 0 4 KiB, 1 2 MiB, 2 1 GiB, times the run of its CONT code; none for a CONT code the
level does not take (Table 2.7). -/
def pageSize (level cont : Nat) : Option Nat :=
  match level, cont with
  | 0, 0 => some (2 ^ 12) | 0, 1 => some (2 ^ 14) | 0, 2 => some (2 ^ 16) | 0, 3 => some (2 ^ 18)
  | 1, 0 => some (2 ^ 21) | 1, 1 => some (2 ^ 23) | 1, 2 => some (2 ^ 25) | 1, 4 => some (2 ^ 29)
  | 2, 0 => some (2 ^ 30) | 2, 2 => some (2 ^ 34)
  | _, _ => none

/-- A stage-2 leaf as a walk found it: the run's guest base and size, the host-physical base, and its rights. -/
structure S2Leaf where
  base : Nat
  size : Nat
  hpa : Nat
  r : Bool
  w : Bool
  x : Bool
  deriving DecidableEq, Repr

/-- An entry of a VD's stage-2 tables, by its host-physical address, under the physical function's key; an address of the Bagon range as
any access takes it, one outside the module's ranges or in the carve-out as a stage-2 miss (R38, R40, R173). -/
def s2Entry (vd gpa a : Nat) : Walk Word := do
  let s ← get
  if !podOk s vd a then throw (.fault .translation true)
  match region (normalise s a) with
  | .none | .carveOut | .scratch _ => throw (.request 0 (gpa / 4096) 0)
  | .hbm | .kilnStore _ | .peer _ _ | .host _ => tableRead (slotKey s 64 0) (normalise s a)

/-- The stage-2 walk of a guest-physical address: table pages at HPA `table`, from `level` down (Tables 2.8, 2.9). -/
def s2Walk (vd gpa table : Nat) : Nat → Walk S2Leaf
  | 0 => throw (.request 0 (gpa / 4096) 0)
  | level + 1 => do
    let idx := if level + 1 = 4 then gpa / 2 ^ 48 % 16 else gpa / 2 ^ (12 + 9 * (level + 1)) % 512
    let e ← s2Entry vd gpa (table + 8 * idx)
    if !bit e 0 then throw (.request 0 (gpa / 4096) 0)
    if !bit e 1 && !bit e 2 && !bit e 3 then
      if level = 0 then throw (.request 0 (gpa / 4096) 0) else s2Walk vd gpa (field e 51 12 * 4096) level
    else if level + 1 > 2 then throw (.request 0 (gpa / 4096) 0)
    else match pageSize (level + 1) (field e 11 9) with
      | none => throw (.request 0 (gpa / 4096) 0)
      | some size =>
        let oa := field e 51 12 * 4096
        if oa % size ≠ 0 then throw (.request 0 (gpa / 4096) 0)
        else pure { base := gpa / size * size, size := size, hpa := oa, r := bit e 1, w := bit e 2, x := bit e 3 }

/-- The rights an access kind needs, as bits X, W, R (Table 2.11). -/
def rights : Access → BitVec 3
  | .load => 1 | .store => 2 | .atomic => 3 | .fetch => 4

/-- A leaf's rights cover an access's. -/
def grants (x w r : Bool) (a : Access) : Bool :=
  match a with
  | .load => r | .store => w | .atomic => r && w | .fetch => x

/-- Translate a guest-physical address for an access: the leaf and the host-physical address. Addresses outside the
module's ranges and the carve-out fail as a stage-2 miss (R40, R173). -/
def stage2 (vd gpa : Nat) (a : Access) : Walk (S2Leaf × Nat) := do
  let root := ((← get).vd vd).s2root
  if !bit root 0 then throw (.request 0 (gpa / 4096) (rights a))
  let l ← tryCatch (s2Walk vd gpa (field root 51 12 * 4096) 4) fun e => throw (match e with | .request 0 p _ => .request 0 p (rights a) | e => e)
  if !grants l.x l.w l.r a then throw (.request 1 (gpa / 4096) (rights a))
  let h := l.hpa + (gpa - l.base)
  match region h with
  | .none | .carveOut | .scratch _ => throw (.request 0 (gpa / 4096) (rights a))
  | .hbm | .kilnStore _ | .peer _ _ | .host _ => pure (l, h)

/-- Where a guest-physical address of the part's own accesses lies, and the state its walk leaves. -/
def guestPlace (s : State) (vd gpa : Nat) (a : Access) : Except WalkStop Nat × State :=
  ((do let (_, h) ← stage2 vd gpa a
       if podOk (← get) vd h then pure (normalise (← get) h) else throw (.fault .translation true) : Walk Nat)).on s

/-- Read a stage-1 table word or ASN-table entry at a guest-physical address (R39). -/
def guestRead (vd gpa : Nat) : Walk (Word × Nat) := do
  let (_, h) ← stage2 vd gpa .load
  let s ← get
  if !podOk s vd h then throw (.fault .translation true)
  let w ← tableRead (slotKey s vd 0) (normalise s h)
  pure (w, normalise s h)

/-- A stage-1 leaf as a walk found it: its word, where it lies, the page's base and size. -/
structure S1Leaf where
  word : Word
  addr : Nat
  base : Nat
  size : Nat
  deriving DecidableEq, Repr

/-- The stage-1 walk: table pages by guest-physical address, from `level` down (Tables 2.5, 2.6; R31 to R34). -/
def s1Walk (vd va table : Nat) : Nat → Walk S1Leaf
  | 0 => throw (.fault .translation true)
  | level + 1 => do
    let idx := if level = 4 then va / 2 ^ 48 % 256 else va / 2 ^ (12 + 9 * level) % 512
    let (e, h) ← guestRead vd (table + 8 * idx)
    if !bit e 0 then throw (.fault .translation true)
    if !bit e 1 && !bit e 2 && !bit e 3 then s1Walk vd va (field e 51 12 * 4096) level
    else if level > 2 then throw (.fault .translation true)
    else match pageSize level (field e 11 9) with
      | none => throw (.fault .translation true)
      | some size =>
        if field e 54 53 = 3 || field e 51 12 * 4096 % size ≠ 0 || (bit e 2 && !bit e 1) then throw (.fault .translation true)
        else if bit e 2 && bit e 3 then throw (.fault .wxViolation true)
        else pure { word := e, addr := h, base := va / size * size, size := size }

/-- The U check (R45): U mode needs U; S mode may read and write U pages and fetches only from pages without U. An agent
of the part (none) is not subject to it (R232, R448). -/
def uOk (mode : Option Mode) (u : Bool) (a : Access) : Bool :=
  match mode with
  | some .u => u
  | some .s => !(u && a = .fetch)
  | _ => true

/-- The attributes of a leaf pair (Tables 2.6, 2.9). -/
def leafAttrs (e : Word) (l : S2Leaf) : Attrs :=
  { key := field e 63 58, tagpol := field e 57 55, grain := field e 54 53, trk := bit e 52, strict := bit e 8,
    u := bit e 4, x := bit e 3, w := bit e 2, r := bit e 1, s2x := l.x, s2w := l.w, s2r := l.r, dirty := bit e 7 }

/-- A leaf's word but for A and D, by which hardware knows the entry again (R36). -/
def leafKey (w : Word) : Word := w &&& 0xFFFFFFFFFFFFFF3F

/-- Orders 8 and 9 of Table 2.12 on the address that stage 2 yields: kiln stores and the sequence store (R44), feature POD, a page
absent from the host. -/
def outputCheck (s : State) (vd h : Nat) (a : Access) : Except WalkStop Unit :=
  let n := normalise s h
  match region n with
  | .kilnStore _ => .error (.fault .translation true)
  | _ => if !podOk s vd h || inSqRange s n then .error (.fault .translation true) else hostPage s n (rights a)

/-- The whole walk of an access in the order of Table 2.12: the entry a TLB would hold (R48). -/
def walkOf (vd asn va : Nat) (mode : Option Mode) (a : Access) : Walk TlbEntry := do
  let s ← get
  if 2 ^ 56 ≤ va then throw (.fault .translation true)
  let ab := (s.vd vd).astbase
  if !bit ab 0 then throw (.fault .translation true)
  let (root, _) ← guestRead vd (field ab 51 12 * 4096 + 8 * asn)
  if !bit root 0 then throw (.fault .translation true)
  let l ← s1Walk vd va (field root 51 12 * 4096) 5
  let e := l.word
  if !grants (bit e 3) (bit e 2) (bit e 1) a || !uOk mode (bit e 4) a then throw (.fault .permission true)
  let gpa := field e 51 12 * 4096 + (va - l.base)
  let (l2, h) ← stage2 vd gpa a
  outputCheck (← get) vd h a
  let size := min l.size l2.size
  pure { vd := vd, asn := if bit e 5 then none else some asn, base := va / size * size, size := size, hpa := h - va % size, gpa := gpa,
         s2base := l2.base, s2size := l2.size, leaf := l.addr, word := leafKey e, attrs := leafAttrs e l2 }

/-- What a walk from a state answers. -/
def walk (s : State) (vd asn va : Nat) (mode : Option Mode) (a : Access) : Except WalkStop TlbEntry := ((walkOf vd asn va mode a).on s).1

/-! TLBs (R48). -/

/-- An entry translates an address of a space. -/
def TlbEntry.hits (t : TlbEntry) (vd asn va : Nat) : Bool :=
  t.vd = vd && (t.asn = none || t.asn = some asn) && decide (t.base ≤ va) && decide (va < t.base + t.size)

/-- The entry permits an access; one that does not is walked again, so a refusal is always the tables' own. -/
def TlbEntry.permits (t : TlbEntry) (mode : Option Mode) (a : Access) : Bool :=
  grants t.attrs.x t.attrs.w t.attrs.r a && grants t.attrs.s2x t.attrs.s2w t.attrs.s2r a && uOk mode t.attrs.u a

/-- The host-physical address an entry gives. -/
def TlbEntry.out (t : TlbEntry) (va : Nat) : Nat := t.hpa + (va - t.base)

/-- An entry may be used for an address: what it yields lies where Table 2.12 lets it, the carve-out and an absent host page not; else
the access walks again. -/
def TlbEntry.usable (t : TlbEntry) (s : State) (va : Nat) (a : Access) : Bool :=
  match region (t.out va) with
  | .none | .carveOut | .scratch _ => false
  | _ => (match outputCheck s t.vd (t.out va) a with | .ok _ => true | .error _ => false)

/-- What the core's TLB, then its kiln's, hold for an address. -/
def tlbFind (s : State) (core vd asn va : Nat) (mode : Option Mode) (a : Access) : Option TlbEntry :=
  let ok := fun (t : TlbEntry) => t.hits vd asn va && t.permits mode a && t.usable s va a
  match (s.core core).tlb.find? ok with
  | some t => some t
  | none => (s.kiln (kilnOf core)).tlb.find? ok

/-- Load an entry into both TLBs, the newest first; the oldest leaves a full one (256 and 16,384 entries). -/
def tlbFill (s : State) (core : Nat) (t : TlbEntry) : State :=
  let other := fun (x : TlbEntry) => !(x.vd = t.vd && x.asn = t.asn && x.base = t.base && x.size = t.size)
  (s.modCore core fun c => { c with tlb := (t :: c.tlb.filter other).take 256 }).modKiln (kilnOf core) fun k =>
    { k with tlb := (t :: k.tlb.filter other).take 16384 }

/-- The word of a leaf as it stands. -/
def leafWord (s : State) (addr : Nat) : Word := BitVec.ofNat 64 (wordOfBytes (s.bytes addr 8))

/-- Set bits in a stage-1 leaf: A when a translation is loaded, D before the first write through it (R36). It is a write of the table's
line, made whatever stage 2 grants on that page besides the walk's R (log entry 48, DESIGN CHOICE). -/
def setLeafBits (s : State) (addr : Nat) (mask : Word) : State :=
  let w := leafWord s addr
  if w &&& mask = mask then s
  else landHome s (addr / 128) (BitVec.ofNat 1024 ((w ||| mask).toNat * 2 ^ (8 * (addr % 128)))) (byteMask (addr % 128) 8) (homeTag s (addr / 128))

/-- Walk and load the translation, setting A (R36, R49); what the walk did to tables in error stays when it ends short. -/
def walkFill (s : State) (core vd asn va : Nat) (mode : Option Mode) (a : Access) : Except WalkStop TlbEntry × State :=
  match (walkOf vd asn va mode a).on s with
  | (.error e, s') => (.error e, s')
  | (.ok t, s') => (.ok t, tlbFill (setLeafBits s' t.leaf 64) core t)

/-- D is set before the first write through a translation becomes visible; none when the entry is no longer the one walked (R36). -/
def setDirty (s : State) (core : Nat) (t : TlbEntry) : Option State :=
  if t.attrs.dirty then some s
  else if leafKey (leafWord s t.leaf) ≠ t.word then none
  else some (tlbFill (setLeafBits s t.leaf 128) core { t with attrs := { t.attrs with dirty := true } })

/-- Remove a translation from every TLB. -/
def forgetTlb (s : State) (t : TlbEntry) : State :=
  let keep := fun (ts : List TlbEntry) => ts.filter fun x => !(x.vd = t.vd && x.asn = t.asn && x.base = t.base && x.size = t.size)
  { s with cores := s.cores.map fun x => (x.1, { x.2 with tlb := keep x.2.tlb }),
           kilns := s.kilns.map fun x => (x.1, { x.2 with tlb := keep x.2.tlb }) }

end Sys2Proof.Machine
end

