-- ==== Sys2Proof/Machine/Lines.lean ====
section
/-!
DEFINITION. Sys2Proof/Machine/Lines.lean: one line as an agent reads and writes it: the errors, keys and classes it meets
(Tables 3.5, 3.6, 7.3), what a write leaves (Tables 3.8, 14.7, the demotion rule R76), windows' retention and flushes
(R194 to R197, R500, R505), the block table (Tables 5.10 to 5.12), counters (R189), monitors (R250), watchpoints (R480).
-/

namespace Sys2Proof.Machine

open Sys2Proof

/-- The cores kept for a task's cord; none for a task of no cord. -/
def Task.cordKept (x : Task) : List Nat := if x.cord then x.cordCores else []

/-- Core b is one that scope CORD, or KILN, takes in as seen from core a of a cord of the given cores, none for a task of no cord (Table 8.3);
for a cord of 25 cores and more both take in both its kilns (R246). -/
def coreInScope (cord : List Nat) (kiln : Bool) (a b : Nat) : Bool :=
  (if kiln then kilnOf a = kilnOf b else a = b || cord.contains b) || (decide (24 < cord.length) && kilnOf a / 2 == kilnOf b / 2)

/-- Who accesses: the requester, its core, VD, ASN, the mode whose U check applies, its task; `inline` agents of the part
walk at once (R232, R448); `ldp1`, a load of the second load pipe. Requesters are numbered: a stream by its context k, its matrix queue 1000 + k, its vector queue
2000 + k, the part itself on a core 3000 + core, transfers from 4096 up. -/
structure Client where
  who : Nat
  core : Nat
  vd : Nat
  asn : Nat
  mode : Option Mode
  task : Option Nat
  inline : Bool := false
  ldp1 : Bool := false
  deriving DecidableEq, Repr

def clientOf (s : State) (k : Nat) : Client :=
  let c := s.ctx k
  { who := k, core := coreOf k, vd := c.vd, asn := c.asn, mode := some c.mode, task := c.task }

/-- A line an access has reached: where, under which address, through which page attributes and key, and for a
sequence-store frame the name it was reached by. -/
structure Place where
  line : Nat
  va : Word
  pol : Nat := 0
  strict : Bool := false
  trk : Bool := false
  grain : Nat := 0
  key : Option KeyId := none
  vd : Nat := 0
  leaf : Option TlbEntry := none
  name : Option Nat := none
  deriving DecidableEq, Repr

/-- Element i of width w of a line. -/
def elemOf (d : BitVec 1024) (w i : Nat) : Nat := d.toNat / 2 ^ (w * i) % 2 ^ w

/-! The demotion rule (R76). -/

/-- The exponent of R76 for a line whose largest finite value is a: 127 + ⌈log2(a / MaxFinite)⌉, limited to a byte. -/
def demoteLxp (a : FNum) (tgt : Fmt) : Nat :=
  match a, decode tgt tgt.maxCode with
  | .fin _ m e, .fin _ mx ex =>
    if m = 0 then 127
    else
      let l := ratioLog2 m mx
      let exact := decide (m * pow2down l = mx * pow2up l)
      let k : Int := l + e - ex + (if exact then 0 else 1)
      (max 0 (min 255 (127 + k))).toNat
  | _, _ => 127

/-- The finite value of greatest magnitude. -/
def largest : List FNum → FNum
  | [] => .fin false 0 0
  | .fin _ m e :: xs =>
    let y := largest xs
    match FNum.cmp (.fin false m e) y with
    | some .gt => .fin false m e
    | _ => y
  | .inf _ :: xs => largest xs
  | .nan _ :: xs => largest xs

/-- Narrow the 64 values of a line: the new data, exponent and the count of saturations. -/
def demoteValues (tgt : Fmt) (md : RMode) (xs : List FNum) : BitVec 1024 × Nat × Nat :=
  let k := demoteLxp (largest xs) tgt
  let ys := xs.map fun x => satFloat tgt md x ((k : Int) - 127)
  (BitVec.ofNat 1024 (wordOfBytes (ys.map fun y => BitVec.ofNat 8 y.1)), k, (ys.filter fun y => y.2.1).length)

/-- The 64 values of a line of 16-bit float elements, or of one the rule has narrowed before. -/
def lineValues (f : Fmt) (lxp : Nat) (d : BitVec 1024) : List FNum :=
  (List.range 64).map fun i => readElem f lxp (elemOf d f.width i)

/-- Narrow a line of 64 16-bit elements. -/
def demoteLine (f tgt : Fmt) (lxp : Nat) (md : RMode) (d : BitVec 1024) : BitVec 1024 × Nat × Nat :=
  demoteValues tgt md (lineValues f lxp d)

/-! The block table (R132 to R137, Tables 5.10 to 5.12). -/

/-- The frame a name maps. -/
def nameFrame (s : State) (vd name : Nat) : Option Nat :=
  match SMap.get 0 s.pkg.names (nameKey vd name) with
  | 0 => none
  | f + 1 => some f

def State.setName (s : State) (vd name : Nat) (f : Option Nat) : State :=
  { s with pkg := { s.pkg with names := SMap.set 0 s.pkg.names (nameKey vd name) (match f with | none => 0 | some f => f + 1) } }

def State.frameWord (s : State) (f : Nat) : FrameWord := SMap.get {} s.pkg.frames f
def State.setFrame (s : State) (f : Nat) (x : FrameWord) : State :=
  { s with pkg := { s.pkg with frames := SMap.set {} s.pkg.frames f x } }

/-- Name entries a VD holds, against its quota. -/
def namesHeld (s : State) (vd : Nat) : Nat := (s.pkg.names.filter fun x => x.1 / 2 ^ 44 = vd).length
def nameFree (s : State) (vd : Nat) : Bool :=
  decide (namesHeld s vd < field (s.vd vd).cfg 45 25) && decide (s.pkg.names.length < 2 ^ 20)

/-- The HBM granules mapped into a VD's sequence-store share, by granule number of the share (R42). -/
def seqGranules (s : State) (vd : Nat) : List (Nat × Nat) :=
  ((s.vd vd).aperture.filter fun x => decide (4096 ≤ x.1)).map fun x => (x.1 - 4096, x.2 - 1)

/-- The frames of a granule for a block size, lowest first; a frame is numbered by its address in 16 KiB units. -/
def framesOf (g bytes : Nat) : List Nat := (List.range (2 ^ 21 / bytes)).map fun j => g * 128 + j * (bytes / 2 ^ 14)

/-- A granule in no window and under no re-key job. -/
def ownCapacity (s : State) (g : Nat) : Bool := !(s.granule g).wk && !(s.granule g).rk

/-- A free frame of the VD, the lowest in the order of its share's granules: in any mapped granule, in one named, or, for a copy on
write, in the VD's own capacity outside every window (R185, R329). Capacity outside windows is taken first (log entry 55, DESIGN
CHOICE: the spec asks for a free frame). -/
def freeFrame (s : State) (vd : Nat) (only : Option Nat) (cow : Bool) : Option Nat :=
  let gs := (seqGranules s vd).filter fun x => match only with | some n => x.1 == n | none => true
  let free := fun (ys : List (Nat × Nat)) => (ys.flatMap fun x => framesOf x.2 (blockBytes s vd)).find? fun f => (s.frameWord f).refs = 0
  match free (gs.filter fun x => ownCapacity s x.2) with
  | some f => some f
  | none => if cow then none else free gs

/-- The key slot of an access without a leaf (Table 7.7), as the key it names. -/
def seqKey (s : State) (vd frame : Nat) : Option KeyId :=
  let g := s.granule (frame / 128)
  if g.wk then
    let w := s.window g.win
    if w.owner = vd then slotKey s vd w.oslot else if w.peer = vd then slotKey s vd w.pslot else slotKey s vd 0
  else slotKey s vd 0

/-- Why a write through a name finds no line to land in: no frame or name entry (R135), or a line of the frames it touches that cannot be
read or written (R185), or not yet; with the state as the lines before left it. -/
inductive FrameStop where
  | noBlock
  | fault (c : Cause) (s : State)
  | wait (h : HoldKind) (s : State)
  deriving DecidableEq, Repr

/-- A line that the block table reads or writes under a VD's key: its switch, or its key's, is waited for (R69, R185, Table 7.3). -/
def frameLine (s : State) (vd f line : Nat) : Except FrameStop Unit :=
  if tagVc (homeTag s line) = vcRecode then .error (.wait (.recode line) s)
  else match keyCheck s (seqKey s vd f) line with
    | .covered => .error (.wait (.foreign line (seqKey s vd f)) s)
    | .foreign => .error (.fault .foreignLine s)
    | .current => .ok ()

/-- The retained line of a party, if any. -/
def retainedOf (s : State) (vd win line : Nat) : Option Retained :=
  s.pkg.retained.find? fun r => r.vd = vd && r.win = win && r.line = line

/-- A line written whole by its party, retained (R194). The lines of a frame taken in a window's granule are, whatever their number (log
entry 55, DESIGN CHOICE). -/
def retainWhole (s : State) (r : Retained) : State :=
  { s with pkg := { s.pkg with retained := (s.pkg.retained.filter fun x => !(x.vd = r.vd && x.win = r.win && x.line = r.line)) ++ [r] } }

/-- n lines of a frame from line j on take a tag, their bytes zero: a full-line write of each, under the frame's key (R185). -/
def fillFrame (vd name f : Nat) (t : Tag) : Nat → Nat → State → Except FrameStop State
  | 0, _, s => .ok s
  | n + 1, j, s => do
    frameLine s vd f (f * 128 + j)
    fillFrame vd name f t n (j + 1) (match seqKey s vd f with
      | some (.window w _) =>
        retainWhole s { vd := vd, win := w, line := f * 128 + j, mask := BitVec.allOnes 128, data := 0, tag := some t, name := some name }
      | _ => landHome s (f * 128 + j) 0 (BitVec.allOnes 128) t)

/-- Take a frame for a name, its lines {FMT, UNDEF, 127} (Table 5.12). -/
def takeFrame (s : State) (vd name f : Nat) (t : Tag) : Except FrameStop State := do
  let s ← fillFrame vd name f t (blockBytes s vd / 128) 0 s
  pure ((s.setName vd name (some f)).setFrame f { refs := 1 })

/-- Copy n lines of a frame to another from line j on, tags and all, each read and written under its key. -/
def copyFrame (vd f g : Nat) : Nat → Nat → State → Except FrameStop State
  | 0, _, s => .ok s
  | n + 1, j, s =>
    match meetErrors s (f * 128 + j) with
    | (s, some c) => .error (.fault c s)
    | (s, none) => do
      frameLine s vd f (f * 128 + j)
      frameLine s vd g (g * 128 + j)
      copyFrame vd f g n (j + 1) (landHome s (g * 128 + j) (lineData s (f * 128 + j)) (BitVec.allOnes 128) (homeTag s (f * 128 + j)))

/-- The frame a write through a name lands in, after the allocation or copy of Table 5.12. -/
def writeFrame (s : State) (vd name : Nat) (t : Tag) : Except FrameStop (State × Nat) :=
  match nameFrame s vd name with
  | none =>
    if !nameFree s vd then .error .noBlock else
    match freeFrame s vd none false with
    | none => .error .noBlock
    | some f => do pure (← takeFrame s vd name f t, f)
  | some f =>
    let w := s.frameWord f
    if !w.sealed then .ok (s, f)
    else if w.refs ≤ 1 then .ok (s.setFrame f { w with sealed := false }, f)
    else match freeFrame s vd none true with
      | none => .error .noBlock
      | some g => do
        let s ← copyFrame vd f g (blockBytes s vd / 128) 0 s
        pure (((s.setName vd name (some g)).setFrame g { refs := 1 }).setFrame f { w with refs := w.refs - 1 }, g)

/-! Writing a line at its home. -/

/-- The tag a write without a tag leaves (R66, R70, Table 3.8). -/
def untaggedTag (old : Tag) (pol : Nat) : Tag :=
  let vc := tagVc old
  if pol = 4 then mkTag Fmt.code.toCode vcPending 127
  else if tagFmt old = Fmt.code.toCode then mkTag (tagFmt old) vcPending (tagLxp old)
  else if vc = vcZero || vc = vcUndef then mkTag (tagFmt old) vcValid (tagLxp old)
  else old

/-- Whether the stored bytes of a class are insignificant, so that the line reads as zeros. -/
def readsZero (t : Tag) : Bool := tagVc t = vcZero || tagVc t = vcUndef

/-- A write of masked bytes over a line, whose tag becomes t: over a class that reads as zeros, the rest becomes zero. -/
def landOver (s : State) (line : Nat) (data : BitVec 1024) (m : BitVec 128) (t : Tag) : State :=
  if readsZero (homeTag s line) && !readsZero t then landHome s line (mergeBytes 0 data m) (BitVec.allOnes 128) t
  else landHome s line data m t

/-! Rings, interrupts and page requests (R52 to R54, R465, R466). -/

/-- The record slot a ring offers: its address, and the index word after the write; a full ring sets OVFL; a ring that is
off, or whose LSIZE is out of range, offers nothing (Table 20.4). -/
def ringSlot (base idx : Word) (bytes : Nat) : Option Nat × Word :=
  let l := field base 11 8
  if !bit base 0 || l = 0 || l > 7 then (none, idx)
  else
    let wr := field idx 15 0 % 2 ^ (l + 1)
    let rd := field idx 31 16 % 2 ^ (l + 1)
    if (wr + 2 ^ (l + 1) - rd) % 2 ^ (l + 1) = 2 ^ l then (none, idx ||| BitVec.ofNat 64 (2 ^ 32))
    else (some (field base 51 12 * 4096 + wr % 2 ^ l * bytes), putField idx 15 0 ((wr + 1) % 2 ^ (l + 1)))

/-- What a write of n bytes that carries no tag makes of a line's tag: part of a line keeps it (Table 3.5), and a whole one is written
{RAW, VALID, 127} (log entry 56, DESIGN CHOICE). -/
def partTag (old : Tag) (pol n : Nat) : Tag := if n = 128 then mkTag 0 vcValid 127 else untaggedTag old pol

/-- The part writes bytes that stay within one line under a key, as a partial write or a write of the whole line (Table 3.5); whether it
could (R183). -/
def agentLand (s : State) (key : Option KeyId) (a : Nat) (bs : List Byte) : State × Bool :=
  match meetErrors s (a / 128) with
  | (s, some _) => (s, false)
  | (s, none) =>
    let t := homeTag s (a / 128)
    if keyCheck s key (a / 128) ≠ .current || tagVc t = vcRecode || (vcPoisoned (tagVc t) && decide (bs.length < 128)) then (s, false)
    else (landOver s (a / 128) (BitVec.ofNat 1024 (wordOfBytes bs * 2 ^ (8 * (a % 128)))) (byteMask (a % 128) bs.length)
      (partTag t 0 bs.length), true)

/-- Words as bytes. -/
def wordBytes (ws : List Nat) : List Byte := ws.flatMap fun w => bytesOfNat 8 w

/-- Signal a vector of a VD (R465): masked, it is pended; else it goes where the remap table sends it, or is dropped and
logged; the physical function's own interrupt is a signal of its own. -/
def signalVector (s : State) (vd vec : Nat) : State :=
  if vd ≥ 64 then s.send .pfInterrupt
  else
    let m := SMap.get {} (s.vd vd).msix vec
    if m.masked then s.modVd vd fun v => { v with msix := SMap.set {} v.msix vec { m with pending := true } }
    else
      let (w0, w1) := SMap.get (0, 0) s.pkg.irt (m.data.toNat % 2 ^ 14)
      if bit w1 31 && field w1 5 0 = vd then (s.send (.msix vd vec)).send (.message w0 (BitVec.ofNat 64 (field w1 63 32)))
      else s.send (.pfLog 1 (BitVec.ofNat 64 (vd * 512 + vec)))

/-- An error event of a VD: its record, if its ring takes one, then vector 256 (R466). A ring whose slot the part cannot write is taken as
full (log entry 21, DEDUCED). -/
def errorRecord (s : State) (vd code queue cause lid : Nat) (w1 w3 : Word) : State :=
  let v := s.vd vd
  let (slot, idx) := ringSlot v.errbase v.erridx 32
  let bs := wordBytes [code * 2 ^ 56 + queue % 256 * 2 ^ 48 + cause % 256 * 2 ^ 40 + lid % 2 ^ 32, w1.toNat, s.now, w3.toNat]
  let s := match slot with
    | none => s.modVd vd fun v => { v with erridx := idx }
    | some g =>
      let (h, s) := if vd ≥ 64 then ((.ok g : Except WalkStop Nat), s) else guestPlace s vd g .store
      let (s, done) := match h with | .ok h => agentLand s (slotKey s vd 0) h bs | .error _ => (s, false)
      s.modVd vd fun v => { v with erridx := if done then idx else v.erridx ||| BitVec.ofNat 64 (2 ^ 32) }
  signalVector s vd 256

/-- A VD's reserved page-request entries (R52), and the size of the shared pool. -/
def prqQuota (s : State) (vd : Nat) : Nat := max 4 (field (s.vd vd).cfg 55 46)
def prqPool (s : State) : Nat := 704 - (List.range 64).foldl (fun a v => a + prqQuota s v) 0

/-- The entries in use that p selects. -/
def prqCount (s : State) (p : Prq → Bool) : Nat :=
  (s.pkg.prq.filter fun x => match x.2 with | some q => p q | none => false).length

/-- The PASID that tasks of an ASN carry; 0 for none (Table 20.1, R465). -/
def pasidOf (s : State) (vd asn : Nat) : Nat :=
  let w := SMap.get 0 (s.vd vd).pasid asn
  if w.getLsbD 31 then w.toNat % 2 ^ 20 else 0

/-- Send a request that has taken an entry: a record in the PF's stage-2 ring, or a page request to the host (R54). The ring's BASE is
taken as a host-physical address (log entry 48, DESIGN CHOICE). -/
def prqSend (s : State) (i : Nat) (q : Prq) : State :=
  if q.kind = 2 then s.send (.pageRequest q.vd (pasidOf s q.vd q.asn) q.page i)
  else
    let (slot, idx) := ringSlot s.pkg.s2fbase s.pkg.s2fidx 16
    let (s, done) := match slot with
      | none => (s, true)
      | some a => agentLand s (slotKey s 64 0) a (wordBytes [q.page % 2 ^ 40 * 2 ^ 12 + q.kind * 16 + q.rights.toNat * 2 + 1,
          pasidOf s q.vd q.asn * 2 ^ 44 + q.vd * 2 ^ 38 + i])
    let s := { s with pkg := { s.pkg with s2fidx := if done then idx else s.pkg.s2fidx ||| BitVec.ofNat 64 (2 ^ 32) } }
    s.send .pfInterrupt

/-- The lowest entry number not in use. -/
def prqIndex (s : State) : Nat :=
  ((List.range 704).find? fun i => SMap.get none s.pkg.prq i = none).getD 704

/-- Give a request an entry if Table 2.14 has one for it; the queue never holds more than 704, nor more host pages than the host has
allocated (R52, R54). -/
def prqTake (s : State) (q : Prq) : Option State :=
  let own := prqCount s fun x => x.vd = q.vd && !x.shared
  let shared := prqCount s fun x => x.shared
  let place := fun (q : Prq) =>
    let i := prqIndex s
    prqSend { s with pkg := { s.pkg with prq := SMap.set none s.pkg.prq i (some q) } } i q
  if 704 ≤ prqCount s (fun _ => true) || (q.kind = 2 && decide (s.pkg.priAlloc ≤ prqCount s fun x => x.kind = 2)) then none
  else if own < prqQuota s q.vd then some (place { q with shared := false })
  else if shared < prqPool s then some (place { q with shared := true })
  else none

/-- Make a page request: join the entry or the wait of a like one, take an entry, or wait in order (R53, Table 2.14). -/
def pageRequest (s : State) (vd asn kind page : Nat) (r : BitVec 3) : State :=
  let like := fun (x : Prq) => x.vd = vd && x.kind = kind && x.page = page
  if decide (prqCount s like > 0) || s.pkg.prqWait.any like then s
  else
    let q : Prq := { vd := vd, asn := asn, kind := kind, page := page, rights := r }
    match prqTake s q with
    | some s' => s'
    | none => { s with pkg := { s.pkg with prqWait := s.pkg.prqWait ++ [q] } }

/-- VDSTAT.EN (R460). -/
def vdEnabled (s : State) (vd : Nat) : Bool := (s.vd vd).enabled && s.pkg.firmware && bit (s.vd vd).s2root 0

/-! Windows: retention and flushes. -/

/-- A VD's key slot is bound no more to a window's key; one that has been bound anew since stays (R198). -/
def unbindSlot (s : State) (vd slot : Nat) (key : KeyId) : State :=
  if SMap.get none (s.vd vd).slots slot = some key then s.modVd vd fun v => { v with slots := SMap.set none v.slots slot none } else s

/-- How the flush of a retained line ends: it has landed; it stays, its name finding no frame or none that can be read (R505); or its line,
or one of its frame's, is being switched, and it waits (R69, R77). -/
inductive Flushed where
  | landed (s : State)
  | blocked (s : State)
  | later

/-- Flush one retained line: through its name as a write (R500), else to its home. -/
def flushLine (s : State) (r : Retained) : Flushed :=
  let land := fun (s : State) (line : Nat) =>
    if tagVc (homeTag s line) = vcRecode then .later
    else .landed (landOver s line r.data r.mask (match r.tag with | some t => t | none => untaggedTag (homeTag s line) 0))
  match r.name with
  | none => land s r.line
  | some n =>
    match writeFrame s r.vd n (mkTag 0 vcUndef 127) with
    | .error .noBlock => .blocked s
    | .error (.fault _ s) => .blocked s
    | .error (.wait _ _) => .later
    | .ok (s, f) => land s (f * 128 + r.line % (blockBytes s r.vd / 128))

/-- Flush a list of retained lines; those that find no frame stay. None when one must wait: a flush begins when all its lines can go. -/
def flushList (s : State) : List Retained → Option (State × List Retained)
  | [] => some (s, [])
  | r :: rs =>
    match flushLine s r with
    | .landed s' => flushList s' rs
    | .blocked s' => (flushList s' rs).map fun (s', k) => (s', r :: k)
    | .later => none

/-- Flush the retained lines that p selects (R194, R505): the state after it and the lines that found no frame; none when it must wait. -/
def flushWhere (s : State) (p : Retained → Bool) : Option (State × List Retained) :=
  (flushList s (s.pkg.retained.filter p)).map fun (s', left) =>
    ({ s' with pkg := { s'.pkg with retained := (s'.pkg.retained.filter fun r => !p r) ++ left } }, left)

/-- A FLUSH_BLOCKED record for each line a flush could not land (R505, R466). -/
def recordBlocked (s : State) : List Retained → State
  | [] => s
  | r :: rs => recordBlocked (errorRecord s r.vd 7 0 0 0 (BitVec.ofNat 64 (r.name.getD 0)) 0) rs

/-- How the retention of a write ends: held; refused, a blocked flush before it (R505); or a flush before it must wait. -/
inductive Retention where
  | held (s : State)
  | refused (s : State)
  | later

/-- Room for the retention of a write over n lines (R194): beyond 32,768 lines the party's lines are flushed first. -/
def retainRoom (s : State) (vd win line n : Nat) : Retention :=
  if (retainedOf s vd win line).isSome || (s.pkg.retained.filter fun x => x.vd = vd).length + n ≤ 32768 then .held s
  else
    let w := s.window win
    match flushWhere (s.setWindow win { w with flushes := w.flushes + 1 }) fun x => x.vd = vd with
    | none => .later
    | some (s, []) => .held s
    | some (s, left) => .refused (recordBlocked s left)

/-- Retain a write, over what its party retains of the line already. -/
def retainOver (s : State) (r : Retained) : State :=
  match retainedOf s r.vd r.win r.line with
  | some o =>
    let old := match o.tag with | some t => if readsZero t then 0 else o.data | none => o.data
    let new := { o with mask := o.mask ||| r.mask, data := mergeBytes old r.data r.mask,
                        tag := match r.tag with | some t => some t | none => o.tag.map fun t => untaggedTag t 0, name := r.name }
    { s with pkg := { s.pkg with retained := s.pkg.retained.map fun x => if x = o then new else x } }
  | none => { s with pkg := { s.pkg with retained := s.pkg.retained ++ [r] } }

/-! Reading a line. -/

/-- A line as an agent reads it: its bytes (zeros for classes that read so) and its tag. -/
structure View where
  data : BitVec 1024
  tag : Tag
  deriving DecidableEq, Repr

/-- A stream as LAYER fences know it, wherever its task runs: the task's execute stream, its access stream, or its handler. -/
def fenceId (s : State) (k : Nat) : Nat :=
  let c := s.ctx k
  4 * c.task.getD 0 + (if stkOf k = 4 then 2 else if c.access then 1 else 0)

/-- A LAYER beat's line as it was before the beat, for a reader that no fence has ordered after the beat (R220). -/
def layerOld (s : State) (who line : Nat) : Option LayerOld :=
  if who < 3000 then s.coh.layer.find? fun l => l.line = line && !l.fenced.contains (fenceId s (who % 1000)) else none

/-- What a line holds for the party of a place once errors and keys have passed: the home's bytes and tag, and over them the party's own
retained bytes (R194). -/
def homeView (s : State) (pl : Place) : View :=
  let t := homeTag s pl.line
  let d := if readsZero t then 0 else lineData s pl.line
  match pl.key with
  | some (.window w _) =>
    match retainedOf s pl.vd w pl.line with
    | some r =>
      let t' := match r.tag with | some t => t | none => untaggedTag t 0
      ⟨if readsZero t' then 0 else mergeBytes d r.data r.mask, t'⟩
    | none => ⟨d, t⟩
  | _ => ⟨d, t⟩

/-- What a reader sees: the line, or, unfenced after a LAYER beat and as a free value has it, the line before that beat (R220). -/
def lineView (s : State) (who : Nat) (pl : Place) : View :=
  match layerOld s who pl.line with
  | some l => if Config.layerSeen s.ticks then homeView s pl else ⟨if readsZero l.tag then 0 else l.data, l.tag⟩
  | none => homeView s pl

/-- A reader that has seen a LAYER beat's line sees no older one again (R212). -/
def seenLayer (s : State) (who line : Nat) : State :=
  match layerOld s who line with
  | none => s
  | some l =>
    if Config.layerSeen s.ticks then
      let f := fenceId s (who % 1000)
      { s with coh := { s.coh with layer := s.coh.layer.map fun x => if x = l then { x with fenced := f :: x.fenced } else x } }
    else s

/-- Raise a fault with the state as it stands: what has been marked or walked stays. -/
def raiseKept {α : Type} (c : Cause) (etval : Word) : Op α := do
  let s ← get
  throw (.fault { cause := c, etval := etval } (some s))

/-- Reach a line's contents: the error layers, a switch or a covered key to wait for, a foreign key (Tables 7.1, 3.6 orders
1 and 2). A write of the whole line (`full`) reads nothing beneath the tag (R187); a write, or an atomic, acts on what its home holds. -/
def reach (cl : Client) (pl : Place) (a : Access) (full : Bool := false) : Op View := do
  let s ← get
  if full then
    if health s pl.line = .fault .crcExhausted && s.hbm.failed.contains (stackOf pl.line) then
      throw (.fault { cause := .crcExhausted, etval := pl.va } (some (logLine s 6 pl.line)))
  else
    let (s, c) := meetErrors s pl.line
    set s
    match c with
    | some c => throw (.fault { cause := c, etval := pl.va } (some s))
    | none => pure ()
  let s ← get
  if tagVc (homeTag s pl.line) = vcRecode then throw (.hold (.recode pl.line) pl.va a 0 none)
  match keyCheck s pl.key pl.line with
  | .covered => throw (.hold (.foreign pl.line pl.key) pl.va a 0 none)
  | .foreign => raiseKept .foreignLine pl.va
  | .current =>
    match a with
    | .store | .atomic => pure (homeView s pl)
    | .load | .fetch =>
      set (seenLayer s cl.who pl.line)
      pure (lineView s cl.who pl)

/-- A read that consumes what it reads: a scalar load, MONITOR, an atomic (Table 3.5). -/
def consume (cl : Client) (pl : Place) (a : Access) : Op View := do
  let v ← reach cl pl a
  if vcPoisoned (tagVc v.tag) then raiseKept .poisonConsumed pl.va
  if tagVc v.tag = vcUndef && pl.strict then raise .undefRead pl.va
  pure v

/-- A read that carries POISON on: a vector load or gather (Table 3.5). -/
def carry (cl : Client) (pl : Place) (a : Access) : Op View := do
  let v ← reach cl pl a
  if tagVc v.tag = vcUndef && pl.strict then raise .undefRead pl.va
  pure v

/-! Line-coherent sectors (R168, Table 6.7). A key names sector and core; the value is the sector's state. -/

/-- What the sectors of an access become: a writer's own M, other copies invalid; a reader's E or S, a former M or E
elsewhere O or S. -/
def touchSectors (m : SMap Sector) (core sec n : Nat) (write : Bool) : SMap Sector :=
  let inAcc := fun (k : Nat) => decide (sec ≤ k / 256) && decide (k / 256 < sec + n)
  let others := m.filter fun x => inAcc x.1 && x.1 % 256 ≠ core
  let m := if write then m.filter fun x => !(inAcc x.1 && x.1 % 256 ≠ core)
    else m.map fun x => if inAcc x.1 && x.1 % 256 ≠ core then
        (x.1, match x.2 with | .m => .o | .o => .o | .e => .s | .s => .s | .i => .i) else x
  (List.range n).foldl (fun m j =>
    let k := (sec + j) * 256 + core
    if write then SMap.set .i m k .m
    else if SMap.get .i m k = .i then
      SMap.set .i m k (if others.any (fun x => x.1 / 256 = sec + j && x.2 ≠ .i) then .s else .e)
    else m) m

/-- The bytes of a grain (Table 2.6): 32, 128 or 512. -/
def grainBytes (g : Nat) : Nat := match g with | 0 => 32 | 1 => 128 | _ => 512

/-! Writing through a place. -/

/-- D of the leaf a write goes through is set first (R36); an entry that has changed since its walk is walked again. -/
def dirtyFirst (cl : Client) (pl : Place) : Op Unit := do
  match pl.leaf with
  | none => pure ()
  | some l =>
    let s ← get
    match setDirty s cl.core l with
    | some s' => set s'
    | none => throw (.hold .walk pl.va .store 0 (some (forgetTlb s l)))

/-- All that can stop a write through a place, one of n lines, comes before it: D of its leaf, and room where it is retained (R505). -/
def readyWrite (cl : Client) (pl : Place) (n : Nat) : Op Unit := do
  dirtyFirst cl pl
  match pl.key with
  | some (.window w _) =>
    match retainRoom (← get) pl.vd w pl.line n with
    | .held s' => set s'
    | .refused s' => set s'; raiseKept .handleInvalid 3
    | .later => waitHere
  | _ => pure ()

/-- Perform a write of masked bytes with the tag the line ends with; `tagged` when the write carried one, or its page gives one. A window
write is retained; any other lands. -/
def performWrite (cl : Client) (pl : Place) (data : BitVec 1024) (m : BitVec 128) (t : Tag) (tagged : Bool) : Op Unit := do
  readyWrite cl pl 1
  let s ← get
  match pl.key with
  | some (.window w _) =>
    set (fireOwnMonitors (retainOver s { vd := pl.vd, win := w, line := pl.line, mask := m, data := data, name := pl.name,
                                         tag := if tagged || pl.pol = 4 then some t else none }) pl.vd pl.line)
  | _ => set (landOver s pl.line data m t)

/-- F16 or BF16. -/
def isHalfFloat (f : BitVec 6) : Bool := f = Fmt.f16.toCode || f = Fmt.bf16.toCode

/-- The values a write of 16-bit float data leaves in a line of a DEM8 or DEM5 page before the demotion: the new elements
over the old values, which are those of a 16-bit float line or of one demoted before; none for any other line (R76). -/
def demotedOver (v : View) (data : BitVec 1024) (m : BitVec 128) (t : Tag) : Option (List FNum) :=
  let new := lineValues (if tagFmt t = Fmt.f16.toCode then .f16 else .bf16) (tagLxp t) data
  if m = BitVec.allOnes 128 then some new
  else
    let old := if readsZero v.tag then some (List.replicate 64 (FNum.fin false 0 0))
      else match Fmt.ofCode (tagFmt v.tag) with
        | some .f16 => some (lineValues .f16 (tagLxp v.tag) v.data)
        | some .bf16 => some (lineValues .bf16 (tagLxp v.tag) v.data)
        | some .e4m3 => some (lineValues .e4m3 (tagLxp v.tag) v.data)
        | some .e5m2 => some (lineValues .e5m2 (tagLxp v.tag) v.data)
        | _ => none
    old.map fun old => (List.range 64).map fun i => if m.getLsbD (2 * i) then new.getD i (.fin false 0 0) else old.getD i (.fin false 0 0)

/-- What a write that carries tag t leaves of a line: its bytes and tag and the saturations counted, or the fault it meets
(Tables 3.8, 14.7; R63, R70), the format before the poison (R75, log entry 49, DESIGN CHOICE). `m` covers the bytes written; a full mask is
a full-line write. -/
def taggedResult (v : View) (pol : Nat) (md : RMode) (data : BitVec 1024) (m : BitVec 128) (t : Tag) :
    Except Cause (BitVec 1024 × BitVec 128 × Tag × Nat) :=
  let full := decide (m = BitVec.allOnes 128)
  let poison := vcPoisoned (tagVc t) || tagVc t = vcForeign
  let fresh := readsZero v.tag
  if pol = 3 && !fresh && tagFmt t ≠ tagFmt v.tag then .error .formatPair
  else if !full && vcPoisoned (tagVc v.tag) then .error .poisonConsumed
  else
    let vc := fun (old : Nat) => if poison then vcPoison else old
    if pol = 4 then .ok (data, m, mkTag Fmt.code.toCode (vc vcPending) 127, 0)
    else if (pol = 1 || pol = 2) && isHalfFloat (tagFmt t) then
      match demotedOver v data m t with
      | none => .error .formatPair
      | some xs =>
        let tgt : Fmt := if pol = 1 then .e4m3 else .e5m2
        let (d, k, n) := demoteValues tgt md xs
        .ok (d, BitVec.allOnes 128, mkTag tgt.toCode (vc (if full then tagVc t else vcValid)) k, n)
    else if full then
      let c := if tagFmt t = Fmt.code.toCode then vcPending else tagVc t
      .ok (data, m, mkTag (tagFmt t) (vc c) (tagLxp t), 0)
    else if fresh then
      .ok (data, m, mkTag (tagFmt t) (vc (if tagFmt t = Fmt.code.toCode then vcPending else vcValid)) (tagLxp t), 0)
    else if tagFmt t = tagFmt v.tag && tagLxp t = tagLxp v.tag then
      .ok (data, m, mkTag (tagFmt t) (vc (if tagFmt t = Fmt.code.toCode then vcPending else tagVc v.tag)) (tagLxp t), 0)
    else .error .formatPair

/-! Watchpoints (R479 to R481). -/

/-- The stop of R481: every stoker of the VD on the core, or in the kiln; STOPINFO when none was in force. -/
def stopAll (s : State) (vd core wp : Nat) (wide : Bool) : State :=
  let hit := fun (k : Nat) => decide (k < 960) && decide (k % 5 < 4) &&
    (if wide then kilnOf (coreOf k) == kilnOf core else coreOf k == core)
  let stop := fun (x : Nat × Ctx) =>
    if hit x.1 && x.2.vd = vd && x.2.live then (x.1, { x.2 with stopped := true, stepping := false }) else x
  let s := { s with ctxs := s.ctxs.map stop }
  s.modVd vd fun v =>
    let v := if bit v.stopinfo 63 then v
      else { v with stopinfo := BitVec.ofNat 64 (2 ^ 63 + (if wide then 2 ^ 62 else 0) + kilnOf core * 2 ^ 56 +
                                                 core * 2 ^ 48 + wp * 2 ^ 40) }
    { v with skid := s.ctxs.foldl (fun m x =>
        if hit x.1 && x.2.vd = vd && x.2.live then SMap.set 255 m (4 * (coreOf x.1 % 24) + stkOf x.1) 0 else m) v.skid }

/-- Fire the snapshot trigger (R478): 64 cycles later every block latches; while a record is unread, it only counts. -/
def fireSnapshot (s : State) (source tag : Nat) : State :=
  let n := s.pkg.snapshot
  let n' := if n.record.isNone && n.armed.isNone then { n with armed := some (source, tag, s.now + 64) }
    else { n with missed := min 255 (n.missed + 1) }
  { s with pkg := { s.pkg with snapshot := n' } }

/-- The lowest watchpoint of a list that matches, with where it first hits. -/
def firstHit (f : Watch → Option Nat) : Nat → SMap Watch → Option (Nat × Nat × Nat)
  | _, [] => none
  | j, (i, w) :: ws =>
    match f w with
    | some x => some (i, x, field w.ctrl 4 2)
    | none => firstHit f (j + 1) ws

/-- Check a task's access against its VD's watchpoints: acc is bit 0 read, 1 write, 2 fetch; the access spans [lo, hi) as
bytes of VA, or as padded elements of the handle with this kiln and owner tag. -/
def watch (cl : Client) (acc lo hi : Nat) (handle : Option (Nat × Nat)) : Op Unit := do
  let s ← get
  let v := s.vd cl.vd
  if cl.task.isNone || !bit v.dbgcfg 0 then pure ()
  else
    let m := fun (w : Watch) =>
      let kind := field w.ctrl 1 0
      let right := match handle with
        | none => kind == 1
        | some (k, o) => kind == 2 && field w.ctrl 47 45 == k && field w.ctrl 63 48 == o
      if right && bit w.ctrl (5 + acc) && decide (w.first.toNat < hi) && decide (lo < w.limit.toNat) then
        some (max lo w.first.toNat) else none
    match firstHit m 0 v.watch with
    | none => pure ()
    | some (i, x, act) =>
      if act = 1 then set (fireSnapshot s 1 0)
      else if act = 2 then set (stopAll s cl.vd cl.core i false)
      else if act = 3 then set (stopAll s cl.vd cl.core i true)
      else raise .watchpoint (BitVec.ofNat 64 (i * 2 ^ 56 + x % 2 ^ 56))

/-! Reaching a line by virtual address. -/

/-- What a kiln's walker is asked for (R49), by arrival: the walks of its streams' and its copy beats' misses, VD, ASN and page. Of one
cycle's misses the lowest stream comes first, the beats last. -/
def walksAsked (s : State) (kiln : Nat) : List (Nat × Nat × Nat × Nat) :=
  (s.ctxs.filterMap fun x => match x.2.hold with
    | some h => if h.kind = .walk && h.due.isNone && x.2.mode ≠ .m && kilnOf (coreOf x.1) = kiln then
        some (h.began * 1024 + x.1, x.2.vd, x.2.asn, h.va.toNat / 4096) else none
    | none => none) ++
  s.cores.flatMap fun c => if kilnOf c.1 ≠ kiln then [] else c.2.chans.toList.flatMap fun ch => ch.transfers.flatMap fun x =>
    x.waits.filterMap fun w => if w.kind = some .walk then some (w.since * 1024 + 1000, x.vd, x.asn, w.page) else none

/-- A walk has one of the walker's 64 slots: fewer than 64 others came before it (R49). -/
def hasWalkSlot (s : State) (kiln : Nat) (walk : Nat × Nat × Nat) : Bool :=
  let ws := walksAsked s kiln
  let arrival : Nat × Nat × Nat → Nat := fun w => (ws.filter fun x => x.2 = w).foldl (fun a x => min a x.1) (2 ^ 200)
  decide (((ws.map (·.2)).eraseDups.filter fun w => decide (arrival w < arrival walk)).length < 64)

/-- Translate an address for an access: the TLBs, or a hold for the walk; agents of the part walk at once, copy beats once the walker has a
slot for them (R402). In M mode an
address is a host-physical address under the PF's key (log entry 20, PRESUMED). -/
def translate (cl : Client) (va : Nat) (a : Access) : Op (Nat × Option TlbEntry) := do
  let s ← get
  if cl.mode = some .m then
    if region va = .none then raise .stage2 (BitVec.ofNat 64 va)
    pure (normalise s va, none)
  else
    match tlbFind s cl.core cl.vd cl.asn va cl.mode a with
    | some t => pure (normalise s (t.out va), some t)
    | none =>
      if !cl.inline || (4096 ≤ cl.who && !hasWalkSlot s (kilnOf cl.core) (cl.vd, cl.asn, va / 4096)) then
        throw (.hold .walk (BitVec.ofNat 64 va) a 0 none)
      let (r, s) := walkFill s cl.core cl.vd cl.asn va cl.mode a
      set s
      match r with
      | .ok t => pure (normalise s (t.out va), some t)
      | .error (.fault c held) => throw (.fault { cause := c, etval := BitVec.ofNat 64 va, held := held } (some s))
      | .error (.request k p r) =>
        throw (.hold (.request k p) (BitVec.ofNat 64 va) a 0 (some (pageRequest s cl.vd cl.asn k p r)))
      | .error (.wait h) => throw (.hold h (BitVec.ofNat 64 va) a 0 (some s))

/-- The line an address lies in. -/
def placeAt (cl : Client) (va : Nat) (a : Access) : Op Place := do
  let (h, t) ← translate cl va a
  let s ← get
  match t with
  | none => pure { line := h / 128, va := BitVec.ofNat 64 va, key := slotKey s 64 0, vd := cl.vd }
  | some t => pure { line := h / 128, va := BitVec.ofNat 64 va, pol := t.attrs.tagpol, strict := t.attrs.strict,
                     trk := t.attrs.trk, grain := t.attrs.grain, key := slotKey s cl.vd t.attrs.key, vd := cl.vd, leaf := some t }

/-- A tracked tensor that some kiln caches (R122). -/
def cachedSomewhere (s : State) (id : TensorId) : Bool :=
  s.coh.resident.any fun r => tensorId (24 * r.kiln) r.vd r.asn r.e = some id

/-- The cached tracked MEM tensors whose bytes an address range touches, with the columns of their grids and the cells (R160). -/
def tensorsAt (s : State) (cl : Client) (va n : Nat) : List (TensorId × Nat × List Nat) :=
  s.coh.dirs.filterMap fun d =>
    match d.id with
    | .mem v a base sh f =>
      let x := shapeOf sh
      let w := widthOf f
      if v = cl.vd && a = cl.asn && decide (base ≤ va) && decide (va < base + 128 * x.footprint w) && cachedSomewhere s d.id then
        let e0 := (va - base) * 8 / w
        let e1 := ((va + n - 1 - base) * 8) / w
        some (d.id, x.p0 / 64, if cellOfElem x e0 = cellOfElem x e1 then [cellOfElem x e0] else [cellOfElem x e0, cellOfElem x e1])
      else none
    | _ => none

/-- What a core's cache evicts at a request, as a free value has it: its own sectors but those that `keep` selects; dirty ones go to its
write-back buffer (R168, R169). -/
def evictSectors (s : State) (core : Nat) (keep : Nat → Bool) : State :=
  let out := fun (k : Nat) => k % 256 = core && !keep k && Config.evicts s.ticks k
  let dirty := s.coh.sectors.filter fun x => out x.1 && (x.2 = .m || x.2 = .o)
  let s := dropSectors s out
  { s with coh := { s.coh with writebacks := s.coh.writebacks ++ dirty.map (·.1) } }

/-- A request of a core for n sectors crosses write-backs of them by others: ownership passes to the reader, M for an exclusive request, O
otherwise; the home discards their data and acknowledges them (R169). -/
def crossWritebacks (s : State) (core sec n : Nat) (write : Bool) : State :=
  let inAcc := fun (k : Nat) => decide (sec ≤ k / 256) && decide (k / 256 < sec + n)
  let crossed := s.coh.writebacks.filter fun k => inAcc k && k % 256 ≠ core
  { s with coh := { s.coh with
      sectors := if write then s.coh.sectors else crossed.foldl (fun m k => SMap.set .i m (k / 256 * 256 + core) .o) s.coh.sectors,
      writebacks := s.coh.writebacks.filter fun k => !inAcc k } }

/-- A request of a core for the sectors of the grains that n bytes from an address lie in (R168), the watches on copies it invalidates
firing. -/
def requestSectors (s : State) (core grain a n : Nat) (write : Bool) : State :=
  let g := grainBytes grain
  let sec := a / g * g / 32
  let count := ((a + n - 1) / g - a / g + 1) * (g / 32)
  let inAcc := fun (k : Nat) => decide (sec ≤ k / 256) && decide (k / 256 < sec + count)
  let s := evictSectors s core inAcc
  let s := if write then dropSectors s fun k => inAcc k && k % 256 ≠ core else s
  crossWritebacks { s with coh := { s.coh with sectors := touchSectors s.coh.sectors core sec count write } } core sec count write

/-- An access by VA to a tracked page goes by the line protocol, unless its bytes are those of a tracked MEM tensor (R168). -/
def coherent (cl : Client) (pl : Place) (off n : Nat) (write : Bool) : Op Unit := modify fun s =>
  if pl.trk && (tensorsAt s cl pl.va.toNat 1).isEmpty then requestSectors s cl.core pl.grain (pl.line * 128 + off) n write else s

/-- A client's request for tenure of cells. -/
def Client.asks (cl : Client) (now : Nat) (kind : TenKind) (cells : List Nat) (etval : Word) : TenReq :=
  { who := cl.who, core := cl.core, task := cl.task.getD 0, kind := kind, cells := cells, since := now, etval := etval }

/-- The tenure check of a scalar access (Table 6.5). -/
def scalarTenure (cl : Client) (va n : Nat) (write : Bool) : Op Unit := do
  let s ← get
  let rec go : List (TensorId × Nat × List Nat) → Op Unit
    | [] => pure ()
    | (id, cols, cells) :: rest => do
      let s ← get
      match s.scalar id { cl.asks s.now (if write then .write else .read) cells (BitVec.ofNat 64 va) with cols := cols } with
      | .go s' => set s'; go rest
      | .wait s' => set s'; waitKeep
      | .sealed => raise .permission (BitVec.ofNat 64 va)
  go (tensorsAt s cl va n)

/-- The one or two runs of bytes of an access that lie in one line each. -/
def runsOf (va n : Nat) : List (Nat × Nat) :=
  if va % 128 + n ≤ 128 then [(va, n)] else [(va, 128 - va % 128), (va + (128 - va % 128), n - (128 - va % 128))]

/-- Bits [8n−1:0] of a line from a byte offset. -/
def bytesAt (d : BitVec 1024) (off n : Nat) : Nat := d.toNat / 2 ^ (8 * off) % 2 ^ (8 * n)

/-- A scalar load of n bytes (R298 to R300): of one that crosses two lines the first is translated and read before the second is translated
(log entry 48, DESIGN CHOICE). -/
def loadScalar (cl : Client) (va n : Nat) : Op Nat := do
  let rec go : List (Nat × Nat) → Op (List (Place × Nat × Nat × View))
    | [] => pure []
    | (a, k) :: rest => do
      let pl ← placeAt cl a .load
      let v ← consume cl pl .load
      return (pl, a % 128, k, v) :: (← go rest)
  let parts ← go (runsOf va n)
  scalarTenure cl va n false
  watch cl 0 va (va + n) none
  parts.forM fun x => coherent cl x.1 x.2.1 x.2.2.1 false
  pure ((parts.foldl (fun (acc : Nat × Nat) x => (acc.1 + bytesAt x.2.2.2.data x.2.1 x.2.2.1 * 2 ^ acc.2, acc.2 + 8 * x.2.2.1))
    (0, 0)).1)

/-! The part's own reads and writes by VA (R232, R448). -/

/-- How an access of the part ends early: where a stream would be held, the part waits and tries again; a page request of its
own that has failed is a fault (R53, R55). -/
def inlineStop {α : Type} (cl : Client) (va : Nat) (op : Op α) : Op α := fun s =>
  match op s with
  | .error (.hold (.request k p) v a e s') =>
    if !cl.inline then .error (.hold (.request k p) v a e s')
    else if s.pkg.agentReqs.contains (cl.vd, k, p, true) then
      .error (.fault { cause := if k = 2 then .translation else .stage2, etval := BitVec.ofNat 64 va }
        (some { s with pkg := { s.pkg with agentReqs := s.pkg.agentReqs.erase (cl.vd, k, p, true) } }))
    else
      let s := s'.getD s
      .error (.wait 0 (some { s with pkg := { s.pkg with agentReqs := (cl.vd, k, p, false) :: s.pkg.agentReqs.erase (cl.vd, k, p, false) } }))
  | .error (.hold h v a e s') => if cl.inline then .error (.wait 0 s') else .error (.hold h v a e s')
  | r => r

/-- Read n bytes, as a load would. -/
def agentRead (cl : Client) (va n : Nat) : Op (List Byte) := inlineStop cl va do
  let rec go : Nat → Nat → Nat → Op (List Byte)
    | 0, _, _ => pure []
    | fuel + 1, a, k => if k = 0 then pure [] else do
      let j := min k (128 - a % 128)
      let pl ← placeAt cl a .load
      let v ← consume cl pl .load
      coherent cl pl (a % 128) j false
      return bytesOfNat j (bytesAt v.data (a % 128) j) ++ (← go fuel (a + j) (k - j))
  go (n / 128 + 2) va n

/-- Write bytes: those of a CR or a frame with tag {RAW, VALID, 127} (`raw`, R232), any other as writes that carry no tag (Table 3.5). -/
def agentWrite (cl : Client) (va : Nat) (bs : List Byte) (raw : Bool := true) : Op Unit := inlineStop cl va do
  let rec go : Nat → Nat → List Byte → Op Unit
    | 0, _, _ => pure ()
    | fuel + 1, a, bs => if bs.isEmpty then pure () else do
      let j := 128 - a % 128
      let pl ← placeAt cl a .store
      let v ← reach cl pl .store
      let now := bs.take j
      if vcPoisoned (tagVc v.tag) && decide (now.length < 128) then raise .poisonConsumed (BitVec.ofNat 64 a)
      coherent cl pl (a % 128) now.length true
      let whole := raw || now.length = 128
      performWrite cl pl (BitVec.ofNat 1024 (wordOfBytes now * 2 ^ (8 * (a % 128)))) (byteMask (a % 128) now.length)
        (if raw then mkTag 0 vcValid 127 else partTag v.tag pl.pol now.length) whole
      go fuel (a + j) (bs.drop j)
  go (bs.length / 128 + 2) va bs

/-- The part itself, acting in an address space from a core. -/
def partClient (core vd asn : Nat) : Client :=
  { who := 3000 + core, core := core, vd := vd, asn := asn, mode := none, task := none, inline := true }

end Sys2Proof.Machine
end

