-- ==== Sys2Proof/Machine/Tiles.lean ====
section
/-!
DEFINITION. Sys2Proof/Machine/Tiles.lean: tile handles in use (chapter 05): entries of a task's window, credits, owner
records, residency in the kiln stores, where a handle's line lies at each level, engines' tenure, and reading and writing
one line of a handle.
-/

namespace Sys2Proof.Machine

open Sys2Proof

/-- Raise ILLEGAL_OP with the instruction word (Table 18.3). -/
def illegal {α : Type} (k : Nat) : Op α := do
  let s ← get
  raise .illegalOp (s.ctx k).ir

/-- The task a stream belongs to; a stream without one can use no handle. -/
def myTask (k : Nat) : Op (Nat × Task) := do
  let s ← get
  match (s.ctx k).task with
  | none => illegal k
  | some t =>
    match s.task t with
    | none => illegal k
    | some x => pure (t, x)

/-- A handle number of the stream's window: the entry's place in the tile table and the entry as it stands. -/
def rawEntry (k : Nat) (h : BitVec 6) : Op (Nat × Nat × HEntry) := do
  let (t, x) ← myTask k
  let s ← get
  let i := entryIndex x.win h.toNat
  pure (t, i, s.entry (coreOf k) i)

/-- A valid handle at a level the instruction takes (R109, R318). -/
def validEntry (k : Nat) (h : BitVec 6) (levels : List Nat) : Op (Nat × Nat × HEntry) := do
  let (t, i, e) ← rawEntry k h
  if !e.valid || !levels.contains e.level then raise .handleInvalid (h.setWidth 64)
  pure (t, i, e)

def anyLevel : List Nat := [0, 1, 2, 3, 4]

/-- Credit an entry's sync word (R126). -/
def creditEntry (s : State) (core i n : Nat) : State :=
  let e := s.entry core i
  s.setEntry core i { e with sync := creditWord e.sync n }

/-! Owner records of granules (R129). -/

/-- The granule records a handle's storage has: for each, a kiln-store granule (kiln, granule), or a scratchpad granule of
the core when none. -/
def granulesOf (core : Nat) (e : HEntry) : List (Option Nat × Nat) :=
  if e.level = lvCore then (List.range (e.locv / 512 % 1024)).map fun j => (none, e.locv % 512 + j)
  else if e.level = lvKiln then
    (List.range (e.locv / 2 ^ 17 % 2 ^ 17)).map fun j => (some (kilnOf core), e.locv % 2 ^ 17 + j)
  else if e.level = lvPackage then
    (List.range (e.locv / 2 ^ 17 % 2 ^ 17)).flatMap fun j => (List.range 8).map fun k => (some k, e.locv % 2 ^ 17 + j)
  else []

def State.owner (s : State) (core : Nat) (g : Option Nat × Nat) : Owner :=
  match g.1 with
  | none => SMap.get {} (s.core core).granules g.2
  | some k => SMap.get {} (s.kiln k).granules g.2

def State.setOwner (s : State) (core : Nat) (g : Option Nat × Nat) (o : Owner) : State :=
  match g.1 with
  | none => s.modCore core fun c => { c with granules := SMap.set {} c.granules g.2 o }
  | some k => s.modKiln k fun x => { x with granules := SMap.set {} x.granules g.2 o }

/-- The granule that holds line n of a handle. -/
def granuleOfLine (core : Nat) (e : HEntry) (n : Nat) : Option (Option Nat × Nat) :=
  if e.level = lvCore then some (none, e.locv % 512 + n / 32)
  else if e.level = lvKiln then some (some (kilnOf core), e.locv % 2 ^ 17 + n / 32)
  else if e.level = lvPackage then some (some (n / 32 % 8), e.locv % 2 ^ 17 + n / 32 / 8)
  else none

/-! Residency (R121 to R125). -/

/-- Two entries bind one tensor: the same base, shape and format (R122). -/
def sameTensor (a b : HEntry) : Bool :=
  a.level = b.level && a.locv = b.locv && a.shape &&& 0xFFFFFFFFFFFFFF00 = b.shape &&& 0xFFFFFFFFFFFFFF00 && a.fmt0 = b.fmt0

/-- A record is of the tensor an entry binds, in a kiln; the names of sequence blocks are a VD's. -/
def Resident.is (r : Resident) (kiln vd asn : Nat) (e : HEntry) : Bool :=
  r.kiln = kiln && r.vd = vd && (r.asn = asn || e.level = lvSeq) && sameTensor r.e e

/-- A task has taken up a stoker or a window and keeps it: it runs, or its window stays in place. -/
def Task.seated (x : Task) : Bool := x.status = .running || (x.ran && !x.wspill)

/-- The handles of a kiln: each task's window, in the tile table of its core or, spilled and not loaded again yet, in its frame; with the
VD, ASN and place. -/
def kilnHandles (s : State) (kiln : Nat) : List (Nat × Nat × Nat × Nat × HEntry) :=
  s.tasks.flatMap fun y => match y.2 with
    | none => []
    | some x =>
      if kilnOf x.core ≠ kiln then []
      else if x.wspill then x.kept.map fun h => (x.vd, x.asn, x.core, entryIndex x.win h.1, h.2)
      else if x.seated then
        ((s.core x.core).tiles.filter fun i => i.1 / 64 = x.win).map fun i => (x.vd, x.asn, x.core, i.1, i.2)
      else []

/-- The valid handles of its kiln that bind a cached tensor, with their places. -/
def binders (s : State) (r : Resident) : List (Nat × Nat × HEntry) :=
  (kilnHandles s r.kiln).filterMap fun x => if x.2.2.2.2.valid && r.is r.kiln x.1 x.2.1 x.2.2.2.2 then some x.2.2 else none

/-- A cached tensor's priority is the highest, and its class the most retentive, among its handles (R122). -/
def Resident.prio (r : Resident) (s : State) : Nat := (binders s r).foldl (fun a x => max a x.2.2.prio) 0
def Resident.res (r : Resident) (s : State) : Nat := (binders s r).foldl (fun a x => max a x.2.2.res) 0

/-- The home line of line n of a handle, where a retort reaches it: in its storage, in the page it binds, or in its mapped block. A line
whose page does not translate has none (log entry 57, DESIGN CHOICE). What the walk meets of errors stays. -/
def homeLine (core vd asn : Nat) (e : HEntry) (n : Nat) : StateM State (Option (Nat × Nat)) := fun s =>
  if e.level = lvMem then
    match (walkOf vd asn ((e.locv + n) * 128) none .load).on s with
    | (.ok t, s) => (some (n, normalise s (t.out ((e.locv + n) * 128)) / 128), s)
    | (.error _, s) => (none, s)
  else if e.level = lvSeq then
    let per := blockBytes s vd / 128
    ((nameFrame s vd (e.locv + n / per)).map fun f => (n, f * 128 + n % per), s)
  else
    match granuleOfLine core e n with
    | some (some k, g) => (some (n, kilnBase k / 128 + g * 32 + n % 32), s)
    | _ => (none, s)

/-- The home lines of a handle, with their numbers. -/
def homeLines (core vd asn : Nat) (e : HEntry) : StateM State (List (Nat × Nat)) := (List.range e.footprint).filterMapM (homeLine core vd asn e)

/-- The home lines as they stand. -/
def jobLines (s : State) (core vd asn : Nat) (e : HEntry) : List (Nat × Nat) := ((homeLines core vd asn e).run s).1

/-- Runs of consecutive lines of a handle, each line given with its number. -/
def runsOfLines : List (Nat × Nat) → List (Nat × Nat × Nat)
  | [] => []
  | (n, l) :: ls =>
    match runsOfLines ls with
    | (a, c, m) :: rs => if l + 1 = a && n + 1 = m then (l, c + 1, n) :: rs else (l, 1, n) :: (a, c, m) :: rs
    | [] => [(l, 1, n)]

/-- A run takes its place in ascending address order (R77). -/
def insertRun (r : Nat × Nat × Nat) : List (Nat × Nat × Nat) → List (Nat × Nat × Nat)
  | [] => [r]
  | x :: xs => if r.1 ≤ x.1 then r :: x :: xs else x :: insertRun r xs

/-- Runs in ascending address order. -/
def sortRuns (rs : List (Nat × Nat × Nat)) : List (Nat × Nat × Nat) := rs.foldr insertRun []

/-- A job's runs over a handle's lines, in ascending address order. -/
def jobRuns (core vd asn : Nat) (e : HEntry) : StateM State (List (Nat × Nat × Nat)) := do
  return sortRuns (runsOfLines (← homeLines core vd asn e))

/-- A line holds what the demotion rule leaves of a line of 16-bit elements: bytes 64 to 127 zero (R124). -/
def halfLine (fmt0 : BitVec 6) (data : BitVec 1024) (t : Tag) : Bool :=
  widthOf fmt0 = 16 && widthOf (tagFmt t) = 8 && (readsZero t || data.toNat / 2 ^ 512 = 0)

/-- The half lines of a cached tensor, as its kiln holds them. -/
def Resident.halfLines (r : Resident) (s : State) : Nat :=
  if widthOf r.e.fmt0 ≠ 16 then 0
  else ((jobLines s (24 * r.kiln) r.vd r.asn r.e).filter fun x => !r.gone.contains x.2 && (match SMap.get none r.copies x.2 with
    | some c => halfLine r.e.fmt0 c.data c.tag
    | none => halfLine r.e.fmt0 (lineData s x.2) (homeTag s x.2))).length

/-- Lines of the kiln's store mapped into a VD's aperture. -/
def mappedLines (s : State) (kiln vd : Nat) : Nat :=
  ((s.vd vd).aperture.filter fun x => decide (x.1 < 4096) && decide (x.1 / 256 = kiln)).length * 16384

/-- The 64-byte halves of lines that a VD's handles and cached tensors take: a half line counts as one (R124). -/
def usedHalves (s : State) (kiln vd : Nat) : Nat :=
  ((s.kiln kiln).granules.filter fun x => x.2.vd = vd && x.2.owner ≠ 0).length * 64 +
    s.coh.resident.foldl (fun a r => if r.kiln = kiln && r.vd = vd then a + (2 * (r.lines - r.gone.length) - r.halfLines s) else a) 0

/-- There is room for some halves in a VD's mapped capacity of a kiln. -/
def hasRoom (s : State) (kiln vd halves : Nat) : Bool := decide (usedHalves s kiln vd + halves ≤ 2 * mappedLines s kiln vd)

/-- Write a kiln's own copies of the lines that p selects back to their homes, the bytes written since they were read, each with its tag
(R141, R170). -/
def landCopies (s : State) (r : Resident) (p : Nat → Bool) : State :=
  r.copies.foldl (fun s x => match x.2 with
    | some c => if p x.1 && c.dirty ≠ 0 then landOver s x.1 c.data c.dirty c.tag else s
    | none => s) s

/-- Write a cached tensor back; its copies stay, clean. -/
def writeBack (s : State) (r : Resident) (p : Nat → Bool) : State :=
  let s := landCopies s r p
  let clean := fun (x : Nat × Option Copy) => if p x.1 then (x.1, x.2.map fun c => { c with dirty := 0, writers := [] }) else x
  { s with coh := { s.coh with resident := s.coh.resident.map fun y => if y = r then { r with copies := r.copies.map clean } else y } }

/-- Write back the dirty own copies of the lines that p selects, in every kiln (R193). -/
def flushCopies (s : State) (p : Nat → Bool) : State := s.coh.resident.foldl (fun s r => writeBack s r p) s

/-- What a stream has written to its kiln's own copies of the lines that p selects is performed at their homes (R218, R221; log entry 58,
DEDUCED: R141 has no other write-back). -/
def flushWritten (s : State) (k : Nat) (p : Nat → Bool) : State :=
  s.coh.resident.foldl (fun s r =>
    if r.kiln = kilnOf (coreOf k) then
      writeBack s r fun l => p l && (match SMap.get none r.copies l with | some c => c.writers.contains (fenceId s k) | none => false)
    else s) s

/-- The cores of a kiln give back their copies of a tensor's sealed cells (R152). -/
def returnKilnCopies (s : State) (r : Resident) : State :=
  match tensorId (24 * r.kiln) r.vd r.asn r.e with
  | none => s
  | some id =>
    let d := s.dir id
    if d.cells.isEmpty then s
    else s.setDir { d with cells := d.cells.foldl (fun m x => SMap.set {} m x.1 (x.2.returned fun c => kilnOf c.1 = r.kiln)) d.cells }

/-- A cached tensor is written back and dropped (R123). -/
def evict (s : State) (r : Resident) : State :=
  let s := returnKilnCopies (landCopies s r fun _ => true) r
  { s with coh := { s.coh with resident := s.coh.resident.filter fun x => x ≠ r } }

/-- A retort job covers a line. -/
def jobCovers (s : State) (line : Nat) : Bool :=
  s.kilns.any fun k => k.2.jobs.any fun j => j.runs.any fun r => decide (r.1 ≤ line) && decide (line < r.1 + r.2.1)

/-- An engine's access to a cached tensor is in flight: an unretired transfer that has begun names one of its handles. -/
def inFlight (s : State) (r : Resident) : Bool :=
  let hs := binders s r
  s.cores.any fun c => c.2.chans.toList.any fun ch => ch.transfers.any fun x => x.state = .pending && x.begun &&
    (x.src :: x.dests).any fun d => d.kiln = r.kiln && hs.any fun h => h.1 = d.core && h.2.1 = d.entry && h.2.2.owner = d.owner

/-- A candidate for eviction (R123): lowest priority, then the oldest access. -/
def victim (s : State) (kiln vd : Nat) : Option Resident :=
  (s.coh.resident.filter fun r => r.kiln = kiln && r.vd = vd && r.res s ≠ 2 && decide (r.lines ≤ r.filled) && !inFlight s r &&
      !((jobLines s (24 * kiln) vd r.asn r.e).any fun x => jobCovers s x.2)).foldl
    (fun b r => match b with
      | none => some r
      | some x => if r.prio s < x.prio s || (r.prio s = x.prio s && decide (r.last < x.last)) then some r else some x) none

/-- A cached tensor still holds a line of 16-bit float data. -/
def holdsHalfFloat (s : State) (r : Resident) : Bool :=
  (jobLines s (24 * r.kiln) r.vd r.asn r.e).any fun x => match SMap.get none r.copies x.2 with
    | some c => isHalfFloat (tagFmt c.tag)
    | none => isHalfFloat (tagFmt (homeTag s x.2))

/-- What making room came to: there is room, a demotion of the kiln's retort is to be waited for, or no candidate is left. -/
inductive Room where
  | room | demoting | none
  deriving DecidableEq, Repr

/-- A kiln's retort is demoting a cached tensor of the VD for room. -/
def demotingRoom (s : State) (kiln vd : Nat) : Bool :=
  (s.kiln kiln).jobs.any fun j => j.vd = vd && (match j.kind with | .residency _ _ => true | _ => false)

/-- Make room for halves of lines in a VD's mapped capacity (R123): victims are written back and dropped, the first of class DEMOTE with
lines to narrow is given to the retort, and the choice is made again when its job has ended. -/
def makeRoom (kiln vd need : Nat) : Nat → State → State × Room
  | 0, s => (s, if hasRoom s kiln vd need then .room else .none)
  | fuel + 1, s =>
    if hasRoom s kiln vd need then (s, .room)
    else if demotingRoom s kiln vd then (s, .demoting)
    else match victim s kiln vd with
      | none => (s, .none)
      | some r =>
        if r.res s = 1 && !r.demoted && holdsHalfFloat s r then
          let (rs, s) := (jobRuns (24 * kiln) vd r.asn r.e).run s
          (s.modKiln kiln fun y => { y with jobs := y.jobs ++ [{ kind := .residency r.asn r.e, vd := vd, runs := rs }] }, .demoting)
        else makeRoom kiln vd need fuel (evict s r)

/-- As often as making room may choose. -/
def roomFuel (s : State) : Nat := s.coh.resident.length + 1

/-- Touch a MEM or SEQ tensor through a handle: it becomes resident if it may and there is room, or its fill waits for a demotion (R123);
whether the kiln caches it, none while it waits (R122). -/
def touchResident (s : State) (cl : Client) (e : HEntry) : State × Option Bool :=
  let kiln := kilnOf cl.core
  let touch := fun (r : Resident) => if r.is kiln cl.vd cl.asn e then { r with last := s.now } else r
  if s.coh.resident.any fun r => r.is kiln cl.vd cl.asn e then
    ({ s with coh := { s.coh with resident := s.coh.resident.map touch } }, some true)
  else if decide (4 * e.footprint > mappedLines s kiln cl.vd) then (s, some false)
  else
    match makeRoom kiln cl.vd (2 * e.footprint) (roomFuel s) s with
    | (s', .room) =>
      let r : Resident := { kiln := kiln, vd := cl.vd, asn := cl.asn, e := e, lines := e.footprint, filled := 1, last := s'.now }
      ({ s' with coh := { s'.coh with resident := s'.coh.resident ++ [r] } }, some true)
    | (s', .demoting) => (s', none)
    | (s', .none) => (s', some false)

/-! Lines of a handle. -/

/-- The attributes HBIND records and later accesses compare: W, TRK, TAGPOL, KEY, STRICT (R320). -/
def attrsCode (a : Attrs) : Nat :=
  (if a.w && a.s2w then 1 else 0) + (if a.trk then 2 else 0) + (if a.strict then 4 else 0) + a.tagpol * 8 + a.key * 64

/-- The place of a requester in the calendar's fixed order (R118): the matrix engine, the two load pipes, the store pipe, the
copy engine, scalar accesses. -/
def calendarRank (cl : Client) (a : Access) : Nat :=
  if cl.who < 1000 then 5 else if cl.who < 2000 then 0 else if cl.who < 3000 then (if a = .store then 3 else if cl.ldp1 then 2 else 1)
  else if cl.who < 4096 then 5 else 4

/-- An access to a line of the own kiln's store takes its place on the calendar network (R116, R117): each line, read or written, takes a
slot of its channel's pair, one or both lines of the pair together; an access that is tried again asks for no second one. -/
def calendarAccess (cl : Client) (line : Nat) (a : Access) : Op Unit := modify fun s =>
  let q : CalReq := { rank := calendarRank cl a, pair := line % 48 / 2, who := cl.who, lines := line / 2, store := a = .store, issued := s.now }
  s.modCore cl.core fun c => if c.calendar.contains q then c else { c with calendar := c.calendar ++ [q] }

/-- Where line n of a handle lies for an access: `none` for a block of a sequence that has no frame yet (Table 5.12). The lines of a
resident tensor lie in the kiln's channels in the tensor's order (log entry 30, DESIGN CHOICE). -/
def handlePlace (cl : Client) (e : HEntry) (n : Nat) (a : Access) (resident : Bool := false) : Op (Option Place) := do
  let s ← get
  let l := e.level
  if l = lvCore then pure (some { line := scratchBase cl.core / 128 + e.locv % 512 * 32 + n, va := 0 })
  else if l = lvKiln then
    let line := e.locv % 2 ^ 17 * 32 + n
    calendarAccess cl line a
    pure (some { line := kilnBase (kilnOf cl.core) / 128 + line, va := 0 })
  else if l = lvPackage then
    let j := n / 32
    let line := (e.locv % 2 ^ 17 + j / 8) * 32 + n % 32
    if j % 8 = kilnOf cl.core then calendarAccess cl line a
    pure (some { line := kilnBase (j % 8) / 128 + line, va := 0 })
  else
    if resident then calendarAccess cl n a
    if l = lvMem then
      let va := (e.locv + n) * 128
      let pl ← placeAt cl va a
      match pl.leaf with
      | some t => if attrsCode t.attrs ≠ e.attrs then raise .bindAttrMismatch (BitVec.ofNat 64 va)
      | none => pure ()
      pure (some pl)
    else
      let per := blockBytes s cl.vd / 128
      let name := e.locv + n / per
      let place := fun (s : State) (f : Nat) =>
        some ({ line := f * 128 + n % per, va := 0, key := seqKey s cl.vd f, vd := cl.vd, name := some name } : Place)
      if a = .store then
        match writeFrame s cl.vd name (mkTag e.fmt vcUndef 127) with
        | .ok (s', f) => set s'; pure (place s' f)
        | .error .noBlock => raise .handleInvalid 3
        | .error (.fault c s') => set s'; raiseKept c 0
        | .error (.wait h s') => throw (.hold h 0 a 0 (some s'))
      else pure ((nameFrame s cl.vd name).bind fun f => place s f)

/-- A mapped frame's line as SQMAP left it reads with the handle's format (R134). -/
def seqTag (e : HEntry) (v : View) : View :=
  if e.level = lvSeq && v.tag = unlistedTag then { v with tag := mkTag e.fmt vcUndef 127 } else v

/-- Whether the kiln keeps its own copy of the line: an untracked MEM tensor that it caches (R141). A line under a window's key it does
not keep: its VD's writes are retained, and its reads see the home (R194, R195). -/
def ownCopies (e : HEntry) (pl : Place) : Bool :=
  e.level = lvMem && !e.tracked && (match pl.key with | some (.window _ _) => false | _ => true)

/-- The copy a kiln keeps of a line, for an access under the key it was read with; under another the line's home decides (R184). -/
def copyOf (s : State) (cl : Client) (e : HEntry) (pl : Place) : Option Copy :=
  if ownCopies e pl then
    match s.coh.resident.find? fun r => r.is (kilnOf cl.core) cl.vd cl.asn e with
    | some r => (SMap.get none r.copies pl.line).filter fun c => c.key = pl.key
    | none => none
  else none

def setCopy (s : State) (cl : Client) (e : HEntry) (line : Nat) (x : Copy) : State :=
  let put := fun (r : Resident) => if r.is (kilnOf cl.core) cl.vd cl.asn e then
    { r with copies := SMap.set none r.copies line (some x) } else r
  { s with coh := { s.coh with resident := s.coh.resident.map put } }

/-- A MEM or SEQ tensor is touched before its line is reached; whether the kiln caches it. -/
def touchFirst (cl : Client) (e : HEntry) : Op Bool := do
  if e.level = lvMem || e.level = lvSeq then
    match touchResident (← get) cl e with
    | (s', some r) => set s'; pure r
    | (s', none) => throw (.wait 0 (some s'))
  else pure false

/-- A line that was written back for room arrives again (R122, R124), if room is found for it; while a demotion makes it, the access
waits. -/
def refillGone (cl : Client) (e : HEntry) (line : Nat) : Op Unit := do
  let s ← get
  let kiln := kilnOf cl.core
  if s.coh.resident.any (fun r => r.is kiln cl.vd cl.asn e && r.gone.contains line) then
    match makeRoom kiln cl.vd 2 (roomFuel s) s with
    | (s', .room) =>
      let back := fun (r : Resident) => if r.is kiln cl.vd cl.asn e then { r with gone := r.gone.erase line } else r
      set { s' with coh := { s'.coh with resident := s'.coh.resident.map back } }
    | (s', .demoting) => throw (.wait 0 (some s'))
    | (s', .none) => set s'

/-- Reach line n of a handle at its place: the kiln's own copy, or the home, of which an untracked tensor's kiln then keeps a copy. -/
def reachLine (cl : Client) (e : HEntry) (pl : Place) (a : Access) (full : Bool) : Op View := do
  match copyOf (← get) cl e pl with
  | some c => pure ⟨if readsZero c.tag then 0 else c.data, c.tag⟩
  | none =>
    let v ← reach cl pl a full
    refillGone cl e pl.line
    if ownCopies e pl then modify fun s => setCopy s cl e pl.line { data := v.data, tag := v.tag, key := pl.key }
    pure (seqTag e v)

/-- Read line n of a handle as a vector load, a copy or an engine does: its place (if any) and what it holds. -/
def readLine (cl : Client) (e : HEntry) (n : Nat) : Op (Option Place × View) := do
  let r ← touchFirst cl e
  match ← handlePlace cl e n .load r with
  | none => pure (none, ⟨0, mkTag e.fmt vcUndef 127⟩)
  | some pl => return (some pl, ← reachLine cl e pl .load false)

/-- Reach line n of a handle for a write, of the whole line if `full`: its place and what it holds before. -/
def openLine (cl : Client) (e : HEntry) (n : Nat) (full : Bool := false) : Op (Place × View) := do
  let r ← touchFirst cl e
  match ← handlePlace cl e n .store r with
  | none => raise .handleInvalid 3
  | some pl => return (pl, ← reachLine cl e pl .store full)

/-- A mask widened to whole words of 4 bytes, in which concurrent writers' bytes end (R170). -/
def wordMask (m : BitVec 128) : BitVec 128 :=
  BitVec.ofNat 128 ((List.range 32).foldl (fun a j => if m.extractLsb' (4 * j) 4 = 0 then a else a + 15 * 2 ^ (4 * j)) 0)

/-- A cached tensor's other line makes room, when no victim is left: the first of its lines but one, written back and dropped (R124). -/
def dropOther (s : State) (r : Resident) (line : Nat) : Option State :=
  ((jobLines s (24 * r.kiln) r.vd r.asn r.e).find? fun x => x.2 ≠ line && !r.gone.contains x.2).map fun x =>
    let s := landCopies s r fun l => l = x.2
    let out := { r with gone := x.2 :: r.gone, copies := r.copies.filter fun y => y.1 ≠ x.2 }
    { s with coh := { s.coh with resident := s.coh.resident.map fun y => if y = r then out else y } }

/-- A half line that a write fills again needs 64 bytes more of its kiln's store; the write waits until they are found (R124). `v` is what
the store holds of the line, for a tensor that p selects. -/
def refillRoom (p : Resident → Bool) (line : Nat) (v : View) (data : BitVec 1024) (m : BitVec 128) (t : Tag) : Op Unit := do
  let s ← get
  match s.coh.resident.find? fun r => p r && halfLine r.e.fmt0 v.data v.tag && !halfLine r.e.fmt0 (mergeBytes v.data data m) t with
  | none => pure ()
  | some r =>
    match makeRoom r.kiln r.vd 1 (roomFuel s) s with
    | (s', .room) => set s'
    | (s', .demoting) => throw (.wait 0 (some s'))
    | (s', .none) =>
      match (s'.coh.resident.find? fun y => y = r).bind fun r => dropOther s' r line with
      | some s' => set s'
      | none => throw (.wait 0 (some s'))

/-- Write a line of a handle with the bytes and tag it ends with: into the kiln's own copy, or through the place. -/
def closeLine (cl : Client) (e : HEntry) (pl : Place) (v : View) (data : BitVec 1024) (m : BitVec 128) (t : Tag) : Op Unit := do
  refillRoom (fun r => r.is (kilnOf cl.core) cl.vd cl.asn e) pl.line v data m t
  match copyOf (← get) cl e pl with
  | some c =>
    dirtyFirst cl pl
    modify fun s => setCopy s cl e pl.line { c with
      data := mergeBytes v.data data m, tag := t, dirty := c.dirty ||| wordMask m,
      writers := if cl.who < 3000 then fenceId s (cl.who % 1000) :: c.writers.filter (· ≠ fenceId s (cl.who % 1000)) else c.writers }
  | none => performWrite cl pl data m t true

/-! Engines' tenure (R155, R156). -/

/-- Take implicit tenure of the cells an access touches, or use the task's own. -/
def engineTenure (cl : Client) (h : Holder) (e : HEntry) (cells : List Nat) (write : Bool) (etval : Word) : Op Unit := do
  let s ← get
  match tensorId cl.core cl.vd cl.asn e with
  | none => pure ()
  | some id =>
    let r := { cl.asks s.now (if write then .write else .read) (cellKeys s cl.vd e cells) etval with task := h.task, cols := gridCols e }
    match s.implicit id r h with
    | .go s' => set s'
    | .wait s' => set s'; waitKeep
    | .sealed => raise .permission etval

/-- A line write's grid cells: those of the line's elements at the handle's width. -/
def cellsOfLine (e : HEntry) (n : Nat) : List Nat :=
  let per := 1024 / e.width
  let x := e.shp
  ((List.range ((per + 63) / 64)).map fun j => cellOfElem x (n * per + 64 * j)).eraseDups

/-- Whether a handle of a vector or copy instruction may be used: feature SEQ for a SEQ handle (Table 20.5). -/
def seqAllowed (s : State) (vd : Nat) (e : HEntry) : Bool :=
  e.level ≠ lvSeq || ((s.vd vd).featacc.getLsbD 1 && (s.vd vd).lock)

/-! Freeing (R166). -/

/-- Give up everything a handle holds in its tensor's directory. -/
def releaseAll (s : State) (core vd asn : Nat) (e : HEntry) (h : Holder) : State :=
  match tensorId core vd asn e with
  | none => s
  | some id =>
    let d := s.dir id
    if d.cells.isEmpty && d.queue.isEmpty then s
    else s.setDir { d with cells := d.cells.foldl (fun m x => SMap.set {} m x.1 (x.2.release h)) d.cells }

/-- Whether some other valid handle of the kiln binds the same tensor. -/
def boundElsewhere (s : State) (r : Resident) (owner : Nat) : Bool := (binders s r).any fun x => x.2.2.owner ≠ owner

/-! A scalar store by address. -/

/-- A write by address to a line of a cached tracked tensor fills a half line there (R124). -/
def refillByAddress (cl : Client) (pl : Place) (v : View) (data : BitVec 1024) (m : BitVec 128) (t : Tag) : Op Unit :=
  let n := pl.va.toNat / 128
  refillRoom (fun r => r.vd = cl.vd && r.asn = cl.asn && r.e.level = lvMem && r.e.tracked && decide (r.e.locv ≤ n) &&
    decide (n < r.e.locv + r.e.footprint)) pl.line v data m t

/-- A run of a store within one line: where, its first byte and length there, what the line holds, and its bytes in place. -/
structure Piece where
  pl : Place
  off : Nat
  n : Nat
  view : View
  data : BitVec 1024 := 0

/-- The mask of a run's bytes, and the tag they leave. -/
def Piece.mask (p : Piece) : BitVec 128 := byteMask p.off p.n
def Piece.tag (p : Piece) : Tag := untaggedTag p.view.tag p.pl.pol

/-- The runs of a store reached and checked in order; x holds the bytes of all. -/
def storePieces (cl : Client) (a : Access) : List (Nat × Nat) → Nat → Op (List Piece)
  | [], _ => pure []
  | (va, n) :: rest, x => do
    let pl ← placeAt cl va a
    let v ← reach cl pl a
    if vcPoisoned (tagVc v.tag) then raiseKept .poisonConsumed (BitVec.ofNat 64 va)
    let p : Piece := { pl := pl, off := va % 128, n := n, view := v, data := BitVec.ofNat 1024 (x % 2 ^ (8 * n) * 2 ^ (8 * (va % 128))) }
    return p :: (← storePieces cl a rest (x / 2 ^ (8 * n)))

/-- A scalar store of the n low bytes of x (R298 to R300): every byte is checked, and every run made ready, before any is written. Of one
that crosses two lines the first is translated and checked before the second is translated (log entry 48, DESIGN CHOICE). -/
def storeScalar (cl : Client) (va n x : Nat) (a : Access) : Op Unit := do
  let ps ← storePieces cl a (runsOf va n) x
  scalarTenure cl va n true
  watch cl 1 va (va + n) none
  ps.forM fun p => refillByAddress cl p.pl p.view p.data p.mask p.tag
  ps.forM fun p => readyWrite cl p.pl ps.length
  ps.forM fun p => do
    coherent cl p.pl p.off p.n true
    performWrite cl p.pl p.data p.mask p.tag false

/-- A handle gives up its part of its kiln's cached tensor (R166, R324): its dirty lines are written back; the last handle's tensor, or one
that is evicted, is dropped. -/
def dropResident (s : State) (core vd asn : Nat) (e : HEntry) (shared : Bool := false) : State :=
  match s.coh.resident.find? fun r => r.is (kilnOf core) vd asn e with
  | none => s
  | some r =>
    if shared && boundElsewhere s r e.owner then
      writeBack s r fun _ => true
    else evict s r

/-- Give up what an entry holds: its tenures and copies, its dirty lines, its granules. -/
def freeEntry (s : State) (core vd asn : Nat) (e : HEntry) (h : Holder) : State :=
  if !e.valid then s
  else
    let s := releaseAll s core vd asn e h
    if e.level = lvMem || e.level = lvSeq then dropResident s core vd asn e true
    else (granulesOf core e).foldl (fun s g => s.setOwner core g {}) s

/-- A queue's entries that wait on a handle have lost it. -/
def loseEntries (h : BitVec 6) (q : List QItem) : List QItem :=
  q.map fun i => match i with
    | .entry e => .entry (if e.waiting && waitsOn e.instr = some h then { e with lost := some h } else e)
    | .mode m e => .mode m e
    | .marker k => .marker k

/-- A stream that waits on a handle of its task has lost it. -/
def loseHandle (h : BitVec 6) (c : Ctx) : Ctx :=
  let mine := match decodeWord c.ir with | .ok i => waitsOn i = some h | .unassigned => false | .illegal _ => false
  { c with vq := loseEntries h c.vq, lost := if c.waitSince.isSome && mine then some h else c.lost }

/-- What waits on a handle that is freed ends with HANDLE_INVALID, its requests gone from every queue (R314, R318). -/
def endWaits (s : State) (t : Nat) (h : BitVec 6) : State :=
  match s.task t with
  | none => s
  | some x =>
    let ks := x.xctx.toList ++ x.actx.toList
    let s := ks.foldl (fun s k => s.modCtx k (loseHandle h)) (s.setTask t (some { x with mq := loseEntries h x.mq }))
    let gone := fun (q : List QItem) => q.any fun i => match i with | .entry e => e.lost.isSome | .mode _ _ => false | .marker _ => false
    s.dropRequests fun r => ks.any fun k => (r.who = k && (s.ctx k).lost.isSome) || (r.who = 2000 + k && gone (s.ctx k).vq) ||
      (r.who = 1000 + k && gone (match s.task t with | some x => x.mq | none => []))

/-- Free a handle, and its entry. -/
def freeHandle (s : State) (core idx vd asn : Nat) (h : Holder) : State :=
  endWaits ((freeEntry s core vd asn (s.entry core idx) h).setEntry core idx {}) h.task (BitVec.ofNat 6 h.h)

end Sys2Proof.Machine
end

