-- ==== Sys2Proof/Machine/Suspend.lean ====
section
/-!
DEFINITION. Sys2Proof/Machine/Suspend.lean: continuation records and frames (Tables 9.1 to 9.11), what a suspension point
leaves of a task's streams (R240), and leaving the stoker (R241 to R245).
-/

namespace Sys2Proof.Machine

open Sys2Proof

/-! Records. -/

def Status.code : Status → Nat
  | .ready => 0 | .running => 1 | .suspended => 2 | .done => 3 | .discarded => 4
def Reason.code : Reason → Nat
  | .none => 0 | .swait => 1 | .mwait => 2 | .yield => 3 | .suspend => 4 | .preempted => 5 | .energy => 6

/-- The state word of a CR (Table 9.3). -/
def Task.stateWord (t : Task) : Nat :=
  t.status.code * 2 ^ 60 + t.reason.code * 2 ^ 56 + t.prio % 8 * 2 ^ 53 + t.vd % 64 * 2 ^ 47 +
    (if t.av then t.core % 256 * 2 ^ 39 + 2 ^ 38 else 0) + t.asn % 256 * 2 ^ 30 + (if t.accessFlag then 2 ^ 29 else 0) +
    (if t.cord then 2 ^ 28 else 0) + (if t.pre then 2 ^ 27 else 0) + (if t.wspill then 2 ^ 26 else 0)

/-- The eight words of a CR (Tables 9.1 to 9.6). -/
def Task.crWords (t : Task) : List Nat :=
  [t.xpc.toNat, t.apc.toNat, t.arg.toNat, t.lid % 2 ^ 32 * 2 ^ 32 + t.rank % 256 * 2 ^ 24 + t.index % 2 ^ 24, t.stateWord,
    t.frame.toNat, t.waitObj.toNat,
    (if t.wspill then 0 else t.win % 16 * 2 ^ 60) + (if t.cord then t.cszm1 % 32 * 2 ^ 55 else 0) + t.energy % 2 ^ 32]

/-- The flue writes a task's CR (R232); how the write ends. -/
def writeCr (t : Task) : Op Unit := agentWrite (partClient t.core t.vd t.asn) t.cr.toNat (wordBytes t.crWords)

/-- How a read or write of the part ended. -/
inductive AgentEnd where
  | done | faulted | waits
  deriving DecidableEq, Repr

/-- Take an access of the part as far as it goes. -/
def agentTry {α : Type} (op : Op α) (s : State) : State × AgentEnd × Option α :=
  match op s with
  | .ok (x, s') => (s', .done, some x)
  | .error (.fault _ s') => (s'.getD s, .faulted, none)
  | .error (.wait _ s') => (s'.getD s, .waits, none)
  | .error (.hold _ _ _ _ s') => (s'.getD s, .waits, none)

/-- A CR write of the flue: a fault is recorded (R507). -/
def flueCr (s : State) (t : Task) : State × AgentEnd :=
  match agentTry (writeCr t) s with
  | (s', .faulted, _) => (errorRecord s' t.vd 6 0 0 t.lid t.cr 0, .faulted)
  | (s', e, _) => (s', e)

/-! The frame (Table 9.10). -/

/-- A row's 256 bytes. -/
def rowBytes (r : Row) : List Byte := r.data.toList.flatMap fun x => bytesOfNat 4 x.toNat

/-- The occupied slots of a tagged queue, with their rows. -/
def TagQueue.slots (q : TagQueue) : List (Nat × Row) := (q.rows.zipIdx).map fun x => ((q.head + x.2) % 16, x.1)

/-- The queue-state word (Table 9.11). -/
def TagQueue.word (q : TagQueue) : Nat := q.rows.length % 32 * 16 + q.head % 16

/-- Entry words in order. -/
def HEntry.words (e : HEntry) : List Nat := [e.sync.toNat, e.info.toNat, e.shape.toNat, e.loc.toNat]

/-- s1 to s8 of a stream. -/
def Ctx.s1to8 (c : Ctx) : List Nat := (List.range 8).map fun j => (c.s (BitVec.ofNat 6 (j + 1))).toNat

/-- The window of a task, in entry order. -/
def windowOf (s : State) (core win : Nat) : List HEntry := (List.range 64).map fun h => s.entry core (entryIndex win h)

/-- Write the frame of a task that leaves its stoker: its live streams' s1 to s8, the queues, and the window if it goes along. -/
def writeFrame16 (t : Task) (x : Ctx) (a : Option Ctx) (spill : Bool) : Op Unit := do
  let cl := partClient t.core t.vd t.asn
  let f := t.frame.toNat
  let s ← get
  agentWrite cl f (wordBytes (x.s1to8 ++ (match a with | some c => c.s1to8 | none => List.replicate 8 0) ++
    t.queues.toList.map TagQueue.word ++ List.replicate 12 0))
  if spill then agentWrite cl (f + 0x200) (wordBytes ((windowOf s t.core t.win).flatMap HEntry.words))
  (t.queues.toList.zipIdx).forM fun q => q.1.slots.forM fun r => do
    agentWrite cl (f + 0x100 + 0x40 * q.2 + 4 * r.1) (bytesOfNat 4 r.2.tag.toNat)
    agentWrite cl (f + 0xA00 + 0x1000 * q.2 + 0x100 * r.1) (rowBytes r.2)

/-! Suspension points. -/

/-- What a stream keeps at a suspension point (R240): s1 to s8, its PC, and what makes it this stream. -/
def deadCtx (c : Ctx) : Ctx :=
  { mode := c.mode, live := c.live, task := c.task, access := c.access, halted := c.halted, stopped := c.stopped,
    stepping := c.stepping, vd := c.vd, asn := c.asn, pc := c.pc, faulted := c.faulted, markers := c.markers,
    hold := c.hold, waitSince := c.waitSince, lost := c.lost, progress := c.progress, fetched := c.fetched, ir := c.ir, vq := c.vq,
    regs := Vector.ofFn fun (j : Fin 64) => if 1 ≤ j.val ∧ j.val ≤ 8 then c.regs[j] else 0 }

/-- The partition of a stream's core whose applied record owns its stoker: 1 for record 1, else 0 (R469). -/
def partOf (s : State) (k : Nat) : Nat :=
  let a := (s.core (coreOf k)).part1A
  if bit a 0 && bit a (19 + stkOf k) then 1 else 0

/-- Word A of that record; 0 when neither owns the stoker. -/
def partRecord (s : State) (k : Nat) : Word :=
  let c := s.core (coreOf k)
  if partOf s k = 1 then c.part1A
  else if bit c.part0A 0 && bit c.part0A (19 + stkOf k) then c.part0A else 0

/-- The stoker's partition owns a copy channel (Table 20.8). -/
def channelOwned (s : State) (k ch : Nat) : Bool := bit (partRecord s k) (23 + ch)

/-- An instruction that names a channel the stoker's partition does not own raises PIPE_NOT_OWNED (R397). -/
def ownsChannel (k ch : Nat) : Op Unit := do
  let s ← get
  require (channelOwned s k ch) .pipeNotOwned (s.ctx k).ir

/-- The matrix tiles of a partition read zero (R240, R375); the holder gives the engine up. -/
def clearTiles (s : State) (core part : Nat) : State :=
  s.modCore core fun c =>
    let c := { c with acc := c.acc.filter fun x => x.1 / 2 ^ 20 ≠ part }
    if part = 0 then { c with holder0 := none } else { c with holder1 := none }

/-- The tiles a task names read zero, when it holds the engine or kept them across a pre-emption. -/
def clearOwnTiles (s : State) (core task : Nat) : State :=
  let s := s.modTask task fun x => { x with savedAcc := [] }
  let s := if (s.core core).holder0 = some task then clearTiles s core 0 else s
  if (s.core core).holder1 = some task then clearTiles s core 1 else s

/-- The state both streams are left in by a suspension point, whether or not the task moves. -/
def deadState (s : State) (t : Nat) (x : Task) : State :=
  let s := match x.xctx with | some k => s.modCtx k deadCtx | none => s
  let s := match x.actx with | some k => s.modCtx k deadCtx | none => s
  (clearOwnTiles s x.core t).modTask t fun x => { x with mqMode := 0, cur := false }

/-- A transfer the task has issued is unretired on its core. -/
def unretired (s : State) (core t : Nat) : Bool :=
  (s.core core).chans.toList.any fun ch => ch.transfers.any fun x => x.task = t && x.state = .pending

/-- The engine queues of a task are empty. -/
def queuesEmpty (s : State) (x : Task) : Bool :=
  let e := fun (k : Option Nat) => match k with | some k => (s.ctx k).vq.isEmpty | none => true
  e x.xctx && e x.actx && x.mq.isEmpty

/-- The task may pass a suspension point: its queues have completed, no fault of it is unserved (R445), and its access stream is
at a boundary, outside delay slots (R241). -/
def mayPass (s : State) (x : Task) : Bool :=
  queuesEmpty s x && !(x.xctx.toList ++ x.actx.toList).any fun j => (s.ctx j).faulted || (x.actx = some j && (s.ctx j).pend.isSome)

/-- Return what is left of a run's reservation to the account (R453). -/
def returnEbud (s : State) (t : Nat) : State :=
  match s.task t with
  | none => s
  | some x => (s.modVd x.vd fun v => { v with rem := v.rem + x.ebud }).setTask t (some { x with ebud := 0 })

/-- The CORE handles of a window keep it on its core (R244). -/
def keepsWindow (hs : List HEntry) : Bool := hs.any fun e => e.valid && e.level = lvCore

/-- The markers of a stream that have not reached their queue's head (R308). -/
def liveMarkers (s : State) (k : Nat) : List Marker :=
  let c := s.ctx k
  let mq := match c.task with | some t => (match s.task t with | some x => x.mq | none => []) | none => []
  c.markers.filter fun m =>
    if m.queue = 0 then c.vq.contains (.marker k)
    else if m.queue = 1 then mq.contains (.marker k)
    else match (s.core (coreOf k)).chans.toList[m.queue - 2]? with
      | none => false
      | some ch => ch.transfers.any fun x => some x.task = c.task && decide (x.num < m.below) && x.state = .pending

/-- The PC of a task's access stream, 0 when it has none that is live (Table 9.1). -/
def Task.accessPc (x : Task) (s : State) : Word :=
  (x.actx.map fun j => if (s.ctx j).halted then 0 else (s.ctx j).pc).getD 0

/-- The wait object of MWAIT for a time that ends, if it does, at a cycle: what remains of it at the write of the CR, in units of 4,096
cycles, and the cycle the task becomes ready at (R304, Table 9.5). -/
def mwaitObj (now : Nat) (end_ : Option Nat) (m : Monitor) : Word × Option Nat :=
  let units := match end_ with | some e => (e - now + 4095) / 4096 | none => 0
  (BitVec.ofNat 64 (2 * 2 ^ 61 + units * 2 ^ 49 + m.va.toNat / 128 % 2 ^ 49), end_.map fun _ => now + 4096 * units)

/-- The task as its CR records it when it leaves stoker k for a reason (Tables 9.4, 9.5): the streams' PCs, what it waits for, affinity. -/
def leavingTask (s : State) (t : Nat) (x : Task) (k : Nat) (reason : Reason) (obj : Word) (until_ : Option Nat) (m : Option Monitor) : Task :=
  let hs := windowOf s x.core x.win
  let (obj, until_) := match reason, m with | .mwait, some m => mwaitObj s.now until_ m | _, _ => (obj, until_)
  { x with
    xpc := (s.ctx k).pc + 8, apc := x.accessPc s,
    status := if reason = .yield then .ready else .suspended,
    reason := reason, waitObj := obj, waitUntil := until_, monitor := m, wspill := !keepsWindow hs, pre := false,
    av := keepsWindow hs || x.cord || unretired s x.core t, xctx := none, actx := none, readySince := s.now, mqMode := 0, cur := false,
    preReq := false, preqReg := false, savedAcc := [],
    markers := liveMarkers s k,
    kept := if keepsWindow hs then [] else (hs.zipIdx.filter fun e => e.1.valid).map fun e => (e.2, e.1) }

/-- The window goes to the frame, its credits redirected to the task (R244): in the kiln of the core it leaves, whose owner tags it holds. -/
def spillWindow (s : State) (t : Nat) (x : Task) (hs : List HEntry) : State :=
  (hs.zipIdx).foldl (fun s e =>
    let s := if e.1.valid then s.modKiln (kilnOf x.core) fun y =>
      { y with redirect := SMap.set { task := 0, h := 0 } y.redirect e.1.owner { task := t, h := e.2 } } else s
    s.setEntry x.core (entryIndex x.win e.2) {}) s

/-- A task's window is in its place again, or gone: nothing is redirected to its frame any longer (R244). -/
def clearRedirects (s : State) (t : Nat) : State :=
  { s with kilns := s.kilns.map fun y => (y.1, { y.2 with redirect := y.2.redirect.filter fun r => r.2.task ≠ t }) }

/-- The requesters of a stream: itself, its task's matrix queue, its vector queue. -/
def requestersOf (k : Nat) : List Nat := [k, 1000 + k, 2000 + k]

/-- Where the requests of a task's stream stand while the task has no stoker: `j` 0 the execute stream, 1 the access stream. -/
def parkedWho (t j q : Nat) : Nat := 6 * 2 ^ 100 + 6 * t + 3 * j + q

/-- What a task's streams still ask for in the directories is gone with them. -/
def leaveAll (s : State) (t : Nat) (ks : List Nat) : State :=
  s.dropRequests fun r => r.who / 6 = parkedWho t 0 0 / 6 || ks.any fun k => (requestersOf k).contains r.who

/-- A task that leaves its stokers leaves the directories' queues, but for the requests whose wait ended in a fault: those keep their places
(R165). -/
def parkRequests (s : State) (t : Nat) (ks : List Nat) : State :=
  let s := s.dropRequests fun r => !r.timedOut && ks.any fun k => (requestersOf k).contains r.who
  ks.zipIdx.foldl (fun s x => (requestersOf x.1).zipIdx.foldl (fun s y => s.renameRequests y.1 (parkedWho t x.2 y.2)) s) s

/-- The task is back, and with it the requests that kept their places. -/
def unparkRequests (s : State) (t : Nat) (ks : List Nat) : State :=
  ks.zipIdx.foldl (fun s x => (requestersOf x.1).zipIdx.foldl (fun s y => s.renameRequests (parkedWho t x.2 y.2) y.1) s) s

/-- What is left when task x has gone from stoker k as x': its tiles zero, both stokers free, the window spilled unless a CORE
handle keeps it, the energy returned, its requests parked, a task that yields back in its ready queue. -/
def leftState (s : State) (t : Nat) (x x' : Task) (k : Nat) (hs : List HEntry) : State :=
  let s := (clearOwnTiles s x.core t).setCtx k {}
  let s := match x.actx with | some j => s.setCtx j {} | none => s
  let s := if keepsWindow hs then s else spillWindow s t x hs
  let s := parkRequests s t (k :: x.actx.toList)
  let s := returnEbud (s.setTask t (some x')) t
  if x'.reason = .yield then s.modKiln x.kiln fun y => { y with ready := y.ready ++ [t] } else s

/-- The frame, then the CR, of a leaving task are written. -/
def writeLeaving (x x' : Task) (c : Ctx) (a : Option Ctx) (spill : Bool) : Op Unit := do
  writeFrame16 x c a spill
  writeCr x'

/-- Leave the stoker (R241 to R245): the frame, then the CR, are written; both stokers fall free; a window without a valid
CORE handle goes to the frame, its credits redirected (R244). -/
def leaveStoker (t : Nat) (x : Task) (k : Nat) (reason : Reason) (obj : Word) (until_ : Option Nat) (m : Option Monitor) :
    Op Unit := do
  let s ← get
  let hs := windowOf s x.core x.win
  let x' := leavingTask s t x k reason obj until_ m
  writeLeaving x x' (s.ctx k) ((x.actx.map s.ctx).filter fun c => !c.halted) (!keepsWindow hs)
  modify fun s => leftState s t x x' k hs

/-- A queue transfer that a stream has issued and that has not completed. -/
def QItem.transfer : QItem → Bool
  | .entry e => (match e.instr with | .vqpush _ _ _ _ => true | .vqpop _ _ _ _ => true | _ => false)
  | .mode _ _ => false
  | .marker _ => false

/-- A queue transfer of the access stream that waits is abandoned at a suspension point (Table 15.7). -/
def abandonTransfer (s : State) (x : Task) : State :=
  match x.actx with
  | none => s
  | some j => s.modCtx j fun c => match c.vq with
    | .entry e :: q => if (QItem.entry e).transfer && e.waiting then { c with vq := q } else c
    | _ => c

/-- A fault met while the frame or the CR is written: the suspension point has not taken effect, and is performed anew (R243). -/
def notLeft (t : Nat) (op : Op Flow) : Op Flow := fun s =>
  match op s with
  | .error (.fault f s') => .error (.fault f (some ((s'.getD s).modTask t fun y => { y with reason := .none, monitor := none })))
  | r => r

/-- A suspension point of the execute stream whose condition does not hold, or YIELD (Table 9.9): the queues complete first,
the task meanwhile standing at it; then it leaves. -/
def suspendPoint (k : Nat) (reason : Reason) (obj : Word) (until_ : Option Nat) (m : Option Monitor) : Op Flow := do
  let (t, x) ← myTask k
  modify fun s => abandonTransfer s x
  let s ← get
  if mayPass s x then
    notLeft t do
      leaveStoker t x k reason obj until_ m
      pure .stay
  else
    modify fun s => s.modTask t fun y => { y with reason := reason, waitObj := obj, waitUntil := until_, monitor := m }
    waitKeep

/-- A stream's instruction is a suspension point that its task has begun to leave by: a condition that comes to hold meanwhile no longer
keeps it (R241). -/
def leavingPoint (s : State) (k : Nat) : Option Task :=
  match (s.ctx k).task.bind s.task with
  | some x => if x.xctx = some k && !(s.ctx k).access && x.reason ≠ .none then some x else none
  | none => none

/-- A suspension point: the leaving that is under way goes on as it began; else the point decides. -/
def atPoint (k : Nat) (op : Op Flow) : Op Flow := do
  match leavingPoint (← get) k with
  | some x => suspendPoint k x.reason x.waitObj x.waitUntil x.monitor
  | none => op

/-- A suspension point whose condition holds already: the task stays, its streams' other state dead. -/
def passPoint (k : Nat) : Op Flow := do
  let (t, x) ← myTask k
  modify fun s => abandonTransfer s x
  if !mayPass (← get) x then waitKeep
  modify fun s => (deadState s t x).modTask t fun y => { y with reason := .none, monitor := none }
  pure .on

end Sys2Proof.Machine
end

