-- ==== Sys2Proof/Machine/Control.lean ====
section
/-!
DEFINITION. Sys2Proof/Machine/Control.lean: branches (R287 to R290), the strip-mine branch (R291, R292), HALT, YIELD and
SUSPEND (R294, R295).
-/

namespace Sys2Proof.Machine

open Sys2Proof

def execNop (c : Ctl) (s : State) : Host.Outcome State Fault Refusal := issue (.nop c) s (onCtx fun x => x)

def execPbr (c : Ctl) (bt : BitVec 2) (tgt : PbrTarget) (s : State) : Host.Outcome State Fault Refusal :=
  issue (.pbr c bt tgt) s fun k => do
    let x := (← get).ctx k
    match tgt with
    | .rel imm => modify fun s => s.modCtx k fun x => x.setB bt (pcTarget x.pc imm)
    | .reg ra =>
      require (x.s ra % 8 = 0) .illegalOp (x.s ra)
      modify fun s => s.modCtx k fun x => x.setB bt (x.s ra)
    pure .on

/-- A performed transfer to a target after d delay slots (R289). -/
def transfer (k : Nat) (target : Word) (d : BitVec 2) : Op Flow := do
  if d = 0 then pure (.jump target)
  else
    let x := (← get).ctx k
    modify fun s => s.modCtx k fun x => { x with pend := some { target := target, slots := d.toNat } }
    pure (.jump (x.pc + 8))

def execBr (c : Ctl) (bt : BitVec 2) (d : BitVec 2) (s : State) : Host.Outcome State Fault Refusal :=
  issue (.br c bt d) s fun k => do transfer k (((← get).ctx k).b bt) d

def execCall (c : Ctl) (rd : BitVec 6) (bt : BitVec 2) (d : BitVec 2) (s : State) : Host.Outcome State Fault Refusal :=
  issue (.call c rd bt d) s fun k => do
    let x := (← get).ctx k
    modify fun s => s.modCtx k fun x => x.setS rd (x.pc + 8 * (d.setWidth 64 + 1))
    transfer k (x.b bt) d

def execRet (c : Ctl) (ra : BitVec 6) (d : BitVec 2) (s : State) : Host.Outcome State Fault Refusal :=
  issue (.ret c ra d) s fun k => do
    let a := ((← get).ctx k).s ra
    require (a % 8 = 0) .illegalOp a
    transfer k a d

def execBsm (c : Ctl) (ra : BitVec 6) (imm : BitVec 26) (s : State) : Host.Outcome State Fault Refusal :=
  issue (.bsm c ra imm) s fun k => do
    let x := (← get).ctx k
    let r := x.s ra
    if r.sle 0 then
      modify fun s => s.modCtx k fun x => { x with smpc := 0, smprev := 0, smcnt := 0 }
      pure .on
    else
      let g : Word := if r.slt 64 then r else 64
      let again := x.smpc = x.pc && x.smprev.sle r
      if again && x.smcnt = 1 then raise .noProgress (BitVec.ofNat 64 (g.toNat * 2 ^ 56 + x.pc.toNat))
      modify fun s => s.modCtx k fun x =>
        { x with smpc := x.pc, smcnt := if again then 1 else 0, smprev := r, vl := g }
      pure (.jump (pcTarget x.pc imm))

def execBsmT (c : Ctl) (ra : BitVec 6) (imm : BitVec 26) (s : State) : Host.Outcome State Fault Refusal :=
  issue (.bsmT c ra imm) s fun k => do
    let x := (← get).ctx k
    let r := x.s ra
    modify fun s => s.modCtx k fun x => { x with smpc := 0, smprev := 0, smcnt := 0 }
    if r.sle 0 then pure (.jump (pcTarget x.pc imm))
    else
      modify fun s => s.modCtx k fun x => { x with vl := if r.slt 64 then r else 64 }
      pure .on

/-- HALT (R237): the execute stream ends its task, the access stream stopping with it and queued rows discarded; the access
stream ends itself, its stoker free once its vector queue has drained. -/
def haltStream (k : Nat) : Op Flow := do
  let (t, x) ← myTask k
  let c := (← get).ctx k
  if c.access then
    modify fun s => s.modTask t fun y => { y with apc := 0 }
    if c.vq.isEmpty then modify fun s => (s.setCtx k {}).modTask t fun y => { y with actx := none }
    else modify fun s => s.modCtx k fun y => { y with halted := true }
  else
    modify fun s => s.modCtx k fun y => { y with halted := true }
    match x.actx with
    | some j => modify fun s => s.modCtx j fun y => { y with halted := true }
    | none => pure ()
  pure .stay

def execHalt (c : Ctl) (s : State) : Host.Outcome State Fault Refusal := issue (.halt c) s haltStream

def execYield (c : Ctl) (s : State) : Host.Outcome State Fault Refusal :=
  issue (.yield c) s fun k => suspendPoint k .yield 0 none none

/-- SUSPEND until a deadline, which the wait object holds as at most 2^61 − 1 (R295, Tables 9.5, 9.9). -/
def suspendUntil (k deadline : Nat) : Op Flow := do
  let s ← get
  let held := min deadline (2 ^ 61 - 1)
  if s.now < deadline then suspendPoint k .suspend (BitVec.ofNat 64 (3 * 2 ^ 61 + held)) (some held) none
  else passPoint k

def execSuspend (c : Ctl) (ra : BitVec 6) (s : State) : Host.Outcome State Fault Refusal :=
  issue (.suspend c ra) s fun k => atPoint k do suspendUntil k (((← get).ctx k).s ra).toNat

def execSuspendRel (c : Ctl) (ra : BitVec 6) (s : State) : Host.Outcome State Fault Refusal :=
  issue (.suspendRel c ra) s fun k => atPoint k do
    let s ← get
    suspendUntil k (s.now + ((s.ctx k).s ra).toNat)

end Sys2Proof.Machine
end

