-- ==== Sys2Proof/Machine/SpecialFn.lean ====
section
/-!
DEFINITION. Sys2Proof/Machine/SpecialFn.lean: the special functions correctly rounded to F32 (R369, R370). A value that is
not a ratio is bracketed in fixed point, at growing precision, until both ends of the bracket round alike; it is then
replaced by an exact value inside the bracket, which rounds the same (log entry 23, UNVERIFIED).
-/

namespace Sys2Proof.Machine

open Sys2Proof

/-- Integer square root: bits from the highest down. -/
def isqrtFrom (n : Nat) : Nat → Nat → Nat
  | 0, r => r
  | b + 1, r => isqrtFrom n b (if (r + 2 ^ b) * (r + 2 ^ b) ≤ n then r + 2 ^ b else r)
def isqrt (n : Nat) : Nat := isqrtFrom n (n.log2 / 2 + 1) 0

/-- Σ t/(i·d^j) over odd i, with alternating signs or not, at a scale: a floor series with its number of terms. -/
def oddSeries (d : Nat) (alt : Bool) : Nat → Nat → Nat → Int → Int
  | 0, _, _, acc => acc
  | fuel + 1, t, i, acc =>
    let x : Int := t / i
    oddSeries d alt fuel (t / d) (i + 2) (acc + (if alt && i % 4 = 3 then -x else x))

/-- atanh(1/n) and atan(1/n), scaled by 2^p, each within the number of terms (at most p) of the true value. -/
def atanhInv (n p : Nat) : Int := oddSeries (n * n) false p (2 ^ p / n) 1 0
def atanInv (n p : Nat) : Int := oddSeries (n * n) true p (2 ^ p / n) 1 0

/-- ln 2 = 2·atanh(1/3) and π = 16·atan(1/5) − 4·atan(1/239), within 8p and 80p units of 2^−p. -/
def ln2Fix (p : Nat) : Int := 2 * atanhInv 3 p
def piFix (p : Nat) : Int := 16 * atanInv 5 p - 4 * atanInv 239 p

/-- Σ over k of ±x^k/k! from a first term, stepping by one or two powers, at scale 2^p. -/
def facSeries (x2 : Int) (p step : Nat) (alt : Bool) : Nat → Nat → Int → Int → Int
  | 0, _, _, acc => acc
  | fuel + 1, k, t, acc =>
    let d : Int := if step = 1 then k + 1 else (k + 1) * (k + 2)
    let t' := t * x2 / (2 ^ p : Nat) / d
    facSeries x2 p step alt fuel (k + step) (if alt then -t' else t') (acc + (if alt then -t' else t'))

/-- e^x, sin x, cos x for 0 ≤ x < 2 at scale 2^p, within p units. -/
def expFix (x : Int) (p : Nat) : Int := facSeries x p 1 false p 0 (2 ^ p : Nat) (2 ^ p : Nat)
def sinFix (x : Int) (p : Nat) : Int := facSeries (x * x / (2 ^ p : Nat)) p 2 true p 1 x x
def cosFix (x : Int) (p : Nat) : Int := facSeries (x * x / (2 ^ p : Nat)) p 2 true p 0 (2 ^ p : Nat) (2 ^ p : Nat)

/-- A signed fixed-point number as an exact value. -/
def fixNum (v : Int) (e : Int) : FNum := .fin (decide (v < 0)) v.natAbs e

/-- Double the precision until the two ends of the bracket [v − err, v + err]·2^e round alike in F32; the answer lies off
every representable value. -/
def bracket (f : Nat → Int × Int × Int) : Nat → Nat → FNum
  | 0, p => let (v, _, e) := f p; fixNum (2 * v + 1) (e - 1)
  | fuel + 1, p =>
    let (v, err, e) := f p
    if (finish .f32 .rne (fixNum (v - err) e)).1 = (finish .f32 .rne (fixNum (v + err) e)).1 && decide (err < v.natAbs) then
      fixNum (2 * v + 1) (e - 1)
    else bracket f fuel (2 * p)

/-- ±m·2^e at scale 2^p, rounded down in magnitude. -/
def toFix (m : Nat) (e : Int) (p : Nat) : Nat := m * pow2up (e + p) / pow2down (e + p)

/-- The exponent of the leading bit of m·2^e. -/
def leading (m : Nat) (e : Int) : Int := (m.log2 : Int) + e

/-- A value just beside m·2^e, nearer to it than any rounding boundary of F32. -/
def beside (neg : Bool) (m : Nat) (e : Int) (up : Bool) : FNum := .fin neg (if up then m * 2 ^ 64 + 1 else m * 2 ^ 64 - 1) (e - 64)

/-- 2^x. -/
def exp2Num (neg : Bool) (m : Nat) (e : Int) : FNum :=
  if m = 0 then .fin false 1 0
  else if 20 ≤ leading m e then .fin false 1 (if neg then -4096 else 4096)
  else if 0 ≤ e then .fin false 1 (let v : Int := m * pow2up e; if neg then -v else v)
  else if m % pow2down e = 0 then .fin false 1 (let v : Int := m / pow2down e; if neg then -v else v)
  else if leading m e < -70 then beside false 1 0 (!neg)
  else bracket (fun p =>
    let x : Int := toFix m e p
    let x := if neg then -x - 1 else x
    let k := x / (2 ^ p : Nat)
    let r := x % (2 ^ p : Nat)
    (expFix (r * ln2Fix p / (2 ^ p : Nat)) p, 64 * p + 64, k - p)) 4 192

/-- log2 x of a positive x. -/
def log2Num (m : Nat) (e : Int) : FNum :=
  let l := m.log2
  if m = 2 ^ l then fixNum (e + l) 0
  else bracket (fun p =>
    let u := (m - 2 ^ l) * 2 ^ p / (m + 2 ^ l)
    let u2 : Nat := u * u / 2 ^ p
    let rec go : Nat → Nat → Nat → Nat → Nat
      | 0, _, _, acc => acc
      | fuel + 1, t, i, acc => go fuel (t * u2 / 2 ^ p) (i + 2) (acc + t / i)
    let ln : Int := 2 * go p u 1 0
    (ln * (2 ^ p : Nat) / ln2Fix p + (e + l) * (2 ^ p : Nat), 64 * p + 64, -p)) 4 192

/-- 1/x, √x and 1/√x of a positive x as exact ratios or with a sticky bit. -/
def rcpNum (neg : Bool) (m : Nat) (e : Int) : FNum :=
  let q := 2 ^ (m.log2 + 80) / m
  .fin neg (2 * q + (if q * m = 2 ^ (m.log2 + 80) then 0 else 1)) (-e - (m.log2 + 80 : Nat) - 1)
def sqrtNum (m : Nat) (e : Int) : FNum :=
  let m' := if e % 2 = 0 then m * 2 ^ 160 else m * 2 ^ 161
  let r := isqrt m'
  .fin false (2 * r + (if r * r = m' then 0 else 1)) ((if e % 2 = 0 then e - 160 else e - 161) / 2 - 1)
def rsqNum (m : Nat) (e : Int) : FNum :=
  let t : Nat := 2 * m.log2 + 160
  let n := if e % 2 = 0 then 2 ^ t else 2 ^ (t + 1)
  let r := isqrt (n / m)
  .fin false (2 * r + (if r * r * m = n then 0 else 1)) ((if e % 2 = 0 then -e - (t : Int) else -e - (t : Int) - 1) / 2 - 1)

/-- tanh x: near zero x − x³/3 + … lies just below x; far out just below 1. -/
def tanhNum (neg : Bool) (m : Nat) (e : Int) : FNum :=
  if m = 0 then .fin neg 0 0
  else if leading m e < -40 then beside neg m e false
  else if 6 ≤ leading m e then beside neg 1 0 false
  else bracket (fun p =>
    let x : Int := toFix m e p
    -- e^(-2x) = 2^(-k) e^(-f), through e^(2x) with 2x reduced by ln 2
    let y := 2 * x
    let k := y / ln2Fix p
    let r := y - k * ln2Fix p
    let big := expFix r p * (2 ^ k.toNat : Nat)
    let v := (big - (2 ^ p : Nat)) * (2 ^ p : Nat) / (big + (2 ^ p : Nat))
    (if neg then -v else v, 2048 * p + 2048, -p)) 4 256

/-- sin x of a finite x in radians. -/
def sinNum (neg : Bool) (m : Nat) (e : Int) : FNum :=
  if m = 0 then .fin neg 0 0
  else if leading m e < -40 then beside neg m e false
  else bracket (fun p =>
    let q := p + (leading m e + 8).toNat
    let x : Int := toFix m e q
    let half := piFix q / 2
    let k := x / half
    let r := (x - k * half) / (2 ^ (q - p) : Nat)
    let v := match (k % 4).toNat with
      | 0 => sinFix r p
      | 1 => cosFix r p
      | 2 => -sinFix r p
      | _ => -cosFix r p
    (if neg then -v else v, 4096 * p + 4096, -p)) 4 256

/-- The special functions (Table 15.6). -/
inductive SpecialFn where
  | exp2 | log2 | rcp | rsq | sqrt | tanh | sin
  deriving DecidableEq, Repr

/-- F(x) of Table 15.6, with the NV and DZ it raises. -/
def SpecialFn.eval (g : SpecialFn) (x : FNum) : FNum × Flags :=
  let nan : FNum × Flags := (.nan false, { nv := true })
  match x with
  | .nan s => (.nan false, { nv := s })
  | .inf n =>
    match g with
    | .exp2 => (if n then .fin false 0 0 else .inf false, {})
    | .log2 => if n then nan else (.inf false, {})
    | .rcp => (.fin n 0 0, {})
    | .rsq => if n then nan else (.fin false 0 0, {})
    | .sqrt => if n then nan else (.inf false, {})
    | .tanh => (.fin n 1 0, {})
    | .sin => nan
  | .fin n m e =>
    if m = 0 then
      match g with
      | .exp2 => (.fin false 1 0, {})
      | .log2 => (.inf true, { dz := true })
      | .rcp => (.inf n, { dz := true })
      | .rsq => (.inf n, { dz := true })
      | .sqrt => (.fin n 0 0, {})
      | .tanh => (.fin n 0 0, {})
      | .sin => (.fin n 0 0, {})
    else
      match g with
      | .exp2 => (exp2Num n m e, {})
      | .log2 => if n then nan else (log2Num m e, {})
      | .rcp => (rcpNum n m e, {})
      | .rsq => if n then nan else (rsqNum m e, {})
      | .sqrt => if n then nan else (sqrtNum m e, {})
      | .tanh => (tanhNum n m e, {})
      | .sin => (sinNum n m e, {})

/-- A lane of a special function: rounded to F32 to nearest-even, then into a narrower format under the queue's mode
(R369). -/
def SpecialFn.lane (g : SpecialFn) (f : Fmt) (md : RMode) (x : FNum) : Nat × Flags :=
  let (v, fl) := g.eval x
  let (y, fl1) := finish .f32 .rne v
  if f = .f32 then (y, fl.or fl1)
  else if f.isFloat then
    let (z, fl2) := finish f md (decode .f32 y)
    (z, (fl.or fl1).or fl2)
  else
    let (z, o, fl2) := satInt f md (decode .f32 y) 0
    (z, ((fl.or fl1).or fl2).or { of := o })

end Sys2Proof.Machine
end

