-- ==== Sys2Proof/Machine/Flags.lean ====
section
/-!
DEFINITION. Sys2Proof/Machine/Flags.lean: the sticky flags of fpmode and vstat (Tables 10.3, 10.4), and which rounding
mode an instruction rounds under.
-/

namespace Sys2Proof.Machine

open Sys2Proof

/-- OR an operation's flags into fpmode (R284). -/
def Ctx.orFp (c : Ctx) (f : Flags) : Ctx := { c with fpmode := c.fpmode ||| BitVec.ofNat 64 f.bits }

/-- fpmode.IDZ := 1 (R278). -/
def Ctx.setIdz (c : Ctx) : Ctx := { c with fpmode := c.fpmode ||| 256 }

/-- OR flags into vstat (R336). -/
def Ctx.orVstat (c : Ctx) (f : Flags) : Ctx := { c with vstat := c.vstat ||| BitVec.ofNat 64 f.bits }

/-- vstat.NOACT := 1 (Table 10.4). -/
def Ctx.setNoact (c : Ctx) : Ctx := { c with vstat := c.vstat ||| 32 }

/-- fpmode.RM (Table 10.3). -/
def Ctx.rm (c : Ctx) : RMode := RMode.ofCode (field c.fpmode 7 5)

/-- The mode a rounding scalar instruction uses (R283). -/
def Ctx.rmSel (c : Ctx) (rm : BitVec 4) : RMode := if rm = 0 then c.rm else RMode.ofCode (rm.toNat % 8)

/-- A value may be written to fpmode: its rounding-mode code is not reserved (R255). -/
def fpmodeOk (w : Word) : Bool := decide (field w 7 5 ≤ 4)

end Sys2Proof.Machine
end

