-- ==== Sys2Proof/Machine/ScalarFloat.lean ====
section
/-!
DEFINITION. Sys2Proof/Machine/ScalarFloat.lean: the scalar floating-point instructions (R280 to R285), which read F32
from bits [31:0], write bits [31:0] with zeros above, and OR their flags into fpmode.
-/

namespace Sys2Proof.Machine

open Sys2Proof

/-- The F32 value in bits [31:0] of a register. -/
def f32Of (w : Word) : FNum := decode .f32 (w.toNat % 2 ^ 32)

/-- Write an exact result, rounded once to F32 (R280); inv: the operation was invalid. -/
def Ctx.putF32 (x : Ctx) (rd : BitVec 6) (md : RMode) (r : FNum × Bool) : Ctx :=
  let (code, fl) := finish .f32 md r.1
  (x.setS rd (BitVec.ofNat 64 code)).orFp { fl with nv := fl.nv || r.2 }

def execFadd (c : Ctl) (rd ra rb : BitVec 6) (rm : BitVec 4) (s : State) : Host.Outcome State Fault Refusal :=
  issue (.fadd c rd ra rb rm) s (onCtx fun x =>
    x.putF32 rd (x.rmSel rm) (FNum.add (x.rmSel rm) (f32Of (x.s ra)) (f32Of (x.s rb))))
def execFsub (c : Ctl) (rd ra rb : BitVec 6) (rm : BitVec 4) (s : State) : Host.Outcome State Fault Refusal :=
  issue (.fsub c rd ra rb rm) s (onCtx fun x =>
    x.putF32 rd (x.rmSel rm) (FNum.add (x.rmSel rm) (f32Of (x.s ra)) (f32Of (x.s rb)).neg))
def execFmul (c : Ctl) (rd ra rb : BitVec 6) (rm : BitVec 4) (s : State) : Host.Outcome State Fault Refusal :=
  issue (.fmul c rd ra rb rm) s (onCtx fun x =>
    x.putF32 rd (x.rmSel rm) (FNum.mul (f32Of (x.s ra)) (f32Of (x.s rb))))
def execFfma (c : Ctl) (rd ra rb rc : BitVec 6) (rm : BitVec 4) (s : State) : Host.Outcome State Fault Refusal :=
  issue (.ffma c rd ra rb rc rm) s (onCtx fun x =>
    x.putF32 rd (x.rmSel rm) (FNum.fma (x.rmSel rm) (f32Of (x.s ra)) (f32Of (x.s rb)) (f32Of (x.s rc))))
def execFmin (c : Ctl) (rd ra rb : BitVec 6) (s : State) : Host.Outcome State Fault Refusal :=
  issue (.fmin c rd ra rb) s (onCtx fun x =>
    x.putF32 rd .rne (FNum.pick false (f32Of (x.s ra)) (f32Of (x.s rb))))
def execFmax (c : Ctl) (rd ra rb : BitVec 6) (s : State) : Host.Outcome State Fault Refusal :=
  issue (.fmax c rd ra rb) s (onCtx fun x =>
    x.putF32 rd .rne (FNum.pick true (f32Of (x.s ra)) (f32Of (x.s rb))))

/-- FCVT of a register value between two formats (Table 11.5): the value written and the flags. An integer result is
sign-extended; a clamp or a NaN raises NV. -/
def fcvt (dst src : Fmt) (md : RMode) (a : Word) : Word × Flags :=
  let x := decode src (a.toNat % 2 ^ src.width)
  if dst.isSigned then
    let (code, clamped, fl) := satInt dst md x 0
    ((BitVec.ofNat dst.width code).signExtend 64, { fl with nv := fl.nv || clamped })
  else
    let (code, fl) := finish dst md x
    (BitVec.ofNat 64 code, fl)

def execFcvt (c : Ctl) (rd ra dst src : BitVec 6) (rm : BitVec 4) (s : State) : Host.Outcome State Fault Refusal :=
  issue (.fcvt c rd ra dst src rm) s (onCtx fun x =>
    let r := fcvt ((Fmt.ofCode dst).getD .f32) ((Fmt.ofCode src).getD .f32) (x.rmSel rm) (x.s ra)
    (x.setS rd r.1).orFp r.2)

/-- A comparison of two values under a condition of FCMP or VCMP (Tables 11.6, 14.4): its truth and whether it raises
NV. -/
def numCond (cc : Nat) (x y : FNum) : Bool × Bool :=
  let snan := x.isSnan || y.isSnan
  match FNum.cmp x y with
  | none => (cc = 1 || cc = 6, if cc = 2 || cc = 3 || cc = 4 || cc = 5 then true else snan)
  | some o =>
    ((match cc with
      | 0 => o == .eq
      | 1 => o != .eq
      | 2 => o == .lt
      | 3 => o != .gt
      | 4 => o == .gt
      | 5 => o != .lt
      | 6 => false
      | _ => true), false)

def execFcmp (c : Ctl) (pd : BitVec 3) (ra rb : BitVec 6) (cc : BitVec 4) (s : State) :
    Host.Outcome State Fault Refusal :=
  issue (.fcmp c pd ra rb cc) s (onCtx fun x =>
    let r := numCond cc.toNat (f32Of (x.s ra)) (f32Of (x.s rb))
    (x.setP pd r.1).orFp { nv := r.2 })

end Sys2Proof.Machine
end

