-- ==== Sys2Proof/Machine/MemSync.lean ====
section
/-!
DEFINITION. Sys2Proof/Machine/MemSync.lean: group 010 (chapter 12): scalar loads, stores and atomics, monitors, fences,
markers, publishing, window flushes, barriers and sync words.
-/

namespace Sys2Proof.Machine

open Sys2Proof

/-! Orders (R195, R209, R222). -/

def acquires : Order → Bool
  | .acq | .acqrel | .sc => true
  | .rlx | .rel => false

/-- The window copies on the die of the VD of stream k, on the cores its streams run on, are gone: its acquire at POD or wider (R195). -/
def dropWindowCopies (s : State) (k : Nat) : State :=
  let vd := (s.ctx k).vd
  let of := fun (line : Nat) =>
    let g := s.granule (line / 16384)
    g.wk && ((s.window g.win).owner = vd || (s.window g.win).peer = vd)
  dropSectors s fun key => of (key / 1024) && s.ctxs.any fun x => coreOf x.1 = key % 256 && x.2.vd = vd && x.2.live

/-- POD or a scope that takes it in. -/
def podWide : Scope → Bool
  | .pod | .host | .system => true
  | .stream | .task | .core | .cord | .kiln | .package | .fetch | .layer | .recode => false

/-- What an ordered operation does to the copies that its stream keeps: an acquire at POD or wider drops its party's window copies. -/
def orderEffect (s : State) (k : Nat) (ord : Order) (sc : Scope) : State :=
  if acquires ord && podWide sc then dropWindowCopies s k else s

def releases : Order → Bool
  | .rel | .acqrel | .sc => true
  | .rlx | .acq => false

/-! Loads and stores (R298 to R301). -/

/-- A scalar load of n bytes, sign-extended or not; an ordered one is aligned (R299). -/
def opLoad (i : Instr) (rd ra : BitVec 6) (imm : BitVec 20) (n : Nat) (sgn : Bool) (ord : Order) (sc : Scope) (s : State) :
    Host.Outcome State Fault Refusal :=
  issue i s fun k => do
    let s ← get
    let va := addr20 ((s.ctx k).s ra) imm
    require (ord = .rlx || va.toNat % n = 0) .illegalOp va
    let x ← loadScalar (clientOf s k) va.toNat n
    modify fun s => (orderEffect s k ord sc).modCtx k fun c => c.setS rd
      (if sgn then (BitVec.ofNat (8 * n) x).signExtend 64 else BitVec.ofNat 64 x)
    pure .on

/-- A scalar store of the n low bytes of rb. -/
def opStore (i : Instr) (ra rb : BitVec 6) (imm : BitVec 20) (n : Nat) (ord : Order) (s : State) :
    Host.Outcome State Fault Refusal :=
  issue i s fun k => do
    let s ← get
    let va := addr20 ((s.ctx k).s ra) imm
    require (ord = .rlx || va.toNat % n = 0) .illegalOp va
    storeScalar (clientOf s k) va.toNat n (((s.ctx k).s rb).toNat % 2 ^ (8 * n)) .store
    pure .on

def execLdb (c : Ctl) (rd ra : BitVec 6) (sgn : Bool) (ord : Order) (imm : BitVec 20) (sc : Scope) (s : State) :
    Host.Outcome State Fault Refusal := opLoad (.ldb c rd ra sgn ord imm sc) rd ra imm 1 sgn ord sc s
def execLdh (c : Ctl) (rd ra : BitVec 6) (sgn : Bool) (ord : Order) (imm : BitVec 20) (sc : Scope) (s : State) :
    Host.Outcome State Fault Refusal := opLoad (.ldh c rd ra sgn ord imm sc) rd ra imm 2 sgn ord sc s
def execLdw (c : Ctl) (rd ra : BitVec 6) (sgn : Bool) (ord : Order) (imm : BitVec 20) (sc : Scope) (s : State) :
    Host.Outcome State Fault Refusal := opLoad (.ldw c rd ra sgn ord imm sc) rd ra imm 4 sgn ord sc s
def execLdd (c : Ctl) (rd ra : BitVec 6) (ord : Order) (imm : BitVec 20) (sc : Scope) (s : State) :
    Host.Outcome State Fault Refusal := opLoad (.ldd c rd ra ord imm sc) rd ra imm 8 false ord sc s
def execStb (c : Ctl) (ra : BitVec 6) (imm : BitVec 20) (rb : BitVec 6) (ord : Order) (sc : Scope) (s : State) :
    Host.Outcome State Fault Refusal := opStore (.stb c ra imm rb ord sc) ra rb imm 1 ord s
def execSth (c : Ctl) (ra : BitVec 6) (imm : BitVec 20) (rb : BitVec 6) (ord : Order) (sc : Scope) (s : State) :
    Host.Outcome State Fault Refusal := opStore (.sth c ra imm rb ord sc) ra rb imm 2 ord s
def execStw (c : Ctl) (ra : BitVec 6) (imm : BitVec 20) (rb : BitVec 6) (ord : Order) (sc : Scope) (s : State) :
    Host.Outcome State Fault Refusal := opStore (.stw c ra imm rb ord sc) ra rb imm 4 ord s
def execStd (c : Ctl) (ra : BitVec 6) (imm : BitVec 20) (rb : BitVec 6) (ord : Order) (sc : Scope) (s : State) :
    Host.Outcome State Fault Refusal := opStore (.std c ra imm rb ord sc) ra rb imm 8 ord s

/-- PREF's translation, which holds nothing: the TLBs', or that of a walk of its own; what the walk leaves stays. -/
def prefWalk (s : State) (cl : Client) (va : Nat) (a : Access) : State :=
  if cl.mode = some .m || (tlbFind s cl.core cl.vd cl.asn va cl.mode a).isSome then s else (walkFill s cl.core cl.vd cl.asn va cl.mode a).2

/-- What an operation that faults or waits leaves of a state when nothing comes of it: what its errors marked, and no request. -/
def leftBy {α : Type} (op : Op α) (s : State) : State :=
  match op s with
  | .error (.fault _ s') => s'.getD s
  | _ => s

/-- PREF (R301): brings a line's sectors to the core's cache where translation, rights, class and tenure allow it at once; else it is
dropped. -/
def prefetch (s : State) (k : Nat) (va : Nat) (wr : Bool) : State :=
  let cl := clientOf s k
  let a : Access := if wr then .atomic else .load
  let s := prefWalk s cl va a
  let line : Op Place := do
    let pl ← placeAt cl va a
    let _ ← consume cl pl .load
    pure pl
  match line s with
  | .error _ => leftBy line s
  | .ok (pl, s) => match scalarTenure cl va 1 wr s with
    | .error _ => s
    | .ok (_, s) => if pl.trk && (tensorsAt s cl va 1).isEmpty then requestSectors s cl.core pl.grain (pl.line * 128 + va % 128) 1 wr else s

def execPref (c : Ctl) (ra : BitVec 6) (imm : BitVec 20) (wr : BitVec 1) (s : State) : Host.Outcome State Fault Refusal :=
  issue (.pref c ra imm wr) s fun k => do
    modify fun s => prefetch s k (addr20 ((s.ctx k).s ra) imm).toNat (wr = 1)
    pure .on

/-! Atomics (R302, R197, R224). -/

/-- The value an atomic writes from the old word, the operand and the new value of ACAS; none when it writes nothing. -/
def atomicNew (op : AtomOp) (w old x new : Nat) : Option Nat :=
  let sg := fun (v : Nat) => (BitVec.ofNat w v).toInt
  match op with
  | .add => some ((old + x) % 2 ^ w)
  | .and => some (old &&& x)
  | .or => some (old ||| x)
  | .xor => some (old ^^^ x)
  | .min => some (if sg x < sg old then x else old)
  | .max => some (if sg old < sg x then x else old)
  | .minu => some (min old x)
  | .maxu => some (max old x)
  | .swp => some x
  | .cas => if old = x then some new else none

/-- A host port that runs PCIe alone takes only FetchAdd, Swap and CAS (R302). -/
def hostAtomicOk (s : State) (line : Nat) (op : AtomOp) : Bool :=
  match region (line * 128) with
  | .host p => s.pkg.cxl.toList.getD p true || op = .add || op = .swp || op = .cas
  | _ => true

/-- Before an atomic through a window slot, what its party retains of the line is written home as one flush (R197). -/
def flushOwn (cl : Client) (pl : Place) : Op Unit := do
  match pl.key with
  | some (.window win _) =>
    let _ ← reach cl pl .atomic
    match flushWhere (← get) fun r => r.vd = pl.vd && r.win = win && r.line = pl.line with
    | some (s, _) => set s
    | none => waitHere
  | _ => pure ()

/-- After an atomic through a window slot its party keeps no copy of the line on the die (R197, step 3). -/
def dropOwn (cl : Client) (pl : Place) : Op Unit :=
  match pl.key with
  | some (.window _ _) => modify fun s => dropSectors s fun k => k / 1024 = pl.line && k % 256 = cl.core
  | _ => pure ()

/-- The whole of an atomic at a VA: the old word; the new one is written at the home. -/
def atomicAt (cl : Client) (va w : Nat) (op : AtomOp) (x new : Nat) : Op Nat := do
  let pl ← placeAt cl va .atomic
  require (hostAtomicOk (← get) pl.line op) .permission (BitVec.ofNat 64 va)
  let n := w / 8
  flushOwn cl pl
  let v ← consume cl pl .atomic
  scalarTenure cl va n true
  watch cl 0 va (va + n) none
  watch cl 1 va (va + n) none
  let old := bytesAt v.data (va % 128) n
  match atomicNew op w old x new with
  | none => pure ()
  | some y =>
    let data := BitVec.ofNat 1024 (y * 2 ^ (8 * (va % 128)))
    refillByAddress cl pl v data (byteMask (va % 128) n) (untaggedTag v.tag pl.pol)
    coherent cl pl (va % 128) n true
    performWrite cl { pl with key := none } data (byteMask (va % 128) n) (untaggedTag v.tag pl.pol) false
  dropOwn cl pl
  pure old

def opAtomic (i : Instr) (op : AtomOp) (rd ra rb : BitVec 6) (rc : Option (BitVec 6)) (dbl : Bool) (ord : Order) (sc : Scope) (s : State) :
    Host.Outcome State Fault Refusal :=
  issue i s fun k => do
    let s ← get
    let c := s.ctx k
    let w := if dbl then 64 else 32
    let a := c.s ra
    require (a.toNat % (w / 8) = 0) .illegalOp a
    let new := match rc with | some r => (c.s r).toNat % 2 ^ w | none => 0
    let old ← atomicAt (clientOf s k) a.toNat w op ((c.s rb).toNat % 2 ^ w) new
    modify fun s => (orderEffect s k ord sc).modCtx k fun c => c.setS rd (BitVec.ofNat 64 old)
    pure .on

def execAadd (c : Ctl) (rd ra rb : BitVec 6) (dbl : Bool) (ord : Order) (sc : Scope) (s : State) :
    Host.Outcome State Fault Refusal := opAtomic (.aadd c rd ra rb dbl ord sc) .add rd ra rb none dbl ord sc s
def execAand (c : Ctl) (rd ra rb : BitVec 6) (dbl : Bool) (ord : Order) (sc : Scope) (s : State) :
    Host.Outcome State Fault Refusal := opAtomic (.aand c rd ra rb dbl ord sc) .and rd ra rb none dbl ord sc s
def execAor (c : Ctl) (rd ra rb : BitVec 6) (dbl : Bool) (ord : Order) (sc : Scope) (s : State) :
    Host.Outcome State Fault Refusal := opAtomic (.aor c rd ra rb dbl ord sc) .or rd ra rb none dbl ord sc s
def execAxor (c : Ctl) (rd ra rb : BitVec 6) (dbl : Bool) (ord : Order) (sc : Scope) (s : State) :
    Host.Outcome State Fault Refusal := opAtomic (.axor c rd ra rb dbl ord sc) .xor rd ra rb none dbl ord sc s
def execAmin (c : Ctl) (rd ra rb : BitVec 6) (uns dbl : Bool) (ord : Order) (sc : Scope) (s : State) :
    Host.Outcome State Fault Refusal :=
  opAtomic (.amin c rd ra rb uns dbl ord sc) (if uns then .minu else .min) rd ra rb none dbl ord sc s
def execAmax (c : Ctl) (rd ra rb : BitVec 6) (uns dbl : Bool) (ord : Order) (sc : Scope) (s : State) :
    Host.Outcome State Fault Refusal :=
  opAtomic (.amax c rd ra rb uns dbl ord sc) (if uns then .maxu else .max) rd ra rb none dbl ord sc s
def execAswp (c : Ctl) (rd ra rb : BitVec 6) (dbl : Bool) (ord : Order) (sc : Scope) (s : State) :
    Host.Outcome State Fault Refusal := opAtomic (.aswp c rd ra rb dbl ord sc) .swp rd ra rb none dbl ord sc s
def execAcas (c : Ctl) (rd ra rb rc : BitVec 6) (dbl : Bool) (ord : Order) (sc : Scope) (s : State) :
    Host.Outcome State Fault Refusal := opAtomic (.acas c rd ra rb rc dbl ord sc) .cas rd ra rb (some rc) dbl ord sc s

/-! Monitor and wait (R303, R304). -/

def execMonitor (c : Ctl) (ra : BitVec 6) (imm : BitVec 20) (s : State) : Host.Outcome State Fault Refusal :=
  issue (.monitor c ra imm) s fun k => do
    let s ← get
    let va := addr20 ((s.ctx k).s ra) imm
    let pl ← placeAt (clientOf s k) va.toNat .load
    let _ ← consume (clientOf s k) pl .load
    coherent (clientOf s k) pl (va.toNat % 128) 1 false
    modify fun s => s.modCtx k fun c => { c with monitor := some { va := va, line := pl.line } }
    pure .on

/-- The timeout of MWAIT: at most 16,773,120 cycles; 0 is none (R304). -/
def mwaitLimit (a : Word) : Nat := min a.toNat 16773120

def execMwait (c : Ctl) (ra : BitVec 6) (s : State) : Host.Outcome State Fault Refusal :=
  issue (.mwait c ra) s fun k => atPoint k do
    let s ← get
    let x := s.ctx k
    let limit := mwaitLimit (x.s ra)
    let inPlace := x.access || x.mode ≠ .u
    let left := limit - (match x.waitSince with | some t => s.now - t | none => 0)
    let timedOut := limit ≠ 0 && left = 0
    let done := match x.monitor with | none => true | some m => m.fired
    if done || timedOut then
      modify fun s => s.modCtx k fun c => { c with monitor := none }
      if inPlace then pure .on else passPoint k
    else if inPlace then waitHere
    else
      match x.monitor with
      | none => pure .on
      | some m =>
        suspendPoint k .mwait 0 (if limit = 0 then none else some (s.now + left)) (some m)

/-! Fences (R305 to R308). -/

/-- The LAYER beats that have been performed become visible to a stream's ordinary loads (R220, R306). -/
def seeLayer (s : State) (k : Nat) : State :=
  let see := fun (l : LayerOld) => if l.fenced.contains (fenceId s k) then l else { l with fenced := fenceId s k :: l.fenced }
  { s with coh := { s.coh with layer := s.coh.layer.map see } }

/-- The cores of a task's cord (R246). -/
def cordOf (s : State) (k : Nat) : List Nat :=
  match (s.ctx k).task.bind s.task with
  | some x => x.cordKept
  | none => []

/-- Stokers a scope covers as seen from context k (Table 8.3). -/
def covers (s : State) (k : Nat) (sc : Scope) (j : Nat) : Bool :=
  let sameTask := k = j || ((s.ctx k).task.isSome && (s.ctx k).task = (s.ctx j).task)
  let core := coreOf k = coreOf j
  match sc with
  | .stream => k = j
  | .task => sameTask
  | .core => sameTask || core
  | .cord => sameTask || coreInScope (cordOf s k) false (coreOf k) (coreOf j)
  | .kiln => sameTask || coreInScope (cordOf s k) true (coreOf k) (coreOf j)
  | .package | .pod | .host | .system => true
  | .fetch | .layer | .recode => k = j

/-- A fence: at FETCH it drops the stoker's fetched lines, at LAYER it lets the stream see the cross paths' beats, at RECODE what its stream
has written is performed at home (R221), at POD and wider its party's window copies go; every other order it names holds already in the
model's one order of steps (log entry 1, DESIGN CHOICE). -/
def fenceEffect (s : State) (k : Nat) (ord : Order) (sc : Scope) : State :=
  match sc with
  | .fetch => if acquires ord then s.modCtx k fun c => { c with fetched := [] } else s
  | .layer => if acquires ord then seeLayer s k else s
  | .recode => if releases ord then flushWritten s k fun _ => true else s
  | _ => orderEffect s k ord sc

def execFence (c : Ctl) (ord : Order) (sc : Scope) (s : State) : Host.Outcome State Fault Refusal :=
  issue (.fence c ord sc) s fun k => do
    modify fun s => fenceEffect s k ord sc
    pure .on
def execXfence (c : Ctl) (ord : Order) (s : State) : Host.Outcome State Fault Refusal :=
  issue (.xfence c ord) s fun k => do
    modify fun s => fenceEffect s k ord .layer
    pure .on

/-- Place a marker in queue q: an empty queue's is at the head at once. -/
def placeMarker (s : State) (k t : Nat) (q : Nat) : State :=
  if q = 0 then
    let s := s.modCtx k fun c => { c with convoyMarker := true }
    if (s.ctx k).vq.isEmpty then s
    else s.modCtx k fun c => { c with vq := c.vq ++ [.marker k], markers := c.markers ++ [{ queue := 0 }] }
  else if q = 1 then
    match s.task t with
    | none => s
    | some x => if x.mq.isEmpty then s
      else (s.setTask t (some { x with mq := x.mq ++ [.marker k] })).modCtx k fun c =>
        { c with markers := c.markers ++ [{ queue := 1 }] }
  else
    let next := match (s.core (coreOf k)).chans.toList[q - 2]? with | some ch => ch.next | none => 0
    s.modCtx k fun c => { c with markers := c.markers ++ [{ queue := q, below := next }] }

def execMfence (c : Ctl) (qs : BitVec 6) (sc : Scope) (s : State) : Host.Outcome State Fault Refusal :=
  issue (.mfence c qs sc) s fun k => do
    let (t, _) ← myTask k
    ((List.range 4).filter fun ch => qs.getLsbD (2 + ch)).forM (ownsChannel k)
    modify fun s => (List.range 6).foldl (fun s q => if qs.getLsbD q then placeMarker s k t q else s) s
    pure .on

/-- JOIN (R308); after a marker in the vector queue it ends the open convoy (R495). -/
def execJoin (c : Ctl) (s : State) : Host.Outcome State Fault Refusal :=
  issue (.join c) s fun k => do
    let s ← get
    if !(liveMarkers s k).isEmpty then waitHere
    set (s.modCtx k fun c =>
      { c with markers := [], convoyMarker := false,
               convoy := if c.convoyMarker then none else c.convoy })
    pure .on

/-! Publishing (R218, R309). -/

/-- Translate and check every line of a range before any switches: W, a switch to wait for, a key (R309). -/
def publishPlaces (cl : Client) : Nat → Nat → Op (List Place)
  | _, 0 => pure []
  | line, n + 1 => do
    let pl ← placeAt cl (line * 128) .store
    let _ ← reach cl pl .store
    return pl :: (← publishPlaces cl (line + 1) n)

/-- The writes the stream has made to the line are performed at its home, a kiln's own copy and a window's retained bytes among them (R218,
step 1); then a CODE_PENDING line of FMT CODE becomes VALID, any other is left. -/
def publishLine (s : State) (k : Nat) (pl : Place) : State :=
  let s := match pl.key with
    | some (.window w _) => (match flushWhere s fun r => r.vd = pl.vd && r.win = w && r.line = pl.line with | some (s, _) => s | none => s)
    | _ => s
  let s := flushWritten s k fun l => l = pl.line
  let t := homeTag s pl.line
  if tagFmt t = Fmt.code.toCode && tagVc t = vcPending then landTag s pl.line (mkTag (tagFmt t) vcValid (tagLxp t)) else s

/-- The fetch agents a scope covers drop their copies of lines. -/
def dropFetched (s : State) (k : Nat) (sc : Scope) (lines : List Nat) : State :=
  let drop := fun (x : Nat × Ctx) =>
    if covers s k sc x.1 then (x.1, { x.2 with fetched := x.2.fetched.filter fun f => !lines.contains f.1 }) else x
  { s with ctxs := s.ctxs.map drop }

def execPublish (c : Ctl) (ra rb : BitVec 6) (sc : Scope) (s : State) : Host.Outcome State Fault Refusal :=
  issue (.publish c ra rb sc) s fun k => do
    let s ← get
    let a := ((s.ctx k).s ra).toNat
    let b := (s.ctx k).s rb
    require (decide (b.toNat ≤ 2 ^ 21)) .illegalOp b
    if b ≠ 0 then
      let pls ← publishPlaces (clientOf s k) (a / 128) ((a + b.toNat - 1) / 128 - a / 128 + 1)
      modify fun s => dropFetched (pls.foldl (fun s pl => publishLine s k pl) s) k sc (pls.map (·.line))
    pure .on

/-! Window flushes (R310). -/

def execWfence (c : Ctl) (sc : Scope) (s : State) : Host.Outcome State Fault Refusal :=
  issue (.wfence c sc) s fun k => do
    let s ← get
    let vd := (s.ctx k).vd
    match flushWhere s fun r => r.vd = vd with
    | none => waitHere
    | some (s', []) => set s'
    | some (s', left) => set (recordBlocked s' left); raiseKept .handleInvalid 3
    pure .on

/-! Barriers (R248, R249, R311). -/

/-- The barrier of a task: its node, the group it joins (a cord, or the node whole), and the participants. -/
def barrierOf (s : State) (x : Task) : Option (Node × Nat × Nat) :=
  match s.launch x.launch with
  | none => none
  | some l => match l.nodes[x.node]? with
    | none => none
    | some n => if n.bar = 1 then some (n, x.index / n.csize, n.csize) else some (n, 0, n.count)

/-- The scope code of a node's declared level. -/
def barScope (bar : Nat) : Option Scope :=
  match bar with | 1 => some .cord | 2 => some .kiln | 3 => some .package | _ => none

/-- Replace a node of a launch. -/
def setNode (s : State) (l n : Nat) (x : Node) : State := s.modLaunch l fun y => { y with nodes := y.nodes.set n x }

/-- Release the current generation of a group once every participant has arrived or ended (R249). -/
def releaseBarrier (n : Node) (group size : Nat) : Node :=
  let here := (n.arrivals.filter fun a => a.1 = group && !n.ended.contains a.2).length
  let gone := (n.ended.filter fun i => (if n.bar = 1 then i / n.csize else 0) = group).length
  if here + gone < size || here = 0 then n
  else { n with release := SMap.set 0 n.release group ((SMap.get 0 n.release group + 1) % 256),
                arrivals := n.arrivals.filter fun a => a.1 ≠ group }

/-- The barrier named must be the node's. -/
def barrierCheck (k : Nat) (sc : Scope) : Op (Nat × Task × Node × Nat × Nat) := do
  let (t, x) ← myTask k
  match barrierOf (← get) x with
  | none => illegal k
  | some (n, g, size) => if barScope n.bar = some sc then pure (t, x, n, g, size) else illegal k

def execBara (c : Ctl) (rd : BitVec 6) (sc : Scope) (s : State) : Host.Outcome State Fault Refusal :=
  issue (.bara c rd sc) s fun k => do
    let (t, x, n, g, size) ← barrierCheck k sc
    if n.arrivals.contains (g, x.index) then waitHere
    let gen := SMap.get 0 n.release g
    let n' := releaseBarrier { n with arrivals := n.arrivals ++ [(g, x.index)] } g size
    modify fun s => ((setNode s x.launch x.node n').modTask t fun y => { y with arrived := some gen }).modCtx k fun c =>
      c.setS rd (BitVec.ofNat 64 gen)
    pure .on

/-- BARW (R311): a released generation completes it, as an XFENCE too; one not released is waited for after arriving. -/
def execBarw (c : Ctl) (ra : BitVec 6) (sc : Scope) (s : State) : Host.Outcome State Fault Refusal :=
  issue (.barw c ra sc) s fun k => do
    let (_, x, n, g, _) ← barrierCheck k sc
    let a := (((← get).ctx k).s ra).toNat % 256
    let r := SMap.get 0 n.release g
    if (r + 255 + 256 - a) % 256 < 128 then
      modify fun s => seeLayer s k
      pure .on
    else if x.arrived = some a then waitHere
    else raise .illegalOp (BitVec.ofNat 64 a)

/-! Sync words (R312 to R314). -/

/-- The operand of SWSET and SWADD is below 2^28. -/
def swOperand (k : Nat) (ra : BitVec 6) : Op Nat := do
  let a := ((← get).ctx k).s ra
  require (decide (a.toNat < 2 ^ 28)) .illegalOp a
  pure a.toNat

def execSwset (c : Ctl) (h ra : BitVec 6) (s : State) : Host.Outcome State Fault Refusal :=
  issue (.swset c h ra) s fun k => do
    let (_, i, e) ← validEntry k h anyLevel
    let a ← swOperand k ra
    modify fun s => s.setEntry (coreOf k) i { e with sync := putField (putField e.sync 63 36 a) 35 8 0 }
    pure .on

def execSwadd (c : Ctl) (h ra : BitVec 6) (ord : Order) (sc : Scope) (s : State) : Host.Outcome State Fault Refusal :=
  issue (.swadd c h ra ord sc) s fun k => do
    let (_, i, _) ← validEntry k h anyLevel
    let a ← swOperand k ra
    modify fun s => creditEntry s (coreOf k) i a
    pure .on

def execSwait (c : Ctl) (h ra : BitVec 6) (sc : Scope) (s : State) : Host.Outcome State Fault Refusal :=
  issue (.swait c h ra sc) s fun k => atPoint k do
    let (_, _, e) ← validEntry k h anyLevel
    let x := (← get).ctx k
    let g := (x.s ra).toNat % 256
    if genReached e.sync g then
      modify fun s => orderEffect s k .acq sc
      if x.access then pure .on else passPoint k
    else if x.access then waitHere
    else suspendPoint k .swait (BitVec.ofNat 64 (2 ^ 61 + h.toNat * 2 ^ 48 + g)) none none

def execSwread (c : Ctl) (rd h : BitVec 6) (ord : Order) (sc : Scope) (s : State) : Host.Outcome State Fault Refusal :=
  issue (.swread c rd h ord sc) s fun k => do
    let (_, _, e) ← validEntry k h anyLevel
    modify fun s => (orderEffect s k ord sc).modCtx k fun c => c.setS rd e.sync
    pure .on

end Sys2Proof.Machine
end

