-- ==== Sys2Proof/Machine/Handles.lean ====
section
/-!
DEFINITION. Sys2Proof/Machine/Handles.lean: creating, reshaping and freeing handles, tenure, residency and contents (group
011, R315 to R327).
-/

namespace Sys2Proof.Machine

open Sys2Proof

/-! Owner tags (R129). -/

/-- The owner tags that unretired transfers carry with a kiln's number. -/
def carriedTags (s : State) (kiln : Nat) : List Nat :=
  s.cores.flatMap fun c => c.2.chans.toList.flatMap fun ch => (ch.transfers.filter fun x => x.state = .pending).flatMap fun x =>
    (x.dests.filter fun d => d.kiln = kiln).map fun d => d.owner

/-- The next owner tag from v on: never 0, never one still carried. -/
def nextTag (used : List Nat) : Nat → Nat → Nat
  | 0, v => v
  | fuel + 1, v =>
    let v := v % 65536
    if v = 0 || used.contains v then nextTag used fuel (v + 1) else v

/-- Draw an owner tag from a kiln's counter. -/
def drawTag (s : State) (kiln : Nat) : State × Nat :=
  let v := nextTag (carriedTags s kiln) 65536 (s.kiln kiln).ownerCtr
  (s.modKiln kiln fun x => { x with ownerCtr := (v + 1) % 65536 }, v)

/-! Allocation (R119, R120, R319). -/

/-- The lowest run of n free granules among candidates from lo up, `left` of them left to try. -/
def findRun (free : Nat → Bool) (n : Nat) : Nat → Nat → Nat → Option Nat
  | 0, _, _ => none
  | left + 1, g, run =>
    let run := if free g then run + 1 else 0
    if run = n then some (g + 1 - n) else findRun free n left (g + 1) run

/-- The scratchpad granules a VD's partition has on a core (R115, R469): first and count. -/
def scratchRange (s : State) (core vd : Nat) : Nat × Nat :=
  let c := s.core core
  if bit c.part0A 0 && field c.part0A 6 1 = vd then (field c.part0A 35 27, field c.part0A 45 36)
  else if bit c.part1A 0 && field c.part1A 6 1 = vd then (field c.part1A 35 27, field c.part1A 45 36)
  else (0, 0)

/-- A kiln-store granule of 4 KiB is mapped into a VD's aperture and free (R43). -/
def storeFree (s : State) (kiln vd g : Nat) : Bool :=
  ((s.vd vd).aperture.any fun x => decide (x.1 < 4096) && decide (x.1 / 256 = kiln) && x.2 = g / 512 + 1) &&
    SMap.get {} (s.kiln kiln).granules g = {}

/-- The lowest kiln-store granule any mapping of the VD reaches, and one beyond the highest. -/
def storeSpan (s : State) (vd : Nat) : Nat × Nat :=
  let gs := (s.vd vd).aperture.filter fun x => decide (x.1 < 4096)
  (gs.foldl (fun a x => min a ((x.2 - 1) * 512)) 118784, gs.foldl (fun a x => max a (x.2 * 512)) 0)

/-- Room for halves of lines in each of some kilns, as far as it can be made. -/
def makeRooms (vd need : Nat) : List Nat → State → State × Room
  | [], s => (s, .room)
  | k :: ks, s =>
    match makeRoom k vd need (roomFuel s) s with
    | (s, .room) => makeRooms vd need ks s
    | r => r

/-- Find room for a handle's granules: the status of Table 5.8, the state after any eviction, the first granule and their number; none while
a demotion that is to make the room runs (R123). -/
def allocate (s : State) (core vd level lines : Nat) : Option (Nat × Nat × Nat) × State :=
  let kiln := kilnOf core
  let n := (lines + 31) / 32
  if level = lvCore then
    let (lo, cnt) := scratchRange s core vd
    if lines > 16384 then (some (2, 0, 0), s)
    else match findRun (fun g => SMap.get {} (s.core core).granules g = {}) n cnt lo 0 with
      | some g => (some (0, g, n), s)
      | none => (some (1, 0, 0), s)
  else
    let pkg := decide (level = lvPackage)
    let n := if pkg then (n + 7) / 8 else n
    let ks := if pkg then List.range 8 else [kiln]
    if lines > (if pkg then 8 else 1) * mappedLines s kiln vd then (some (2, 0, 0), s)
    else
      match makeRooms vd (n * 64) ks s with
      | (s', .demoting) => (none, s')
      | (_, .none) => (some (1, 0, 0), s)
      | (s', .room) =>
        let (lo, hi) := storeSpan s' vd
        match findRun (fun g => ks.all fun k => storeFree s' k vd g) n (hi - lo) lo 0 with
        | some g => (some (0, g, n), s')
        | none => (some (1, 0, 0), s)

/-- Every line of a granule takes a tag (R120); what a LAYER beat found there is forgotten. -/
def fillGranule (s : State) (core : Nat) (t : Tag) (g : Option Nat × Nat) : State :=
  let line := match g.1 with
    | none => scratchBase core / 128 + g.2 * 32
    | some k => kilnBase k / 128 + g.2 * 32
  (List.range 32).foldl (fun s j => s.setTag (line + j) t) (forgetLayer s fun l => decide (line ≤ l) && decide (l < line + 32))

/-- Check a shape and an attribute word (R316). -/
def checkWords (rs ra : Word) : Op Unit := do
  require (shapeWordOk rs) .handleShape rs
  require (attrWordOk ra) .handleShape ra

/-- An allocation still waits: its stream stands at the instruction that asked. -/
def AllocReq.live (q : AllocReq) (s : State) : Bool := (s.ctx q.ctx).pc = q.pc && (s.ctx q.ctx).waitSince.isSome

/-- An allocation that competes for the same space waits already, before that of stream k (R119). -/
def allocBlocked (s : State) (k vd : Nat) (ks : List Nat) : Bool :=
  (s.pkg.allocs.takeWhile fun q => q.ctx ≠ k).any fun q => q.live s && q.vd = vd && q.kilns.any ks.contains

/-- The allocation of stream k waits, in its order of arrival; or waits no more. -/
def joinAllocs (s : State) (k vd : Nat) (ks : List Nat) : State :=
  let pc := (s.ctx k).pc
  let live := s.pkg.allocs.filter fun q => (q.live s && q.ctx ≠ k) || (q.ctx = k && q.pc = pc)
  { s with pkg := { s.pkg with allocs := if live.any fun q => q.ctx = k then live else live ++ [{ ctx := k, pc := pc, vd := vd, kilns := ks }] } }
def leaveAllocs (s : State) (k : Nat) : State := { s with pkg := { s.pkg with allocs := s.pkg.allocs.filter fun q => q.ctx ≠ k } }

/-- Allocate and enter a handle of level CORE, KILN or PACKAGE at an entry: the status (R319). What the granules' directory holds under
the same run, of a tensor freed before, stands (log entry 49, DESIGN CHOICE). -/
def hallocAt (k core vd : Nat) (i : Nat) (rs ra : Word) : Op Nat := do
  let s ← get
  let l := field ra 8 6
  let f := BitVec.ofNat 6 (field ra 5 0)
  let ks := if l = lvPackage then List.range 8 else if l = lvKiln then [kilnOf core] else []
  if allocBlocked s k vd ks then throw (.wait 0 (some (joinAllocs s k vd ks)))
  match allocate s core vd l ((shapeOf rs).footprint (widthOf f)) with
  | (none, s) => throw (.wait 0 (some (joinAllocs s k vd ks)))
  | (some (st, g, n), s) =>
    let s := leaveAllocs s k
    if st ≠ 0 then
      set s
      return st
    let (s, tag) := drawTag s (kilnOf core)
    let e := newEntry rs ra tag (if l = lvCore then g + n * 512 else g + n * 2 ^ 17)
    let s := (granulesOf core e).foldl (fun s x =>
      (fillGranule s core (mkTag f vcUndef 127) x).setOwner core x { kiln := kilnOf core, owner := tag, vd := vd }) s
    set (s.setEntry core i e)
    pure 0

def execHalloc (c : Ctl) (h rd rs ra : BitVec 6) (s : State) : Host.Outcome State Fault Refusal :=
  issue (.halloc c h rd rs ra) s fun k => do
    let (_, i, e) ← rawEntry k h
    let x := (← get).ctx k
    require (!e.valid) .handleInvalid (64 + h.setWidth 64)
    checkWords (x.s rs) (x.s ra)
    require (decide (field (x.s ra) 8 6 ≤ 2)) .handleInvalid (h.setWidth 64)
    let st ← hallocAt k (coreOf k) x.vd i (x.s rs) (x.s ra)
    modify fun s => s.modCtx k fun y => y.setS rd (BitVec.ofNat 64 st)
    pure .on

/-! Binding (R320, R321). -/

/-- Translate every page of a bound range in ascending order; each must agree with the first (R320). A page that holds its stream is
where it goes on (R427). -/
def bindPages (cl : Client) (hi : Nat) : Nat → Nat → Option Nat → Op Nat
  | 0, _, first => pure (first.getD 0)
  | fuel + 1, va, first => fun s =>
    match translate cl va .load s with
    | .error (.hold h v a el s') =>
      .error (.hold h v a el (some ((s'.getD s).modCtx cl.who fun c => { c with progress := first.map fun b => { next := va, attrs := b } })))
    | .error e => .error e
    | .ok ((_, none), s) => .ok (first.getD 0, s)
    | .ok ((_, some t), s) =>
      if (first.getD (attrsCode t.attrs)) ≠ attrsCode t.attrs then raise .bindAttrMismatch (BitVec.ofNat 64 va) s
      else if hi ≤ t.base + t.size then .ok (attrsCode t.attrs, s)
      else bindPages cl hi fuel (t.base + t.size) (some (attrsCode t.attrs)) s

/-- Bind a MEM range: the attributes recorded, and whether the tensor is tracked. -/
def bindRange (cl : Client) (va lines : Nat) : Op (Nat × Bool) := do
  let a ← match ((← get).ctx cl.who).progress with
    | some p => bindPages cl (va + 128 * lines) (lines + 1) p.next (some p.attrs)
    | none => bindPages cl (va + 128 * lines) (lines + 1) va none
  pure (a, a / 2 % 2 = 1)

/-- Blocks a sequence handle of some lines covers (R134). -/
def blocksOf (s : State) (vd lines : Nat) : Nat := (lines * 128 + blockBytes s vd - 1) / blockBytes s vd

/-- A name word has no bit above 43 (R317). -/
def checkName (w : Word) : Op Unit := require (decide (w.toNat < 2 ^ 44)) .illegalOp w

/-- Bind a MEM or SEQ handle at an entry. -/
def hbindAt (cl : Client) (i : Nat) (rv rs ra : Word) : Op Unit := do
  let lines := (shapeOf rs).footprint (widthOf (BitVec.ofNat 6 (field ra 5 0)))
  if field ra 8 6 = lvMem then
    require (rv.toNat % 128 = 0) .illegalOp rv
    let (a, trk) ← bindRange cl rv.toNat lines
    let (s, tag) := drawTag (← get) (kilnOf cl.core)
    set (s.setEntry cl.core i { newEntry rs ra tag (rv.toNat / 128) with attrs := a, tracked := trk })
  else
    let s ← get
    if !((s.vd cl.vd).featacc.getLsbD 1 && (s.vd cl.vd).lock) then illegal cl.who
    checkName rv
    require (decide (nameBlock rv.toNat + blocksOf s cl.vd lines ≤ 65536)) .handleShape rv
    let (s, tag) := drawTag s (kilnOf cl.core)
    set (s.setEntry cl.core i (newEntry rs ra tag rv.toNat))

def execHbind (c : Ctl) (h rv rs ra : BitVec 6) (s : State) : Host.Outcome State Fault Refusal :=
  issue (.hbind c h rv rs ra) s fun k => do
    let (_, i, e) ← rawEntry k h
    let s ← get
    let x := s.ctx k
    require (!e.valid) .handleInvalid (64 + h.setWidth 64)
    checkWords (x.s rs) (x.s ra)
    require (decide (3 ≤ field (x.s ra) 8 6)) .handleInvalid (h.setWidth 64)
    hbindAt (clientOf s k) i (x.s rv) (x.s rs) (x.s ra)
    pure .on

def execHfree (c : Ctl) (h : BitVec 6) (s : State) : Host.Outcome State Fault Refusal :=
  issue (.hfree c h) s fun k => do
    let (t, i, _) ← validEntry k h anyLevel
    modify fun s => freeHandle s (coreOf k) i (s.ctx k).vd (s.ctx k).asn { task := t, h := h.toNat }
    pure .on

/-- The entry with a new shape; format, owner, sync word and data stay, and the tensor it named stays cached until it is evicted (R321). -/
def HEntry.reshape (e : HEntry) (rs : Word) : HEntry :=
  { e with info := putField e.info 62 61 (field rs 1 0), shape := putField e.shape 63 8 (field rs 63 8) }

def execHshape (c : Ctl) (h rs : BitVec 6) (s : State) : Host.Outcome State Fault Refusal :=
  issue (.hshape c h rs) s fun k => do
    let (t, i, e) ← validEntry k h anyLevel
    let s ← get
    let x := s.ctx k
    let w := x.s rs
    require (shapeWordOk w && (tenNow s (coreOf k) x.vd x.asn e { task := t, h := h.toNat }).ten = 0) .handleShape w
    let lines := (shapeOf w).footprint e.width
    let held := if e.level = lvCore then e.locv / 512 % 1024 * 32
      else if e.level = lvKiln then e.locv / 2 ^ 17 % 2 ^ 17 * 32 else e.locv / 2 ^ 17 % 2 ^ 17 * 256
    if e.level = lvMem then
      let (a, trk) ← bindRange (clientOf s k) (e.locv * 128) lines
      modify fun s => s.setEntry (coreOf k) i { e.reshape w with attrs := a, tracked := trk }
    else if e.level = lvSeq then
      require (decide (nameBlock e.locv + blocksOf s x.vd lines ≤ 65536)) .handleShape w
      modify fun s => s.setEntry (coreOf k) i (e.reshape w)
    else
      require (decide (lines ≤ held)) .handleShape w
      modify fun s => s.setEntry (coreOf k) i (e.reshape w)
    pure .on

/-! Tenure (R317, R323). -/

/-- What a tenure instruction does to its rectangle's cells, and the TEN that an untracked tensor's entry then shows from the
one it showed, the strongest tenure held (R141). -/
structure TenOp where
  kind : Option TenKind
  ten : Nat → Nat
  act : Holder → Nat → List Nat → Nat → Cell → Cell

/-- A tenure instruction: the rectangle, then, on a tracked tensor, what it does with its request there (R317, R141). -/
def inRect (i : Instr) (h rw rx : BitVec 6) (ten : Nat → Nat) (body : Nat → HEntry → TensorId → TenReq → Op Unit) (s : State) :
    Host.Outcome State Fault Refusal :=
  issue i s fun k => do
    let (t, idx, e) ← validEntry k h anyLevel
    let s ← get
    let x := s.ctx k
    let core := coreOf k
    match rectCells e.shp (x.s rw) (x.s rx) with
    | none => raise .handleShape (x.s rx)
    | some cells =>
      match tensorId core x.vd x.asn e with
      | none => set (s.setEntry core idx (e.setTen (ten e.ten))); pure .on
      | some id =>
        body idx e id { who := k, core := core, task := t, kind := .unseal, holder := some { task := t, h := h.toNat },
                        cells := cellKeys s x.vd e cells, since := s.now, etval := h.setWidth 64, cols := gridCols e }
        pure .on

/-- The holder of a request of a tenure instruction. -/
def TenReq.asker (r : TenReq) : Holder := r.holder.getD { task := r.task, h := 0 }

/-- The entry shows what its handle holds now. -/
def showTen (k idx : Nat) (r : TenReq) : Op Unit := modify fun s => refreshTen s r.core idx (s.ctx k).vd (s.ctx k).asn r.asker

/-- A tenure instruction that asks, and whose request stands in the queue while it must wait, or one that acts at once. `act` takes the
handle, its core, the directories on its way up, and the time. -/
def opTenure (i : Instr) (h rw rx : BitVec 6) (op : TenOp) (s : State) : Host.Outcome State Fault Refusal :=
  inRect i h rw rx op.ten (fun idx _ id r => do
    let s ← get
    let f := op.act r.asker r.core (id.path r.core) s.now
    match op.kind with
    | some kind =>
      let (s', ok) := s.ask id { r with kind := kind } f
      set s'
      showTen r.who idx r
      if !ok then waitKeep
    | none =>
      set (s.setDir (((s.dir id).modCells r.cells f).settle.letIn s.now))
      showTen r.who idx r) s

/-- HUNSEAL's request, and its wait for the cells that copies keep UNSEALING; a wait that the bound has ended begins anew (R153, R165). -/
def unsealRect (idx : Nat) (id : TensorId) (r : TenReq) : Op Unit := do
  let s ← get
  let d := s.dir id
  let own := fun (x : TenReq) => x.who = r.who && x.kind = .unseal && x.whole = r.cells
  match d.queue.find? own with
  | some x =>
    if x.cells.isEmpty then
      set (s.setDir { d with queue := d.queue.filter fun x => !own x })
      showTen r.who idx r
    else
      let again := fun (x : TenReq) => if own x && x.timedOut then { x with timedOut := false, since := s.now } else x
      set (s.setDir { d with queue := d.queue.map again })
      waitKeep
  | none =>
    let d := d.modCells r.cells Cell.unseal
    let left := r.cells.filter fun k => (d.cell k).state = .unsealing
    let q := if left.isEmpty then [] else [{ r with cells := left, whole := r.cells, atCore := d.clock + 1 }]
    set (s.setDir { d with clock := d.clock + 1, queue := d.queue ++ q })
    showTen r.who idx r
    if !left.isEmpty then waitKeep

def execHtenRead (c : Ctl) (h rw rx : BitVec 6) (s : State) : Host.Outcome State Fault Refusal :=
  opTenure (.htenRead c h rw rx) h rw rx ⟨some .read, max 1, fun ho core up now x => x.grantRead (some ho) core up now⟩ s
def execHtenWrite (c : Ctl) (h rw rx : BitVec 6) (s : State) : Host.Outcome State Fault Refusal :=
  opTenure (.htenWrite c h rw rx) h rw rx ⟨some .write, max 2, fun ho core _ _ x => x.grantWrite (some ho) core⟩ s
def execHrel (c : Ctl) (h rw rx : BitVec 6) (s : State) : Host.Outcome State Fault Refusal :=
  opTenure (.hrel c h rw rx) h rw rx ⟨none, fun _ => 0, fun ho _ _ _ x => x.release ho⟩ s
def execHseal (c : Ctl) (h rw rx : BitVec 6) (s : State) : Host.Outcome State Fault Refusal :=
  opTenure (.hseal c h rw rx) h rw rx ⟨some .seal, fun _ => 3, fun ho _ _ _ x => x.seal (some ho)⟩ s
def execHunseal (c : Ctl) (h rw rx : BitVec 6) (s : State) : Host.Outcome State Fault Refusal :=
  inRect (.hunseal c h rw rx) h rw rx (fun _ => 0) (fun idx _ id r => unsealRect idx id r) s
def execHsplit (c : Ctl) (h rw rx : BitVec 6) (s : State) : Host.Outcome State Fault Refusal :=
  opTenure (.hsplit c h rw rx) h rw rx ⟨none, fun t => if t = 2 then 1 else t, fun ho _ up now x => x.split ho up now⟩ s

/-! Residency and contents (R324 to R327). -/

def execHprio (c : Ctl) (h ra : BitVec 6) (s : State) : Host.Outcome State Fault Refusal :=
  issue (.hprio c h ra) s fun k => do
    let (_, i, e) ← validEntry k h anyLevel
    let s ← get
    let x := s.ctx k
    let a := x.s ra
    require (field a 63 6 = 0) .illegalOp x.ir
    require (field a 5 4 ≠ 3) .handleShape a
    set (s.setEntry (coreOf k) i { e with info := putField e.info 60 57 (field a 3 0), shape := putField e.shape 5 4 (field a 5 4) })
    pure .on

/-- Sealed copies taken through a handle are returned; an unseal they held up completes (R152, R153). -/
def returnCopies (s : State) (core vd asn : Nat) (e : HEntry) (h : Holder) : State :=
  match tensorId core vd asn e with
  | none => s
  | some id =>
    let d := s.dir id
    if d.cells.isEmpty then s
    else s.setDir { d with cells := d.cells.foldl (fun m x => SMap.set {} m x.1 (x.2.returned fun r => r.2 = h)) d.cells }

def execHevict (c : Ctl) (h : BitVec 6) (s : State) : Host.Outcome State Fault Refusal :=
  issue (.hevict c h) s fun k => do
    let (t, i, e) ← validEntry k h [lvMem, lvSeq]
    let ho : Holder := { task := t, h := h.toNat }
    modify fun s =>
      let x := s.ctx k
      refreshTen (returnCopies (dropResident s (coreOf k) x.vd x.asn e) (coreOf k) x.vd x.asn e ho) (coreOf k) i x.vd x.asn ho
    pure .on

def execHdemote (c : Ctl) (h : BitVec 6) (e5 sw : Bool) (s : State) : Host.Outcome State Fault Refusal :=
  issue (.hdemote c h e5 sw) s fun k => do
    let (_, i, e) ← validEntry k h [lvKiln, lvPackage, lvMem, lvSeq]
    modify fun s =>
      let x := s.ctx k
      let (rs, s) := (jobRuns (coreOf k) x.vd x.asn e).run s
      let j : Job := { kind := .demote e5 sw (coreOf k) i x.asn e, vd := x.vd, runs := rs }
      (s.modKiln (kilnOf (coreOf k)) fun y => { y with jobs := y.jobs ++ [j] }).setEntry (coreOf k) i { e with busy := e.busy + 1 }
    pure .on

/-- The tag that HZERO leaves in a line: CODE lines, and those of a CODE page, are to be published anew (R70). The other policies act on the
writes that R75 lists, and HZERO is none of them. -/
def zeroTag (f : BitVec 6) (pol : Nat) : Tag :=
  if pol = 4 || f = Fmt.code.toCode then mkTag Fmt.code.toCode vcPending 127 else mkTag f vcZero 127

/-- One line of HZERO: a full-line write (R326). -/
def zeroLine (cl : Client) (ho : Holder) (e : HEntry) (n : Nat) : Op Unit := do
  engineTenure cl ho e (cellsOfLine e n) true (BitVec.ofNat 64 (n * 1024 / e.width))
  let (pl, v) ← openLine cl e n true
  closeLine cl e pl v 0 (BitVec.allOnes 128) (zeroTag e.fmt pl.pol)

/-- HZERO's lines from n up, one after another; a SEALED cell stops it with the lines below written, and one that holds or waits is where
it goes on (R326, R427). -/
def zeroLines (cl : Client) (ho : Holder) (e : HEntry) : Nat → Nat → Op Unit
  | 0, _ => pure ()
  | left + 1, n => fun s =>
    let at_ := fun (s : State) => s.modCtx cl.who fun c => { c with progress := some { next := n } }
    match zeroLine cl ho e n s with
    | .ok (_, s') => zeroLines cl ho e left (n + 1) s'
    | .error (.fault f s') => .error (.fault f (some (s'.getD s)))
    | .error (.wait el s') => .error (.wait el (some (at_ (s'.getD s))))
    | .error (.hold h va a el s') => .error (.hold h va a el (some (at_ (s'.getD s))))

def execHzero (c : Ctl) (h : BitVec 6) (s : State) : Host.Outcome State Fault Refusal :=
  issue (.hzero c h) s fun k => do
    let (t, _, e) ← validEntry k h anyLevel
    let s ← get
    if !seqAllowed s (s.ctx k).vd e then illegal k
    let n := match (s.ctx k).progress with | some p => p.next | none => 0
    zeroLines (clientOf s k) { task := t, h := h.toNat } e (e.footprint - n) n
    pure .on

/-- Word w of an entry, or its job word (Table 13.6); an invalid entry reads 0. -/
def HEntry.query (e : HEntry) (w : Nat) : Word :=
  if !e.valid then 0
  else match w with
    | 0 => e.sync | 1 => e.info | 2 => e.shape | 3 => e.loc
    | _ => BitVec.ofNat 64 ((if e.busy = 0 then 0 else 2 ^ 63) + min e.skipped (2 ^ 32 - 1))

def execHq (c : Ctl) (rd h w : BitVec 6) (s : State) : Host.Outcome State Fault Refusal :=
  issue (.hq c rd h w) s fun k => do
    let (t, _, e) ← rawEntry k h
    modify fun s =>
      let x := s.ctx k
      s.modCtx k fun y => y.setS rd ((if e.valid then tenNow s (coreOf k) x.vd x.asn e { task := t, h := h.toNat } else e).query w.toNat)
    pure .on

end Sys2Proof.Machine
end

