-- ==== Sys2Proof/Machine/Stores.lean ====
section
/-!
DEFINITION. Sys2Proof/Machine/Stores.lean: the sequence store's SQMAP, SQSHARE and SQFREE (R328, R329) and the windows'
WOPEN and WCLOSE (R193, R198, R330, R331).
-/

namespace Sys2Proof.Machine

open Sys2Proof

/-- A feature the VD has accepted and locked (Table 20.5). -/
def hasFeature (s : State) (vd bitNo : Nat) : Bool := (s.vd vd).lock && (s.vd vd).featacc.getLsbD bitNo

def needFeature (k bitNo : Nat) : Op Unit := do
  let s ← get
  if !hasFeature s (s.ctx k).vd bitNo then illegal k

/-- The count of a block range: 1 to 65,536, not passing block 65,535 (R328). -/
def checkCount (name c : Word) : Op Unit :=
  require (decide (1 ≤ c.toNat) && decide (c.toNat ≤ 65536) && decide (nameBlock name.toNat + c.toNat ≤ 65536)) .illegalOp c

/-- Remove a name: its frame has one reference less, and is free without any (R136). -/
def freeName (s : State) (vd name : Nat) : State :=
  match nameFrame s vd name with
  | none => s
  | some f =>
    let w := s.frameWord f
    (s.setName vd name none).setFrame f (if w.refs ≤ 1 then {} else { w with refs := w.refs - 1 })

/-- Map each of n names from a first that has no entry. -/
def mapNames (vd : Nat) (only : Option Nat) : Nat → Nat → State → Except FrameStop State
  | 0, _, s => .ok s
  | n + 1, name, s =>
    match nameFrame s vd name with
    | some _ => mapNames vd only n (name + 1) s
    | none =>
      if !nameFree s vd then .error .noBlock else
      match freeFrame s vd only false with
      | none => .error .noBlock
      | some f => do mapNames vd only n (name + 1) (← takeFrame s vd name f unlistedTag)

/-- SQMAP (R328): all or nothing; a line of a frame that is being switched is waited for, with nothing mapped yet (R69, R185). A granule number that is none of the VD's is RANGE (log entry 29, DEDUCED). -/
def execSqmap (c : Ctl) (rd rn rc : BitVec 6) (rg : Option (BitVec 6)) (s : State) : Host.Outcome State Fault Refusal :=
  issue (.sqmap c rd rn rc rg) s fun k => do
    needFeature k 1
    let s ← get
    let x := s.ctx k
    checkName (x.s rn)
    checkCount (x.s rn) (x.s rc)
    let only := rg.map fun r => (x.s r).toNat
    let mine := (seqGranules s x.vd).any fun g => only = none || only = some g.1
    let (s', st) ← if only.isSome && !mine then pure (s, 2)
      else match mapNames x.vd only (x.s rc).toNat (x.s rn).toNat s with
        | .ok s' => pure (s', 0)
        | .error .noBlock => pure (s, 3)
        | .error (.fault c _) => raise c 0
        | .error (.wait h _) => throw (.hold h 0 .store 0 none)
    set (s'.modCtx k fun y => y.setS rd (BitVec.ofNat 64 st))
    pure .on

/-- Make a destination name map a source name's frame (R136). REFS counts on past what its 16 bits show (log entry 62, DESIGN CHOICE). -/
def shareName (s : State) (vd src dvd dst : Nat) : State :=
  match nameFrame s vd src with
  | none => s
  | some f =>
    let s := freeName s dvd dst
    let w := s.frameWord f
    (s.setName dvd dst (some f)).setFrame f { refs := w.refs + 1, sealed := true }

/-- The checks of SQSHARE, as a status of Table 13.7. -/
def shareStatus (s : State) (vd dvd src dst n : Nat) (win : Option Nat) : Nat :=
  let names := (List.range n).map fun j => src + j
  let outside : Bool := match win with
    | none => false
    | some w => (s.window w).state != .openW || names.any fun m => match nameFrame s vd m with
      | some f => !((s.window w).granules.contains (f / 128))
      | none => true
  if names.any fun m => (nameFrame s vd m).isNone then 5
  else if outside then 6
  else
    let fresh := ((List.range n).filter fun j => (nameFrame s dvd (dst + j)).isNone).length
    if fresh ≠ 0 && (namesHeld s dvd + fresh > field (s.vd dvd).cfg 45 25 || s.pkg.names.length + fresh > 2 ^ 20) then 3 else 0

def execSqshare (c : Ctl) (rd rn rm rc : BitVec 6) (rw : Option (BitVec 6)) (s : State) :
    Host.Outcome State Fault Refusal :=
  issue (.sqshare c rd rn rm rc rw) s fun k => do
    needFeature k 1
    if rw.isSome then needFeature k 2
    let s ← get
    let x := s.ctx k
    let n := (x.s rc).toNat
    checkName (x.s rn)
    checkName (x.s rm)
    checkCount (x.s rn) (x.s rc)
    checkCount (x.s rm) (x.s rc)
    let win := rw.map fun r => (x.s r).toNat
    let dvd := match win with | some w => (s.window w).peer | none => x.vd
    let ours := match win with | some w => (s.window w).owner = x.vd | none => true
    let st := if !ours then 6 else shareStatus s x.vd dvd (x.s rn).toNat (x.s rm).toNat n win
    let s' := if st = 0 then (List.range n).foldl (fun s j => shareName s x.vd ((x.s rn).toNat + j) dvd ((x.s rm).toNat + j)) s
      else s
    set (s'.modCtx k fun y => y.setS rd (BitVec.ofNat 64 st))
    pure .on

def execSqfree (c : Ctl) (rn rc : BitVec 6) (s : State) : Host.Outcome State Fault Refusal :=
  issue (.sqfree c rn rc) s fun k => do
    needFeature k 1
    let s ← get
    let x := s.ctx k
    checkName (x.s rn)
    checkCount (x.s rn) (x.s rc)
    set ((List.range (x.s rc).toNat).foldl (fun s j => freeName s x.vd ((x.s rn).toNat + j)) s)
    pure .on

/-! Windows. -/

/-- Whether a granule can enter a window: HBM of the VD, in no window, no job over it. -/
def windowable (s : State) (vd g : Nat) : Bool :=
  let x := s.granule g
  region (g * 2 ^ 21) == .hbm && x.owner = vd && !x.wk && !x.rk

/-- The granules that the 2 MiB steps of a range translate to, the last step first; a step that is not mapped, by one leaf or by smaller
ones, onto one whole granule gives none (R330). A page that holds its stream is where it goes on (R427). -/
def rangePages (cl : Client) (lo hi : Nat) : Nat → Progress → Op (List (Option Nat))
  | 0, p => pure p.steps
  | fuel + 1, p => fun s =>
    if hi ≤ p.next then .ok (p.steps, s)
    else match translate cl p.next .store s with
      | .error (.hold h v a el s') =>
        .error (.hold h v a el (some ((s'.getD s).modCtx cl.who fun c => { c with progress := some p })))
      | .error e => .error e
      | .ok ((h, t), s) =>
        let off := (p.next - lo) % 2 ^ 21
        let end_ := match t with | some t => min (t.base + t.size) (p.next - off + 2 ^ 21) | none => p.next - off + 2 ^ 21
        let steps := if off = 0 then (if h % 2 ^ 21 = 0 then some (h / 2 ^ 21) else none) :: p.steps
          else (p.steps.headD none).filter (fun g => decide (h = g * 2 ^ 21 + off)) :: p.steps.tail
        rangePages cl lo hi fuel { p with next := end_, steps := steps } s

/-- The granules of the steps of a range from an address, from where the instruction has come. -/
def rangeGranules (cl : Client) (va bytes : Nat) : Op (List (Option Nat)) := do
  let p := ((← get).ctx cl.who).progress.getD { next := va }
  return (← rangePages cl va (va + bytes) (bytes / 2 ^ 11 + 2) p).reverse

/-- The lowest free slot of 1 to 63 in a VD's key-slot table; the lowest free window, but for one whose WCLOSE
has still to complete (log entry 66, DESIGN CHOICE: R193 asks for a free window). -/
def freeSlot (s : State) (vd : Nat) : Option Nat :=
  ((List.range 63).map (· + 1)).find? fun j => SMap.get none (s.vd vd).slots j = none
def freeWindow (s : State) : Option Nat := (List.range 128).find? fun w =>
  (s.window w).state = .free && ((s.window w).closer.all fun t => (s.task t).isNone)

/-- Open a window over granules (R193): key, slots, and the re-key job in the opener's kiln; WK of each follows when the job begins on it
(R185). -/
def openWindow (s : State) (core vd peer w so sp : Nat) (gs : List Nat) : State :=
  let gen := s.pkg.winGen + 1
  let s := { s with pkg := { s.pkg with winGen := gen } }
  let s := s.setWindow w { state := .opening, owner := vd, peer := peer, granules := gs, oslot := so, pslot := sp, gen := gen }
  let key := some (KeyId.window w gen)
  let s := s.modVd vd fun v => { v with slots := SMap.set none v.slots so key }
  let s := s.modVd peer fun v => { v with slots := SMap.set none v.slots sp key }
  let s := flushCopies s fun line => gs.contains (line / 16384)
  let s := gs.foldl (fun s g => s.setGranule g { s.granule g with win := w, rk := true, rdir := false, prog := 0 }) s
  s.modKiln (kilnOf core) fun y =>
    { y with jobs := y.jobs ++ [{ kind := .rekeyIn w, vd := vd, runs := sortRuns (gs.map fun g => (g * 16384, 16384, 0)) }] }

def execWopen (c : Ctl) (rd ra rb rp : BitVec 6) (sq : Bool) (s : State) : Host.Outcome State Fault Refusal :=
  issue (.wopen c rd ra rb rp sq) s fun k => do
    needFeature k 2
    let s ← get
    let x := s.ctx k
    let b := (x.s rb).toNat
    require (if sq then decide (1 ≤ b) && decide (b ≤ 4096)
      else decide (2 ^ 21 ≤ b) && decide (b ≤ 2 ^ 33) && decide (b % 2 ^ 21 = 0)) .illegalOp x.ir
    let a := (x.s ra).toNat
    let gs ← if sq then pure ((List.range b).map fun j => ((seqGranules s x.vd).find? fun y => y.1 = a + j).map (·.2))
      else rangeGranules (clientOf s k) a b
    let s ← get
    let p := (x.s rp).toNat
    let denied := p ≥ 64 || p = x.vd || !vdEnabled s p || !bit (s.vd x.vd).peers p
    let range := (!sq && a % 2 ^ 21 ≠ 0) || gs.any fun g => match g with | some g => !windowable s x.vd g | none => true
    let ok := freeWindow s |>.bind fun w => (freeSlot s x.vd).bind fun so => (freeSlot s p).map fun sp => (w, so, sp)
    let (s', st) := if denied then (s, 4) else if range then (s, 2) else match ok with
      | none => (s, 1)
      | some (w, so, sp) => (openWindow s (coreOf k) x.vd p w so sp (gs.filterMap id).eraseDups, w * 2 ^ 8 + so * 2 ^ 16 + sp * 2 ^ 24)
    set (s'.modCtx k fun y => y.setS rd (BitVec.ofNat 64 st))
    pure .on

/-- WCLOSE (R198): flush both parties, unbind the peer, start the job back; it waits in place until the window is free, first for a line being switched that the flush meets (R77). -/
def execWclose (c : Ctl) (rw : BitVec 6) (zero : Bool) (s : State) : Host.Outcome State Fault Refusal :=
  issue (.wclose c rw zero) s fun k => do
    needFeature k 2
    let (t, _) ← myTask k
    let s ← get
    let x := s.ctx k
    let a := x.s rw
    require (decide (a.toNat < 128)) .illegalOp x.ir
    let w := a.toNat
    let y := s.window w
    if y.state = .free && y.closer = some t then
      set (s.setWindow w { y with closer := none })
      pure .on
    else
      require (y.state ≠ .free && y.owner = x.vd) .permission a
      if y.closer.isSome || y.state = .closing || y.state = .opening then waitHere
      let (s', left) ← match flushWhere s fun r => r.win = w with | some z => pure z | none => waitHere
      if !left.isEmpty then
        set (recordBlocked s' left)
        raiseKept .handleInvalid 3
      let s := unbindSlot s' y.peer y.pslot (.window w y.gen)
      let s := flushCopies s fun line => y.granules.contains (line / 16384)
      let s := y.granules.foldl (fun s g => s.setGranule g { s.granule g with rk := true, rdir := true, prog := 0 }) s
      let s := s.setWindow w { y with state := .closing, closer := some t }
      set (s.modKiln (kilnOf (coreOf k)) fun z =>
        { z with jobs := z.jobs ++ [{ kind := .rekeyOut w zero, vd := x.vd, runs := sortRuns (y.granules.map fun g => (g * 16384, 16384, 0)) }] })
      waitKeep

end Sys2Proof.Machine
end

