-- ==== Sys2Proof/Machine/VecBase.lean ====
section
/-!
DEFINITION. Sys2Proof/Machine/VecBase.lean: the vector queue (R263 to R268): convoys and pipes, issue into the queue, and
how an entry is performed; lanes and rows (R333 to R336), the promotion lattice (R71 to R73).
-/

namespace Sys2Proof.Machine

open Sys2Proof

/-! Convoys (R265, R266). -/

/-- Members of a class in a convoy, and the convoy with one more. -/
def Convoy.count (v : Convoy) : Pipe → Nat
  | .mad => v.mad | .ldp => v.ldp | .stp => v.stp | .prm => v.prm | .sfu => v.sfu
def Convoy.add (v : Convoy) : Pipe → Convoy
  | .mad => { v with mad := v.mad + 1 } | .ldp => { v with ldp := v.ldp + 1 } | .stp => { v with stp := v.stp + 1 }
  | .prm => { v with prm := v.prm + 1 } | .sfu => { v with sfu := v.sfu + 1 }

/-- Pipes of a class in a core (Table 10.12). -/
def pipesOf : Pipe → Nat
  | .mad => 4 | .ldp => 2 | .stp => 1 | .prm => 1 | .sfu => 1

/-- Pipes of a class that a partition owns: PIPES is MAD0 to MAD3, LDP0, LDP1, STP, PRM, SFU from bit 10 up (R469). -/
def ownedPipes (a : Word) (p : Pipe) : Nat :=
  let n := fun (lo cnt : Nat) => ((List.range cnt).filter fun j => bit a (lo + j)).length
  match p with
  | .mad => n 10 4 | .ldp => n 14 2 | .stp => n 16 1 | .prm => n 17 1 | .sfu => n 18 1

/-- The convoy after a member with the CB bit, or the fault of R266. -/
def joinConvoy (s : State) (k : Nat) (cb : Bool) (p : Pipe) (rows : Nat) : Except Cause (Convoy × Bool) :=
  let c := s.ctx k
  let begins := cb || c.convoy.isNone
  let v : Convoy := (if begins then ({ rows := rows } : Convoy) else c.convoy.getD {}).add p
  if v.count p > pipesOf p then .error .illegalConvoy
  else if v.count p > ownedPipes (partRecord s k) p then .error .pipeNotOwned
  else .ok (v, begins)

/-- A member joins the count of its convoy. -/
def Convoy.member (v : Convoy) (e : QEntry) : Convoy :=
  match e.pipe with
  | none => v
  | some p => { v.add p with yld := e.instr.ctl.yld }

/-- What the rest of a convoy's queued members add. -/
def restOfConvoy (v : Convoy) : List QItem → Convoy
  | [] => v
  | .entry e :: q => if e.begins then v else restOfConvoy (v.member e) q
  | .mode _ _ :: q => restOfConvoy v q
  | .marker _ :: q => restOfConvoy v q

/-- The convoy at the head of a vector queue. -/
def headConvoy : List QItem → Option Convoy
  | .entry e :: q => some (restOfConvoy (({ rows := e.rows } : Convoy).member e) q)
  | _ => none

/-- The stokers of a core whose partition is that of stoker j. -/
def partners (s : State) (core j : Nat) : List Nat :=
  (List.range 4).filter fun i => partOf s (ctxId core i) = partOf s (ctxId core j)

/-- Pipes of a class for a stream's convoy: those its partition owns, less those bound to the convoys of the partition's other stokers. -/
def pipesLeft (s : State) (k : Nat) (p : Pipe) : Nat :=
  ownedPipes (partRecord s k) p - (partners s (coreOf k) (stkOf k)).foldl (fun a i =>
    a + (if i = stkOf k then 0 else match (s.ctx (ctxId (coreOf k) i)).bound with | some v => v.count p | none => 0)) 0

/-- The same for stoker j, less those its own convoy holds. -/
def freePipes (s : State) (core j : Nat) (p : Pipe) : Nat :=
  pipesLeft s (ctxId core j) p - (match (s.ctx (ctxId core j)).bound with | some v => v.count p | none => 0)

/-- The convoy a stoker has waiting to be bound. -/
def waitingConvoy (s : State) (core j : Nat) : Option Convoy :=
  let c := s.ctx (ctxId core j)
  if c.bound.isSome then none else headConvoy c.vq

/-- The entries of the head convoy with their pipes bound. -/
def pipedRest : List QItem → List QItem
  | [] => []
  | .entry e :: q => if e.begins then .entry e :: q else .entry { e with piped := true } :: pipedRest q
  | x :: q => x :: pipedRest q
def pipedHead : List QItem → List QItem
  | .entry e :: q => .entry { e with piped := true } :: pipedRest q
  | q => q

/-- What a stream's convoy holds of the pipes as a member comes to it: nothing, if the member begins a new one, the last having drained. -/
def heldPipes (s : State) (k : Nat) (begins : Bool) (rows : Nat := 1) : Convoy :=
  if begins then { rows := rows } else (s.ctx k).bound.getD { rows := rows }

/-- A member that finds its stream's queue empty has its pipe without the arbiter's round: one of its class is free, and no convoy of another
stoker of the partition waits (R267, R456). -/
def pipeAtOnce (s : State) (k : Nat) (p : Pipe) (begins : Bool) : Bool :=
  decide ((heldPipes s k begins).count p < pipesLeft s k p) &&
    (partners s (coreOf k) (stkOf k)).all fun j => j = stkOf k || (waitingConvoy s (coreOf k) j).isNone

/-- The CR of a stream's task does not show RUNNING yet: its queues wait (R233). -/
def crDueOf (s : State) (k : Nat) : Bool :=
  match (s.ctx k).task.bind s.task with
  | some x => x.crDue
  | none => false

/-! The queue. -/

/-- The operand registers a queued instruction's meaning takes at issue (R315, Table 18.9): the first two scalar registers
it reads. -/
def capture (c : Ctx) (seq : Nat) (ra rb : BitVec 6) (i : Instr) (begins : Bool) (pipe : Option Pipe := none) (rows : Nat := 1) :
    QEntry :=
  { instr := i, pipe := pipe, rows := rows, pc := c.pc, vl := c.vl.toNat, mshape := c.mshape, vstart := if c.vq.isEmpty then c.vstart.toNat else 0,
    op1 := c.s ra, op2 := c.s rb, begins := begins, seq := seq }

/-- Registers a vector entry and a matrix entry meet on (R380): the vector entry writes what the matrix entry reads, or
reads or writes what a MOVC.G writes. -/
def meetsMatrix (v m : Instr) : Bool :=
  (vwrites v).any (fun r => (vreads m).contains r || (vwrites m).contains r) || (vreads v).any fun r => (vwrites m).contains r

/-- A vector entry of an execute stream waits for an earlier entry of its task's matrix queue (R380). -/
def matrixBlocks (s : State) (k : Nat) (e : QEntry) : Bool :=
  match (s.ctx k).task.bind s.task with
  | none => false
  | some x => x.xctx = some k && x.mq.any fun q => match q with
    | .entry m => decide (m.seq < e.seq) && meetsMatrix e.instr m.instr
    | .mode _ _ => false
    | .marker _ => false

/-- What performing an entry does to the stream's own state when it completes. -/
abbrev Perform := Nat → QEntry → Op Unit

/-- An entry cannot go on: it stays at its queue's head from the element it stopped at, and the stream has issued it. -/
def parkEntry (s : State) (k : Nat) (e : QEntry) (elem : Nat) (waiting : Bool) : State :=
  s.modCtx k fun c => { c with vq := .entry { e with vstart := elem, waiting := waiting, lost := none } :: c.vq }

/-- Where an entry that waits goes on: a row-forming load takes its row again from the start, since the tags of a row's
lanes are compared; every other entry goes on from the element that waits. -/
def restartAt (i : Instr) (el vstart : Nat) : Nat :=
  match i with
  | .vld _ _ _ _ _ _ _ _ => max (el / 64 * 64) vstart
  | .vgth _ _ _ _ _ _ _ _ => max (el / 64 * 64) vstart
  | _ => max el vstart

/-- The element a fault leaves in vstart: for an instruction that does not consult vstart (R344, R346, R358) the one that
faults; for every other, one at or above where the entry began. -/
def faultAt (i : Instr) (el vstart : Nat) : Nat :=
  match i with
  | .vqblk _ _ _ _ _ _ _ => el
  | .vtagSet _ _ _ _ => el
  | .vtagSetAll _ _ _ => el
  | .vmovsGet _ _ _ _ => el
  | .vrot _ _ _ _ _ _ _ => el
  | .vbc _ _ _ _ _ _ _ => el
  | .vred _ _ _ _ _ _ _ => el
  | .vscan _ _ _ _ _ _ _ => el
  | .vtrn _ _ _ _ => el
  | .vshuf _ _ _ _ _ _ => el
  | .vcmpr _ _ _ _ _ => el
  | _ => max el vstart

/-- Perform the entry of stream k that is at its queue's head (or was issued into an empty queue): done; a fault of the
entry, with the stream stopped at its next instruction (R424); a wait; or a hold. An entry whose handle has been freed while it waited ends
with its fault (R318). -/
def runVector (s : State) (k : Nat) (e : QEntry) (perform : Perform) : State :=
  match (match e.lost with | some h => raise .handleInvalid (h.setWidth 64) | none => perform k e : Op Unit) s with
  | .ok (_, s') => s'.modCtx k fun c => { c with vstart := 0 }
  | .error (.fault f s') =>
    let el := faultAt e.instr f.elem e.vstart
    let s' := parkEntry (s'.getD s) k e el false
    raiseFault s' k { f with src := .vector, elem := el, fpc := e.pc, epc := (s'.ctx k).pc }
  | .error (.wait el s') => parkEntry ((s'.getD s).noteElem (2000 + k) el) k e (restartAt e.instr el e.vstart) true
  | .error (.hold h va a el s') =>
    (parkEntry (s'.getD s) k e (restartAt e.instr el e.vstart) false).modCtx k fun c =>
      { c with hold := some { kind := h, va := va, access := a, src := .vector, elem := el, since := s.now } }

/-- After an entry taken up at its issue: one that stays at the queue's head leaves its convoy to the arbiter's steps, bound unless it has
faulted. -/
def afterIssue (s : State) (k : Nat) : State :=
  if (s.ctx k).vq.isEmpty then s
  else s.modCtx k fun c => { c with bound := if queueStopped s k .vector then none else c.bound, drained := queueStopped s k .vector }

/-- Issue an instruction into the vector queue: the checks of Table 10.11, the convoy rules, which count a member whether
or not it is performed, an operand value beyond the instruction's limit (`bad`), then the queue; an entry that finds the
queue empty, and its pipe free, is performed at once (R267; log entry 3, DEDUCED). -/
def issueVector (i : Instr) (pipe : Option Pipe) (n : Nat) (ra rb : BitVec 6) (perform : Perform) (s : State)
    (bad : Ctx → Option Word := fun _ => none) : Host.Outcome State Fault Refusal :=
  let k := s.focus
  let c := s.ctx k
  match issueFault i c with
  | some f => settle s k (.error (.fault f none))
  | none =>
    if c.stalls i || (c.guards i.ctl && decide (32 ≤ c.vq.length)) then .next s
    else
      let cv : Except Cause (Option Convoy × Bool) := match pipe with
        | none => if i.ctl.cb then .error .illegalOp else .ok (c.convoy, false)
        | some p => (joinConvoy s k i.ctl.cb p n).map fun x => (some x.1, x.2)
      match cv with
      | .error f => settle s k (.error (.fault { cause := f, etval := c.ir } none))
      | .ok (v, begins) =>
        let e := capture c s.ticks ra rb i begins pipe n
        let outside := if c.guards i.ctl then bad c else none
        if outside.isSome then settle s k (.error (.fault { cause := .illegalOp, etval := outside.getD 0 } none)) else
        let s' := s.modCtx k fun c => { c.advance with convoy := v, convoyMarker := c.convoyMarker && !begins }
        if !c.guards i.ctl then .next s'
        else if c.vq.isEmpty && c.hold.isNone && !c.faulted && !matrixBlocks s' k e && (match pipe with | some p => pipeAtOnce s k p begins | none => true) then
          let e := { e with piped := true }
          let s' := if pipe.isNone then s' else s'.modCtx k fun c => { c with bound := some ((heldPipes s k begins n).member e), drained := true }
          if c.mode = .m then
            match perform k e s' with
            | .error (.fault _ _) => .fault .firmwareTrap
            | _ => .next (afterIssue (runVector s' k e perform) k)
          else .next (afterIssue (runVector s' k e perform) k)
        else .next (s'.modCtx k fun c => { c with vq := c.vq ++ [.entry e] })

/-! Lanes and rows (R333, R334). -/

/-- The mask predicate of the masked form. -/
def Ctx.mask (c : Ctx) (m : Option (BitVec 4)) : Option (BitVec 1024) := m.map c.vp

/-- Lane (r, c) is active, rows being counted apart (R333). -/
def laneActive (e : QEntry) (m : Option (BitVec 1024)) (r c : Nat) : Bool :=
  decide (c < e.vl) && decide (e.vstart ≤ 64 * r + c) && (match m with | none => true | some b => b.getLsbD (64 * r + c))

def activeLanes (e : QEntry) (m : Option (BitVec 1024)) (r : Nat) : List Nat :=
  (List.range 64).filter fun c => laneActive e m r c

/-- The element and the state an early end carries. -/
def Stop.elem : Stop → Nat
  | .fault f _ => f.elem
  | .wait el _ => el
  | .hold _ _ _ el _ => el
def Stop.state : Stop → Option State
  | .fault _ s => s
  | .wait _ s => s
  | .hold _ _ _ _ s => s
def Stop.withState (s : State) : Stop → Stop
  | .fault f _ => .fault f (some s)
  | .wait el _ => .wait el (some s)
  | .hold h va a el _ => .hold h va a el (some s)

/-- Attach an element to how a piece of an entry ends early, unless the piece names a later one of its own; what was done
before the piece stands (R226). -/
def atElem (el : Nat) (op : Op Unit) : Op Unit := fun s =>
  match op s with
  | .ok x => .ok x
  | .error (.fault f s') => .error (.fault { f with elem := max el f.elem } (some (s'.getD s)))
  | .error (.wait x s') => .error (.wait (max el x) (some (s'.getD s)))
  | .error (.hold h va a x s') => .error (.hold h va a (max el x) (some (s'.getD s)))

/-- Rows r to r + left − 1 that have an active lane, in ascending order, each at its first active element (R335). -/
def rowsFrom (e : QEntry) (m : Option (BitVec 1024)) (body : Nat → List Nat → Op Unit) : Nat → Nat → Op Unit
  | 0, _ => pure ()
  | left + 1, r => do
    match activeLanes e m r with
    | [] => pure ()
    | c :: cs => atElem (64 * r + c) (body r (c :: cs))
    rowsFrom e m body left (r + 1)

def forRows (e : QEntry) (n : Nat) (m : Option (BitVec 1024)) (body : Nat → List Nat → Op Unit) : Op Unit :=
  rowsFrom e m body n 0

/-- An element's code. -/
def Row.elem (r : Row) (c : Nat) : Nat := (vecGet 0 r.data c).toNat

/-- A row from a function of its lanes. -/
def rowOf (t : Tag) (f : Nat → Nat) : Row := { tag := t, data := Vector.ofFn fun (j : Fin 64) => BitVec.ofNat 32 (f j.val) }

/-- The destination row of R334: active lanes take results; others keep their element under an equal FMT and LXP, else
become zeros. -/
def mergeRow (old : Row) (t : Tag) (lanes : List Nat) (res : Nat → Nat) : Row :=
  let keep := tagFmt old.tag = tagFmt t && tagLxp old.tag = tagLxp t
  rowOf t fun c => if lanes.contains c then res c else if keep then old.elem c else 0

/-- Row r of a register of stream k. -/
def getRow (k : Nat) (v : BitVec 5) (r : Nat) : Op Row := do return ((← get).ctx k).row v.toNat r

/-- Write lanes of row r of a register. -/
def putRow (k : Nat) (v : BitVec 5) (r : Nat) (t : Tag) (lanes : List Nat) (res : Nat → Nat) : Op Unit :=
  modify fun s => s.modCtx k fun c => c.setRow v.toNat r (mergeRow (c.row v.toNat r) t lanes res)

/-- Write a whole row. -/
def putWhole (k : Nat) (v : BitVec 5) (r : Nat) (x : Row) : Op Unit :=
  modify fun s => s.modCtx k fun c => c.setRow v.toNat r x

/-- The value that names a register row in etval (Table 18.3). -/
def rowVal (v : BitVec 5) (r : Nat) : Word := BitVec.ofNat 64 (16 * v.toNat + r)

/-- A POISON row is consumed (R67). -/
def notPoison (v : BitVec 5) (r : Nat) (x : Row) : Op Unit :=
  require (!vcPoisoned (tagVc x.tag)) .poisonConsumed (rowVal v r)

/-- FORMAT_PAIR with a row's tag. -/
def pairFault {α : Type} (x : Row) : Op α := raise .formatPair (x.tag.setWidth 64)

/-- The format of a row that arithmetic may read: an arithmetic format of class VALID, with LXP 127 unless a float (R335). -/
def arithFmt (x : Row) : Op Fmt :=
  match Fmt.ofCode (tagFmt x.tag) with
  | none => pairFault x
  | some f => if f.isArith && tagVc x.tag = vcValid && (f.isFloat || tagLxp x.tag = 127) then pure f else pairFault x

/-- The rows r of source registers, all checked for POISON first (Table 3.6). -/
def readRows (k r : Nat) (vs : List (BitVec 5)) : Op (List Row) := do
  let xs ← vs.mapM fun v => do
    let x ← getRow k v r
    notPoison v r x
    pure x
  pure xs

/-- An element's exact value. -/
def Row.val (x : Row) (f : Fmt) (c : Nat) : FNum := readElem f (tagLxp x.tag) (x.elem c)

/-! The promotion lattice. -/

/-- The groups of Table 3.7, in its order. -/
def latGroup : Fmt → Option Nat
  | .e2m1 => some 0 | .e4m3 | .e5m2 => some 1 | .bf16 => some 2 | .f16 => some 3 | .f32 => some 4
  | .i8 | .ob8 | .ob4 => some 5 | .i16 => some 6 | .i32 => some 7
  | .raw | .i64 | .s3m5 | .se8 | .zp8 | .code => none

/-- Reset contents of LATADD and LATMUL for two groups (Table 3.7). -/
def latReset (mul : Bool) (a b : Nat) : Fmt :=
  let rows : List (List Fmt) := [
    [.bf16, .bf16, .bf16, .f16, .f32, .bf16, .f32, .f32],
    [.bf16, .bf16, .bf16, .f16, .f32, .bf16, .f32, .f32],
    [.bf16, .bf16, .bf16, .f32, .f32, .bf16, .f32, .f32],
    [.f16, .f16, .f32, .f16, .f32, .f16, .f32, .f32],
    [.f32, .f32, .f32, .f32, .f32, .f32, .f32, .f32],
    [.bf16, .bf16, .bf16, .f16, .f32, .i16, .i16, .i32],
    [.f32, .f32, .f32, .f32, .f32, .i16, .i16, .i32],
    [.f32, .f32, .f32, .f32, .f32, .i32, .i32, .i32]]
  let f := (rows.getD a []).getD b .f32
  if mul && f = .i16 then .i32 else f

/-- The reset byte at an offset of the tables: LATADD from 0, LATMUL from 4096 (R71, R73). -/
def latByte (off : Nat) : BitVec 8 :=
  match Fmt.ofCode (BitVec.ofNat 6 (off / 64 % 64)), Fmt.ofCode (BitVec.ofNat 6 (off % 64)) with
  | some a, some b =>
    match latGroup a, latGroup b with
    | some x, some y => (latReset (decide (4096 ≤ off)) x y).toCode.setWidth 8
    | _, _ => 0xFF
  | _, _ => 0xFF

/-- Lattice() of R72: the result format; none for FORMAT_PAIR. -/
def lattice (s : State) (vd : Nat) (mul : Bool) (a b : Fmt) : Option Fmt :=
  if !a.isArith || !b.isArith then none
  else
    let off := (if mul then 4096 else 0) + 64 * a.toCode.toNat + b.toCode.toNat
    let e := SMap.get (latByte off) (s.vd vd).lat off
    if e.toNat > 0x3F then none
    else match Fmt.ofCode (e.setWidth 6) with
      | some f => if f.isArith then some f else none
      | none => none

/-- The tag of an arithmetic result row. -/
def resTag (f : Fmt) : Tag := mkTag f.toCode vcValid 127

/-- An exact integer as a number. -/
def FNum.toInt : FNum → Int
  | .fin n m e => let v : Int := m * 2 ^ e.toNat; if n then -v else v
  | .inf _ => 0
  | .nan _ => 0

/-- Finish() for a vector lane: a float result is rounded once (Table 4.7); an integer result of integers wraps, one of
floats is converted, each clamp setting OF (R337, R338). -/
def finishLane (f : Fmt) (md : RMode) (ints : Bool) (x : FNum) : Nat × Flags :=
  if f.isFloat then finish f md x
  else if ints then ((x.toInt % (2 ^ f.width : Nat)).toNat, {})
  else
    let (c, o, fl) := satInt f md x 0
    (c, { fl with of := o })

/-- The rounding mode of a stream's vector queue (R336). -/
def Ctx.vmode (c : Ctx) : RMode := RMode.ofCode c.vqMode.toNat

/-- OR flags into vstat. -/
def orVstat (k : Nat) (f : Flags) : Op Unit := modify fun s => s.modCtx k fun c => c.orVstat f

/-- Act on the rows that have an active lane, under the entry's mask. -/
def overRows (k : Nat) (e : QEntry) (n : BitVec 4) (m : Option (BitVec 4)) (body : Nat → List Nat → Op Unit) : Op Unit := do
  let s ← get
  forRows e (n.toNat + 1) ((s.ctx k).mask m) body

/-- A predicate with lane bits of row r rewritten. -/
def putBits (p : BitVec 1024) (r : Nat) (lanes : List Nat) (f : Nat → Bool) : BitVec 1024 :=
  lanes.foldl (fun p c =>
    let b : BitVec 1024 := BitVec.ofNat 1024 (2 ^ (64 * r + c))
    if f c then p ||| b else p &&& ~~~b) p

/-- Rewrite lane bits of row r of a predicate register. -/
def putPred (k : Nat) (v : BitVec 4) (r : Nat) (lanes : List Nat) (f : Nat → Bool) : Op Unit :=
  modify fun s => s.modCtx k fun c => c.setVp v (putBits (c.vp v) r lanes f)

/-- Compute a row's lanes, each once, with their flags: the results in lane order. -/
def lanesMap (lanes : List Nat) (f : Nat → Nat × Flags) : (Nat → Nat) × Flags :=
  let rs := lanes.map fun c => (c, f c)
  (fun c => match rs.find? fun x => x.1 = c with | some x => x.2.1 | none => 0,
   rs.foldl (fun a x => a.or x.2.2) {})

end Sys2Proof.Machine
end

