-- ==== Sys2Proof/Machine/VecElem.lean ====
section
/-!
DEFINITION. Sys2Proof/Machine/VecElem.lean: the element-wise vector instructions (R332 to R350) and the votes VANY and
VALL (R293). Each has what performing its queue entry does, and its issue.
-/

namespace Sys2Proof.Machine

open Sys2Proof

/-! Arithmetic (R337 to R339). -/

/-- Lane-wise arithmetic on rows of arithmetic formats: the result format from the sources', and each lane's exact result
from its operands, with whether the operation was invalid. -/
def perfArith (vd : BitVec 5) (srcs : List (BitVec 5)) (n : BitVec 4) (m : Option (BitVec 4))
    (res : State → Nat → List Fmt → Option Fmt) (f : RMode → List FNum → FNum × Bool) : Perform := fun k e =>
  overRows k e n m fun r lanes => do
    let xs ← readRows k r srcs
    let fs ← xs.mapM arithFmt
    let s ← get
    match res s (s.ctx k).vd fs with
    | none => pairFault (xs.headD {})
    | some g =>
      let md := (s.ctx k).vmode
      let ints := fs.all fun x => !x.isFloat
      let (out, fl) := lanesMap lanes fun c =>
        let (x, nv) := f md ((xs.zip fs).map fun y => y.1.val y.2 c)
        let (code, fl) := finishLane g md ints x
        (code, { fl with nv := fl.nv || nv })
      orVstat k fl
      putRow k vd r (resTag g) lanes out

/-- Lattice(ADD, fa, fb), Lattice(MUL, fa, fb), Lattice(ADD, Lattice(MUL, fa, fb), fc), Lattice(ADD, fa, fa). -/
def latAdd (s : State) (vd : Nat) : List Fmt → Option Fmt
  | [a, b] => lattice s vd false a b
  | [a] => lattice s vd false a a
  | _ => none
def latMul (s : State) (vd : Nat) : List Fmt → Option Fmt
  | [a, b] => lattice s vd true a b
  | _ => none
def latFma (s : State) (vd : Nat) : List Fmt → Option Fmt
  | [a, b, c] => (lattice s vd true a b).bind fun x => lattice s vd false x c
  | _ => none

/-- Lane functions from their operands. -/
def lane2 (f : RMode → FNum → FNum → FNum × Bool) (md : RMode) : List FNum → FNum × Bool
  | [a, b] => f md a b
  | _ => (.nan false, true)
def lane1 (f : FNum → FNum) (_ : RMode) : List FNum → FNum × Bool
  | [a] => (f a, false)
  | _ => (.nan false, true)
def lane3 (f : RMode → FNum → FNum → FNum → FNum × Bool) (md : RMode) : List FNum → FNum × Bool
  | [a, b, c] => f md a b c
  | _ => (.nan false, true)

def perfVadd (vd va vb : BitVec 5) (n : BitVec 4) (m : Option (BitVec 4)) : Perform :=
  perfArith vd [va, vb] n m latAdd (lane2 FNum.add)
def perfVsub (vd va vb : BitVec 5) (n : BitVec 4) (m : Option (BitVec 4)) : Perform :=
  perfArith vd [va, vb] n m latAdd (lane2 fun md a b => FNum.add md a b.neg)
def perfVmul (vd va vb : BitVec 5) (n : BitVec 4) (m : Option (BitVec 4)) : Perform :=
  perfArith vd [va, vb] n m latMul (lane2 fun _ a b => FNum.mul a b)
def perfVfma (vd va vb vc : BitVec 5) (n : BitVec 4) (m : Option (BitVec 4)) : Perform :=
  perfArith vd [va, vb, vc] n m latFma (lane3 FNum.fma)
def perfVfms (vd va vb vc : BitVec 5) (n : BitVec 4) (m : Option (BitVec 4)) : Perform :=
  perfArith vd [va, vb, vc] n m latFma (lane3 fun md a b c => FNum.fma md a b c.neg)
def perfVmin (vd va vb : BitVec 5) (n : BitVec 4) (m : Option (BitVec 4)) : Perform :=
  perfArith vd [va, vb] n m latAdd (lane2 fun _ a b => FNum.pick false a b)
def perfVmax (vd va vb : BitVec 5) (n : BitVec 4) (m : Option (BitVec 4)) : Perform :=
  perfArith vd [va, vb] n m latAdd (lane2 fun _ a b => FNum.pick true a b)
def perfVabs (vd va : BitVec 5) (n : BitVec 4) (m : Option (BitVec 4)) : Perform :=
  perfArith vd [va] n m latAdd (lane1 FNum.abs)
def perfVneg (vd va : BitVec 5) (n : BitVec 4) (m : Option (BitVec 4)) : Perform :=
  perfArith vd [va] n m latAdd (lane1 FNum.neg)

/-- The number of rows of a rows field. -/
def rowsOf (n : BitVec 4) : Nat := n.toNat + 1

def execVadd (c : Ctl) (vd va vb : BitVec 5) (n : BitVec 4) (m : Option (BitVec 4)) (s : State) :
    Host.Outcome State Fault Refusal :=
  issueVector (.vadd c vd va vb n m) (some .mad) (rowsOf n) 0 0 (perfVadd vd va vb n m) s
def execVsub (c : Ctl) (vd va vb : BitVec 5) (n : BitVec 4) (m : Option (BitVec 4)) (s : State) :
    Host.Outcome State Fault Refusal :=
  issueVector (.vsub c vd va vb n m) (some .mad) (rowsOf n) 0 0 (perfVsub vd va vb n m) s
def execVmul (c : Ctl) (vd va vb : BitVec 5) (n : BitVec 4) (m : Option (BitVec 4)) (s : State) :
    Host.Outcome State Fault Refusal :=
  issueVector (.vmul c vd va vb n m) (some .mad) (rowsOf n) 0 0 (perfVmul vd va vb n m) s
def execVfma (c : Ctl) (vd va vb vc : BitVec 5) (n : BitVec 4) (m : Option (BitVec 4)) (s : State) :
    Host.Outcome State Fault Refusal :=
  issueVector (.vfma c vd va vb vc n m) (some .mad) (rowsOf n) 0 0 (perfVfma vd va vb vc n m) s
def execVfms (c : Ctl) (vd va vb vc : BitVec 5) (n : BitVec 4) (m : Option (BitVec 4)) (s : State) :
    Host.Outcome State Fault Refusal :=
  issueVector (.vfms c vd va vb vc n m) (some .mad) (rowsOf n) 0 0 (perfVfms vd va vb vc n m) s
def execVmin (c : Ctl) (vd va vb : BitVec 5) (n : BitVec 4) (m : Option (BitVec 4)) (s : State) :
    Host.Outcome State Fault Refusal :=
  issueVector (.vmin c vd va vb n m) (some .mad) (rowsOf n) 0 0 (perfVmin vd va vb n m) s
def execVmax (c : Ctl) (vd va vb : BitVec 5) (n : BitVec 4) (m : Option (BitVec 4)) (s : State) :
    Host.Outcome State Fault Refusal :=
  issueVector (.vmax c vd va vb n m) (some .mad) (rowsOf n) 0 0 (perfVmax vd va vb n m) s
def execVabs (c : Ctl) (vd va : BitVec 5) (n : BitVec 4) (m : Option (BitVec 4)) (s : State) :
    Host.Outcome State Fault Refusal :=
  issueVector (.vabs c vd va n m) (some .mad) (rowsOf n) 0 0 (perfVabs vd va n m) s
def execVneg (c : Ctl) (vd va : BitVec 5) (n : BitVec 4) (m : Option (BitVec 4)) (s : State) :
    Host.Outcome State Fault Refusal :=
  issueVector (.vneg c vd va n m) (some .mad) (rowsOf n) 0 0 (perfVneg vd va n m) s

/-! Bitwise operations and shifts (R340, Table 14.3). -/

/-- A row's format whatever its class. -/
def rowFmt (x : Row) : Op Fmt :=
  match Fmt.ofCode (tagFmt x.tag) with
  | some f => pure f
  | none => pairFault x

/-- Lane-wise work on bit patterns, the result rows tagged as va's rows; ok says which pairs of formats the table takes. -/
def perfBits (vd va vb : BitVec 5) (n : BitVec 4) (m : Option (BitVec 4)) (ok : Fmt → Fmt → Bool)
    (f : Fmt → Fmt → Nat → Nat → Nat) : Perform := fun k e =>
  overRows k e n m fun r lanes => do
    let a ← getRow k va r
    let b ← getRow k vb r
    notPoison va r a
    notPoison vb r b
    let fa ← rowFmt a
    let fb ← rowFmt b
    if !ok fa fb then pairFault a
    let (out, _) := lanesMap lanes fun c => (f fa fb (a.elem c) (b.elem c), {})
    putRow k vd r a.tag lanes out

def sameFmt (a b : Fmt) : Bool := a = b && a ≠ .i64
def shiftAmt (f : Fmt) : Bool := f = .i8 || f = .i16 || f = .i32 || f = .ob8 || f = .ob4
def shiftOk (a b : Fmt) : Bool := (shiftAmt a || a = .raw) && shiftAmt b
def sraOk (a b : Fmt) : Bool := (a = .i8 || a = .i16 || a = .i32) && shiftAmt b

/-- The shift amount: the value of vb's element modulo the width of va's. -/
def amount (fa fb : Fmt) (b : Nat) : Nat := ((decode fb b).toInt % (fa.width : Int)).toNat

def perfVand (vd va vb : BitVec 5) (n : BitVec 4) (m : Option (BitVec 4)) : Perform :=
  perfBits vd va vb n m sameFmt fun _ _ a b => a &&& b
def perfVor (vd va vb : BitVec 5) (n : BitVec 4) (m : Option (BitVec 4)) : Perform :=
  perfBits vd va vb n m sameFmt fun _ _ a b => a ||| b
def perfVxor (vd va vb : BitVec 5) (n : BitVec 4) (m : Option (BitVec 4)) : Perform :=
  perfBits vd va vb n m sameFmt fun _ _ a b => a ^^^ b
def perfVshl (vd va vb : BitVec 5) (n : BitVec 4) (m : Option (BitVec 4)) : Perform :=
  perfBits vd va vb n m shiftOk fun fa fb a b => a * 2 ^ amount fa fb b % 2 ^ fa.width
def perfVshr (vd va vb : BitVec 5) (n : BitVec 4) (m : Option (BitVec 4)) : Perform :=
  perfBits vd va vb n m shiftOk fun fa fb a b => a / 2 ^ amount fa fb b
def perfVsra (vd va vb : BitVec 5) (n : BitVec 4) (m : Option (BitVec 4)) : Perform :=
  perfBits vd va vb n m sraOk fun fa fb a b => ((BitVec.ofNat fa.width a).sshiftRight (amount fa fb b)).toNat

def execVand (c : Ctl) (vd va vb : BitVec 5) (n : BitVec 4) (m : Option (BitVec 4)) (s : State) :
    Host.Outcome State Fault Refusal :=
  issueVector (.vand c vd va vb n m) (some .mad) (rowsOf n) 0 0 (perfVand vd va vb n m) s
def execVor (c : Ctl) (vd va vb : BitVec 5) (n : BitVec 4) (m : Option (BitVec 4)) (s : State) :
    Host.Outcome State Fault Refusal :=
  issueVector (.vor c vd va vb n m) (some .mad) (rowsOf n) 0 0 (perfVor vd va vb n m) s
def execVxor (c : Ctl) (vd va vb : BitVec 5) (n : BitVec 4) (m : Option (BitVec 4)) (s : State) :
    Host.Outcome State Fault Refusal :=
  issueVector (.vxor c vd va vb n m) (some .mad) (rowsOf n) 0 0 (perfVxor vd va vb n m) s
def execVshl (c : Ctl) (vd va vb : BitVec 5) (n : BitVec 4) (m : Option (BitVec 4)) (s : State) :
    Host.Outcome State Fault Refusal :=
  issueVector (.vshl c vd va vb n m) (some .mad) (rowsOf n) 0 0 (perfVshl vd va vb n m) s
def execVshr (c : Ctl) (vd va vb : BitVec 5) (n : BitVec 4) (m : Option (BitVec 4)) (s : State) :
    Host.Outcome State Fault Refusal :=
  issueVector (.vshr c vd va vb n m) (some .mad) (rowsOf n) 0 0 (perfVshr vd va vb n m) s
def execVsra (c : Ctl) (vd va vb : BitVec 5) (n : BitVec 4) (m : Option (BitVec 4)) (s : State) :
    Host.Outcome State Fault Refusal :=
  issueVector (.vsra c vd va vb n m) (some .mad) (rowsOf n) 0 0 (perfVsra vd va vb n m) s

/-! Comparison and selection (R341, R342). -/

def perfVcmp (vpd : BitVec 4) (va vb : BitVec 5) (n : BitVec 4) (m : Option (BitVec 4)) (cc : BitVec 4) : Perform := fun k e =>
  overRows k e n m fun r lanes => do
    let a ← getRow k va r
    let b ← getRow k vb r
    notPoison va r a
    notPoison vb r b
    let fa ← arithFmt a
    let fb ← arithFmt b
    let s ← get
    if (lattice s (s.ctx k).vd false fa fb).isNone then pairFault a
    let rs := lanes.map fun c => (c, numCond cc.toNat (a.val fa c) (b.val fb c))
    orVstat k { nv := rs.any fun x => x.2.2 }
    putPred k vpd r lanes fun c => match rs.find? fun x => x.1 = c with | some x => x.2.1 | none => false

def execVcmp (c : Ctl) (vpd : BitVec 4) (va vb : BitVec 5) (n : BitVec 4) (m : Option (BitVec 4)) (cc : BitVec 4) (s : State) :
    Host.Outcome State Fault Refusal :=
  issueVector (.vcmp c vpd va vb n m cc) (some .mad) (rowsOf n) 0 0 (perfVcmp vpd va vb n m cc) s

/-- Lanes of a selection in order: those performed, and the register whose POISON row stops the rest (R67). -/
def selLanes (pa pb : Bool) (pick : Nat → Bool) : List Nat → List Nat × Option (Nat × Bool)
  | [] => ([], none)
  | c :: cs => if (if pick c then pa else pb) then ([], some (c, pick c))
    else let (xs, st) := selLanes pa pb pick cs; (c :: xs, st)

def perfVsel (vd va vb : BitVec 5) (vps : BitVec 4) (n : BitVec 4) (m : Option (BitVec 4)) : Perform := fun k e =>
  overRows k e n m fun r lanes => do
    let a ← getRow k va r
    let b ← getRow k vb r
    let p := ((← get).ctx k).vp vps
    let pick := fun (c : Nat) => p.getLsbD (64 * r + c)
    let (go, st) := selLanes (vcPoisoned (tagVc a.tag)) (vcPoisoned (tagVc b.tag)) pick lanes
    if !go.isEmpty then
      if tagFmt a.tag ≠ tagFmt b.tag || tagLxp a.tag ≠ tagLxp b.tag then pairFault a
      putRow k vd r a.tag go fun c => if pick c then a.elem c else b.elem c
    match st with
    | some (c, first) => raiseAt .poisonConsumed (rowVal (if first then va else vb) r) (64 * r + c)
    | none => pure ()

def execVsel (c : Ctl) (vd va vb : BitVec 5) (vps : BitVec 4) (n : BitVec 4) (m : Option (BitVec 4)) (s : State) :
    Host.Outcome State Fault Refusal :=
  issueVector (.vsel c vd va vb vps n m) (some .mad) (rowsOf n) 0 0 (perfVsel vd va vb vps n m) s

/-! Conversion (R343). -/

/-- The handle that counts overflows must be valid. -/
def checkCounter (k : Nat) : Option (BitVec 6) → Op Unit
  | none => pure ()
  | some h => do let _ ← validEntry k h anyLevel

/-- Count overflows in a handle's OVF, or set vstat.OF without one (R94, R343). -/
def countOvf (k : Nat) (h : Option (BitVec 6)) (o : Nat) : Op Unit :=
  match h with
  | some h => do
    let (_, i, x) ← rawEntry k h
    modify fun s => s.setEntry (coreOf k) i (x.addOvf o)
  | none => orVstat k { of := decide (0 < o) }

/-- The exponent of a converted row (R343). -/
def cvtLxp (lx : BitVec 2) (g : Fmt) (x : Row) (vals : List FNum) : Nat :=
  if lx = 1 then demoteLxp (largest vals) g else if lx = 2 then tagLxp x.tag else 127

def perfVcvt (vd va : BitVec 5) (fmt : BitVec 6) (h : Option (BitVec 6)) (n : BitVec 4) (m : Option (BitVec 4)) (lx : BitVec 2) :
    Perform := fun k e => do
  checkCounter k h
  overRows k e n m fun r lanes => do
    let x ← getRow k va r
    notPoison va r x
    let f ← arithFmt x
    match Fmt.ofCode fmt with
    | none => pairFault x
    | some g =>
      if !g.isArith || (lx = 2 && !f.isFloat) then pairFault x
      let md := ((← get).ctx k).vmode
      let lxp := cvtLxp lx g x (lanes.map fun c => x.val f c)
      let rs := lanes.map fun c => (c, satTo g md lxp (x.val f c))
      orVstat k (rs.foldl (fun a y => a.or y.2.2.2) {})
      countOvf k h (rs.filter fun y => y.2.2.1).length
      putRow k vd r (mkTag fmt vcValid lxp) lanes fun c => match rs.find? fun y => y.1 = c with | some y => y.2.1 | none => 0

def execVcvt (c : Ctl) (vd va : BitVec 5) (fmt : BitVec 6) (h : Option (BitVec 6)) (n : BitVec 4) (m : Option (BitVec 4))
    (lx : BitVec 2) (s : State) : Host.Outcome State Fault Refusal :=
  issueVector (.vcvt c vd va fmt h n m lx) (some .mad) (rowsOf n) 0 0 (perfVcvt vd va fmt h n m lx) s

/-! Block quantisation (R344, R345). -/

/-- The target, block, scale format of VQBLK (Table 14.5). -/
def qblkTarget (t : BitVec 2) : Fmt × Nat × Fmt :=
  if t = 0 then (.e2m1, 8, .s3m5) else if t = 1 then (.e4m3, 32, .se8) else (.e5m2, 32, .se8)

/-- The magnitude of greatest value, NaNs skipped; +0 with none (R344). -/
def amaxOf : List FNum → FNum
  | [] => .fin false 0 0
  | .nan _ :: xs => amaxOf xs
  | .inf _ :: _ => .inf false
  | .fin _ m e :: xs =>
    match amaxOf xs with
    | .inf n => .inf n
    | y => match FNum.cmp (.fin false m e) y with | some .gt => .fin false m e | _ => y

/-- ScaleUp(amax / MaxFinite): the code of the least scale not below it, or the largest (R344). -/
def scaleUp (tgt sf : Fmt) (a : FNum) : Nat :=
  match a, decode tgt tgt.maxCode with
  | .fin _ m e, .fin _ mx ex =>
    if sf = .s3m5 then min sf.maxCode (roundMag sf .rup false m mx (e - ex)).1
    else if m = 0 then 0
    else
      let l := ratioLog2 m mx
      let k : Int := l + e - ex + (if m * pow2down l = mx * pow2up l then 0 else 1)
      (max 0 (min 254 (127 + k))).toNat
  | _, _ => if sf = .s3m5 then sf.maxCode else 0xFE

/-- The exact value of a scale byte (R97, R99). -/
def scaleVal (sf : Fmt) (q : Nat) : FNum := if sf = .se8 then .fin false 1 ((q : Int) - 127) else decode sf q

/-- Sat(Round(x / s, tgt, mode), tgt), with s = 0 giving 0. -/
def divSat (tgt : Fmt) (md : RMode) (x sc : FNum) : Nat × Bool × Flags :=
  match sc, x with
  | .fin _ sm se, .fin neg m e => if sm = 0 then (0, false, {}) else satRatio tgt md neg m sm (e - se)
  | .fin _ sm _, x => if sm = 0 then (0, false, {}) else satFloat tgt md x 0
  | _, _ => (0, false, {})

/-- One row of VQBLK: the codes of its 64 lanes, its scale codes, its overflows and flags. -/
def qblkRow (tgt sf : Fmt) (bs vl : Nat) (md : RMode) (x : Nat → FNum) : List Nat × List Nat × Nat × Flags :=
  let blocks := (List.range (64 / bs)).map fun b =>
    let lanes := (List.range bs).map fun j => b * bs + j
    let act := lanes.filter fun c => decide (c < vl)
    if act.isEmpty then (lanes.map fun _ => ((0, false, {}) : Nat × Bool × Flags), 0)
    else
      let q := scaleUp tgt sf (amaxOf (act.map x))
      (lanes.map fun c => if c < vl then divSat tgt md (x c) (scaleVal sf q) else (0, false, {}), q)
  let ys := blocks.flatMap (·.1)
  (ys.map (·.1), blocks.map (·.2), (ys.filter fun y => y.2.1).length, ys.foldl (fun a y => a.or y.2.2) {})

/-- Check every row VQBLK reads, before it writes any. -/
def qblkRows (k : Nat) (va : BitVec 5) : List Nat → Op (List (Row × Fmt))
  | [] => pure []
  | r :: rs => do
    let x ← getRow k va r
    let el (c : Cause) (w : Word) : Op Unit := throw (.fault { cause := c, etval := w, elem := 64 * r } none)
    if vcPoisoned (tagVc x.tag) then el .poisonConsumed (rowVal va r)
    match Fmt.ofCode (tagFmt x.tag) with
    | none => el .formatPair (x.tag.setWidth 64); pure []
    | some f =>
      if !(f.isArith && tagVc x.tag = vcValid && (f.isFloat || tagLxp x.tag = 127)) then el .formatPair (x.tag.setWidth 64)
      return (x, f) :: (← qblkRows k va rs)

def perfVqblk (vd vs va : BitVec 5) (h : Option (BitVec 6)) (n : BitVec 4) (tgt : BitVec 2) : Perform := fun k e => do
  checkCounter k h
  let (t, bs, sf) := qblkTarget tgt
  let xs ← qblkRows k va (List.range (rowsOf n))
  let md := ((← get).ctx k).vmode
  let rs := xs.map fun x => qblkRow t sf bs e.vl md (x.1.val x.2)
  orVstat k (rs.foldl (fun a y => a.or y.2.2.2) {})
  countOvf k h (rs.foldl (fun a y => a + y.2.2.1) 0)
  (rs.zip (List.range 16)).forM fun y => putWhole k vd y.2 (rowOf (mkTag t.toCode vcValid 127) fun c => y.1.1.getD c 0)
  let scales := rs.flatMap (·.2.1)
  (List.range (if tgt = 0 then 2 else 1)).forM fun j =>
    putWhole k vs j (rowOf (mkTag sf.toCode vcValid 127) fun c => scales.getD (64 * j + c) 0)

def execVqblk (c : Ctl) (vd vs va : BitVec 5) (h : Option (BitVec 6)) (n : BitVec 4) (tgt : BitVec 2) (s : State) :
    Host.Outcome State Fault Refusal :=
  issueVector (.vqblk c vd vs va h n tgt) (some .mad) (rowsOf n) 0 0 (perfVqblk vd vs va h n tgt) s

/-- The companion of a quantised format: its plane's format and its block (Table 14.6). -/
def companion : Fmt → Option (Fmt × Nat)
  | .e2m1 => some (.s3m5, 8)
  | .e4m3 | .e5m2 => some (.se8, 32)
  | .ob8 | .ob4 => some (.zp8, 32)
  | .raw | .i8 | .i16 | .i32 | .i64 | .f32 | .f16 | .bf16 | .s3m5 | .se8 | .zp8 | .code => none

/-- A plane byte as R85 reads it from a tag and its line's or row's byte. -/
def planeByte (t : Tag) (f : Fmt) (byte : Nat) : Except Cause Nat :=
  if vcPoisoned (tagVc t) then .error .poisonConsumed
  else if tagFmt t ≠ f.toCode || tagLxp t ≠ 127 then .error .formatPair
  else
    let b := if readsZero t then 0 else byte
    if f = .se8 && b = 0xFF then .error .formatPair else .ok b

/-- An element's exact value under its block's plane byte (R97, R99, R102). -/
def withPlane (f : Fmt) (v : FNum) (q : Nat) : FNum :=
  if f.isOffset then
    let z := if f = .ob4 then q % 16 else q
    let d : Int := v.toInt - z
    .fin (decide (d < 0)) d.natAbs 0
  else (FNum.mul v (scaleVal (if f = .e2m1 then .s3m5 else .se8) q)).1

/-- The blocks of a row that have active lanes, in order. -/
def rowBlocks (bs : Nat) (lanes : List Nat) : List (List Nat) :=
  ((List.range (64 / bs)).map fun b => lanes.filter fun c => c / bs = b).filter fun l => !l.isEmpty

def perfVdeq (vd va vs : BitVec 5) (f32 : Bool) (n : BitVec 4) (m : Option (BitVec 4)) : Perform := fun k e =>
  overRows k e n m fun r lanes => do
    let x ← getRow k va r
    notPoison va r x
    match (Fmt.ofCode (tagFmt x.tag)).bind companion with
    | some (_, bs) =>
      let j := (64 / bs * r + lanes.headD 0 / bs) / 64
      notPoison vs j (← getRow k vs j)
    | none => pure ()
    let f ← arithFmt x
    match companion f with
    | none => pairFault x
    | some (pf, bs) =>
      let g : Fmt := if f32 then .f32 else .bf16
      let md := ((← get).ctx k).vmode
      (rowBlocks bs lanes).forM fun bl => atElem (64 * r + bl.headD 0) do
        let j := 64 / bs * r + bl.headD 0 / bs
        let pr ← getRow k vs (j / 64)
        match planeByte pr.tag pf (pr.elem (j % 64)) with
        | .error .poisonConsumed => raise .poisonConsumed (rowVal vs (j / 64))
        | .error _ => pairFault pr
        | .ok q =>
          let (out, fl) := lanesMap bl fun c => finish g md (withPlane f (x.val f c) q)
          orVstat k fl
          putRow k vd r (resTag g) bl out

def execVdeq (c : Ctl) (vd va vs : BitVec 5) (f32 : Bool) (n : BitVec 4) (m : Option (BitVec 4)) (s : State) :
    Host.Outcome State Fault Refusal :=
  issueVector (.vdeq c vd va vs f32 n m) (some .mad) (rowsOf n) 0 0 (perfVdeq vd va vs f32 n m) s

/-! Tags, splats, single elements and vl (R346 to R349). -/

def perfVtagGet (rd : BitVec 6) (va : BitVec 5) (r : BitVec 4) : Perform := fun k _ => do
  let x ← getRow k va r.toNat
  modify fun s => s.modCtx k fun c => c.setS rd (x.tag.setWidth 64)

/-- The tag a row takes from VTAG.SET, if R346 allows it. -/
def setRowTag (x : Row) (a : Word) : Option Row :=
  let t := a.setWidth 24
  let f := Fmt.ofCode (tagFmt t)
  let float : Bool := match f with | some f => f.isFloat | none => false
  if tagFmt t ≠ tagFmt x.tag || (!float && tagLxp t ≠ 127) || !(tagVc t = vcValid || tagVc t = vcPoison) then none
  else some { x with tag := mkTag (tagFmt t) (if vcPoisoned (tagVc x.tag) then vcPoison else tagVc t) (tagLxp t) }

/-- VTAG.SET of rows: every row is checked before any changes. -/
def perfSetTags (vd : BitVec 5) (rows : List Nat) : Perform := fun k e => do
  let new ← rows.mapM fun r => do
    let x ← getRow k vd r
    match setRowTag x e.op1 with
    | some y => pure (r, y)
    | none => throw (.fault { cause := .formatPair, etval := x.tag.setWidth 64, elem := 64 * r } none)
  new.forM fun y => putWhole k vd y.1 y.2
def perfVtagSet (vd : BitVec 5) (r : BitVec 4) : Perform := perfSetTags vd [r.toNat]
def perfVtagSetAll (vd : BitVec 5) : Perform := perfSetTags vd (List.range 16)

def execVtagGet (c : Ctl) (rd : BitVec 6) (va : BitVec 5) (r : BitVec 4) (s : State) : Host.Outcome State Fault Refusal :=
  issueVector (.vtagGet c rd va r) (some .mad) 1 0 0 (perfVtagGet rd va r) s
def execVtagSet (c : Ctl) (vd : BitVec 5) (ra : BitVec 6) (r : BitVec 4) (s : State) : Host.Outcome State Fault Refusal :=
  issueVector (.vtagSet c vd ra r) (some .mad) 1 ra 0 (perfVtagSet vd r) s
def execVtagSetAll (c : Ctl) (vd : BitVec 5) (ra : BitVec 6) (s : State) : Host.Outcome State Fault Refusal :=
  issueVector (.vtagSetAll c vd ra) (some .mad) 16 ra 0 (perfVtagSetAll vd) s

/-- VRETAG (R347): from vstart on (R333), whatever vl and mask. -/
def perfVretag (vd va : BitVec 5) (fmt : BitVec 6) (n : BitVec 4) : Perform := fun k e =>
  overRows k { e with vl := 64 } n none fun r lanes => do
    let x ← getRow k va r
    notPoison va r x
    match Fmt.ofCode fmt, Fmt.ofCode (tagFmt x.tag) with
    | some g, some f =>
      if g = .i64 || g.width ≠ f.width then pairFault x
      putRow k vd r (mkTag fmt vcValid (if f.isFloat && g.isFloat then tagLxp x.tag else 127)) lanes x.elem
    | _, _ => pairFault x

def execVretag (c : Ctl) (vd va : BitVec 5) (fmt : BitVec 6) (n : BitVec 4) (s : State) : Host.Outcome State Fault Refusal :=
  issueVector (.vretag c vd va fmt n) (some .mad) (rowsOf n) 0 0 (perfVretag vd va fmt n) s

def perfVsplat (vd : BitVec 5) (fmt : BitVec 6) (n : BitVec 4) (m : Option (BitVec 4)) : Perform := fun k e =>
  overRows k e n m fun r lanes => do
    match Fmt.ofCode fmt with
    | none => pairFault (← getRow k vd r)
    | some g =>
      if g = .i64 then pairFault (← getRow k vd r)
      putRow k vd r (resTag g) lanes fun _ => e.op1.toNat % 2 ^ g.width

def execVsplat (c : Ctl) (vd : BitVec 5) (ra fmt : BitVec 6) (n : BitVec 4) (m : Option (BitVec 4)) (s : State) :
    Host.Outcome State Fault Refusal :=
  issueVector (.vsplat c vd ra fmt n m) (some .mad) (rowsOf n) ra 0 (perfVsplat vd fmt n m) s

def perfVmovsGet (rd : BitVec 6) (va : BitVec 5) : Perform := fun k e => do
  let j := e.op1.toNat
  let x ← getRow k va (j / 64)
  atElem j (notPoison va (j / 64) x)
  modify fun s => s.modCtx k fun c => c.setS rd (BitVec.ofNat 64 (x.elem (j % 64)))

def perfVmovsPut (vd : BitVec 5) : Perform := fun k e => do
  let j := e.op2.toNat
  let x ← getRow k vd (j / 64)
  let w := widthOf (tagFmt x.tag)
  putWhole k vd (j / 64) (rowOf x.tag fun c => if c = j % 64 then e.op1.toNat % 2 ^ w else x.elem c)

/-- The operand limit of VMOVS, judged at issue (R348, log entry 28, DEDUCED). -/
def vmovsLimit (rb : BitVec 6) (c : Ctx) : Option Word := if (c.s rb).toNat < 1024 then none else some (c.s rb)

def execVmovsGet (c : Ctl) (rd : BitVec 6) (va : BitVec 5) (rb : BitVec 6) (s : State) : Host.Outcome State Fault Refusal :=
  issueVector (.vmovsGet c rd va rb) (some .mad) 1 rb 0 (perfVmovsGet rd va) s (vmovsLimit rb)
def execVmovsPut (c : Ctl) (vd : BitVec 5) (ra rb : BitVec 6) (s : State) : Host.Outcome State Fault Refusal :=
  issueVector (.vmovsPut c vd ra rb) (some .mad) 1 ra rb (perfVmovsPut vd) s (vmovsLimit rb)

/-- Clamp(Signed(a), 1, 64). -/
def clampVl (a : Word) : Word := if a.toInt < 1 then 1 else if 64 < a.toInt then 64 else a

/-- VSETVL (R349): the stream performs it. -/
def execVsetvl (c : Ctl) (rd ra : BitVec 6) (s : State) : Host.Outcome State Fault Refusal :=
  issue (.vsetvl c rd ra) s fun k => do
    modify fun s => s.modCtx k fun c =>
      let v := clampVl (c.s ra)
      { c.setS rd v with vl := v }
    pure .on

/-! Vector predicates (R350). -/

/-- Lane-wise work on predicate bits. -/
def perfPred (vpd vpa vpb : BitVec 4) (n : BitVec 4) (m : Option (BitVec 4)) (f : Bool → Bool → Bool) : Perform := fun k e => do
  let c := (← get).ctx k
  let (a, b) := (c.vp vpa, c.vp vpb)
  overRows k e n m fun r lanes =>
    putPred k vpd r lanes fun j => f (a.getLsbD (64 * r + j)) (b.getLsbD (64 * r + j))

def perfVpand (vpd vpa vpb : BitVec 4) (n : BitVec 4) (m : Option (BitVec 4)) : Perform := perfPred vpd vpa vpb n m (· && ·)
def perfVpor (vpd vpa vpb : BitVec 4) (n : BitVec 4) (m : Option (BitVec 4)) : Perform := perfPred vpd vpa vpb n m (· || ·)
def perfVpnot (vpd vpa : BitVec 4) (n : BitVec 4) (m : Option (BitVec 4)) : Perform := perfPred vpd vpa vpa n m fun x _ => !x

def execVpand (c : Ctl) (vpd vpa vpb n : BitVec 4) (m : Option (BitVec 4)) (s : State) : Host.Outcome State Fault Refusal :=
  issueVector (.vpand c vpd vpa vpb n m) (some .mad) (rowsOf n) 0 0 (perfVpand vpd vpa vpb n m) s
def execVpor (c : Ctl) (vpd vpa vpb n : BitVec 4) (m : Option (BitVec 4)) (s : State) : Host.Outcome State Fault Refusal :=
  issueVector (.vpor c vpd vpa vpb n m) (some .mad) (rowsOf n) 0 0 (perfVpor vpd vpa vpb n m) s
def execVpnot (c : Ctl) (vpd vpa n : BitVec 4) (m : Option (BitVec 4)) (s : State) : Host.Outcome State Fault Refusal :=
  issueVector (.vpnot c vpd vpa n m) (some .mad) (rowsOf n) 0 0 (perfVpnot vpd vpa n m) s

/-- The active lanes of an entry, as lane numbers 64·r + c. -/
def lanesOf (e : QEntry) (n : Nat) (m : Option (BitVec 1024)) : List Nat :=
  (List.range n).flatMap fun r => (activeLanes e m r).map fun c => 64 * r + c

def perfVpcnt (rd : BitVec 6) (vpa : BitVec 4) (n : BitVec 4) (m : Option (BitVec 4)) : Perform := fun k e =>
  modify fun s => s.modCtx k fun c =>
    c.setS rd (BitVec.ofNat 64 ((lanesOf e (rowsOf n) (c.mask m)).filter fun j => (c.vp vpa).getLsbD j).length)

def execVpcnt (c : Ctl) (rd : BitVec 6) (vpa n : BitVec 4) (m : Option (BitVec 4)) (s : State) : Host.Outcome State Fault Refusal :=
  issueVector (.vpcnt c rd vpa n m) (some .mad) (rowsOf n) 0 0 (perfVpcnt rd vpa n m) s

/-! Votes (R293). -/

/-- The lanes of a vote: every row, columns below vl, under the mask. -/
def voteLanes (e : QEntry) (m : Option (BitVec 1024)) : List Nat := lanesOf { e with vstart := 0 } 16 m

def perfVany (pd : BitVec 3) (vpa : BitVec 4) (vpm : Option (BitVec 4)) : Perform := fun k e =>
  modify fun s => s.modCtx k fun c => c.setP pd ((voteLanes e (c.mask vpm)).any fun j => (c.vp vpa).getLsbD j)
def perfVall (pd : BitVec 3) (vpa : BitVec 4) (vpm : Option (BitVec 4)) : Perform := fun k e =>
  modify fun s => s.modCtx k fun c => c.setP pd ((voteLanes e (c.mask vpm)).all fun j => (c.vp vpa).getLsbD j)

def execVany (c : Ctl) (pd : BitVec 3) (vpa : BitVec 4) (vpm : Option (BitVec 4)) (s : State) :
    Host.Outcome State Fault Refusal :=
  issueVector (.vany c pd vpa vpm) none 1 0 0 (perfVany pd vpa vpm) s
def execVall (c : Ctl) (pd : BitVec 3) (vpa : BitVec 4) (vpm : Option (BitVec 4)) (s : State) :
    Host.Outcome State Fault Refusal :=
  issueVector (.vall c pd vpa vpm) none 1 0 0 (perfVall pd vpa vpm) s

end Sys2Proof.Machine
end

