-- ==== Sys2Proof/Machine/VecAxis.lean ====
section
/-!
DEFINITION. Sys2Proof/Machine/VecAxis.lean: group 101 (chapter 15): rotations, broadcasts, reductions, scans, transposes,
shuffles and compressions of the permute pipe, the special functions, and the tagged queues.
-/

namespace Sys2Proof.Machine

open Sys2Proof

/-- Raise a fault of the permute class: at an element, nothing written (R358). -/
def axisFault {α : Type} (c : Cause) (w : Word) (el : Nat) : Op α :=
  throw (.fault { cause := c, etval := w, elem := el } none)

/-- The entry as the permute pipe takes it: vstart is not consulted (R358). -/
def QEntry.fromZero (e : QEntry) : QEntry := { e with vstart := 0 }

/-- The rows of a register as an instruction finds them. -/
def rowsNow (k : Nat) (v : BitVec 5) : Op (List Row) := do
  let c := (← get).ctx k
  pure ((List.range 16).map fun r => c.row v.toNat r)

/-! Movement of bit patterns (R359, R360, R365 to R367). -/

/-- One lane to be moved: where to, and from where (none: a zero element). -/
structure Mv where
  r : Nat
  c : Nat
  src : Option (Nat × Nat)

/-- Check the rows that supply lanes, in lane order (R68): what `pre` asks of the lane; then its row, which is not POISON, and those of one
destination row (of all of them, when `common`) are alike in FMT and LXP. -/
def moveChecks (va : BitVec 5) (rows : List Row) (common : Bool) (pre : Nat → Op Unit) : List Mv → List (Nat × Tag) → Op Unit
  | [], _ => pure ()
  | x :: xs, seen => do
    pre (64 * x.r + x.c)
    match x.src with
    | none => moveChecks va rows common pre xs seen
    | some (r, _) =>
      let t := (rows.getD r {}).tag
      if vcPoisoned (tagVc t) then axisFault .poisonConsumed (rowVal va r) (64 * x.r + x.c)
      match seen.find? fun y => common || y.1 = x.r with
      | some y =>
        if tagFmt y.2 ≠ tagFmt t || tagLxp y.2 ≠ tagLxp t then axisFault .formatPair (t.setWidth 64) (64 * x.r + x.c)
        moveChecks va rows common pre xs seen
      | none => moveChecks va rows common pre xs ((x.r, t) :: seen)

/-- Move lanes; each destination row with active lanes takes the tag of its supply, or a given row's. -/
def moveLanes (k : Nat) (vd : BitVec 5) (rows : List Row) (mvs : List Mv) (tagRow : Nat → Option Nat) : Op Unit :=
  ((mvs.map (·.r)).eraseDups).forM fun r => do
    let xs := mvs.filter fun x => x.r = r
    let from_ := match tagRow r with
      | some j => j
      | none => ((xs.findSome? fun x => x.src).map (·.1)).getD r
    putRow k vd r (rows.getD from_ {}).tag (xs.map (·.c)) fun c =>
      match (xs.find? fun x => x.c = c).bind fun x => x.src with
      | some (i, j) => (rows.getD i {}).elem j
      | none => 0

/-- A movement of every active lane. -/
def perfMove (vd va : BitVec 5) (n : Nat) (m : Option (BitVec 4)) (common : Bool) (tagRow : Nat → Option Nat)
    (src : QEntry → Nat → Nat → Option (Nat × Nat)) (pre : Nat → Op Unit := fun _ => pure ()) : Perform := fun k e => do
  let rows ← rowsNow k va
  let c := (← get).ctx k
  let mvs := (lanesOf e.fromZero n (c.mask m)).map fun j => ({ r := j / 64, c := j % 64, src := src e (j / 64) (j % 64) } : Mv)
  moveChecks va rows common pre mvs []
  moveLanes k vd rows mvs tagRow

/-- i mod n of a signed i. -/
def modIx (i : Int) (n : Nat) : Nat := (i % (n : Int)).toNat

def perfVrot (vd va : BitVec 5) (n : BitVec 4) (m : Option (BitVec 4)) (ax : Bool) : Perform :=
  perfMove vd va (rowsOf n) m false (fun _ => none) fun e r c =>
    if ax then some (modIx (r + e.op1.toInt) (rowsOf n), c) else some (r, modIx (c + e.op1.toInt) e.vl)

def perfVbc (vd va : BitVec 5) (n : BitVec 4) (m : Option (BitVec 4)) (ax : Bool) : Perform :=
  perfMove vd va (rowsOf n) m false (fun _ => none) fun e r c => if ax then some (e.op1.toNat, c) else some (r, e.op1.toNat)

/-- The operand limit of VBC, judged as it is taken at issue (R360, Table 15.2; log entry 28, DEDUCED). -/
def vbcLimit (ax : Bool) (rb : BitVec 6) (c : Ctx) : Option Word :=
  if (c.s rb).toNat ≤ (if ax then 15 else 63) then none else some (c.s rb)

def perfVtrn (vd va : BitVec 5) (m : Option (BitVec 4)) : Perform :=
  perfMove vd va 16 m true (fun _ => none) fun _ r c => some (c % 16, 16 * (c / 16) + r)

/-- The index row of a lane: not POISON; I8, I16 or I32 (R366). -/
def indexCheck (vi : BitVec 5) (ix : List Row) (j : Nat) : Op Unit := do
  let x := ix.getD (j / 64) {}
  if vcPoisoned (tagVc x.tag) then axisFault .poisonConsumed (rowVal vi (j / 64)) j
  let f := Fmt.ofCode (tagFmt x.tag)
  if !(f = some .i8 || f = some .i16 || f = some .i32) then axisFault .formatPair (x.tag.setWidth 64) j

/-- The lane an index names; none outside 0 to 63. -/
def shuffleSrc (x : Row) (r c : Nat) : Option (Nat × Nat) :=
  match Fmt.ofCode (tagFmt x.tag) with
  | none => none
  | some f =>
    let j := (decode f (x.elem c)).toInt
    if decide (0 ≤ j) && decide (j ≤ 63) then some (r, j.toNat) else none

def perfVshuf (vd va vi : BitVec 5) (n : BitVec 4) (m : Option (BitVec 4)) : Perform := fun k e => do
  let ix ← rowsNow k vi
  perfMove vd va (rowsOf n) m false some (fun _ r c => shuffleSrc (ix.getD r {}) r c) (indexCheck vi ix) k e

def perfVcmpr (vd va : BitVec 5) (vps n : BitVec 4) : Perform := fun k e => do
  let rows ← rowsNow k va
  let p := ((← get).ctx k).vp vps
  let sel := fun (r : Nat) => (List.range e.vl).filter fun c => p.getLsbD (64 * r + c)
  (List.range (rowsOf n)).forM fun r =>
    match sel r with
    | [] => pure ()
    | _ :: _ => if vcPoisoned (tagVc (rows.getD r {}).tag) then axisFault .poisonConsumed (rowVal va r) (64 * r) else pure ()
  (List.range (rowsOf n)).forM fun r => do
    let x := rows.getD r {}
    let cs := sel r
    putWhole k vd r (rowOf x.tag fun c => match cs[c]? with | some j => x.elem j | none => 0)

def execVrot (c : Ctl) (vd va : BitVec 5) (rb : BitVec 6) (n : BitVec 4) (m : Option (BitVec 4)) (ax : Bool) (s : State) :
    Host.Outcome State Fault Refusal :=
  issueVector (.vrot c vd va rb n m ax) (some .prm) (rowsOf n) rb 0 (perfVrot vd va n m ax) s
def execVbc (c : Ctl) (vd va : BitVec 5) (rb : BitVec 6) (n : BitVec 4) (m : Option (BitVec 4)) (ax : Bool) (s : State) :
    Host.Outcome State Fault Refusal :=
  issueVector (.vbc c vd va rb n m ax) (some .prm) (rowsOf n) rb 0 (perfVbc vd va n m ax) s (vbcLimit ax rb)
def execVtrn (c : Ctl) (vd va : BitVec 5) (m : Option (BitVec 4)) (s : State) : Host.Outcome State Fault Refusal :=
  issueVector (.vtrn c vd va m) (some .prm) 16 0 0 (perfVtrn vd va m) s
def execVshuf (c : Ctl) (vd va vi : BitVec 5) (n : BitVec 4) (m : Option (BitVec 4)) (s : State) :
    Host.Outcome State Fault Refusal :=
  issueVector (.vshuf c vd va vi n m) (some .prm) (rowsOf n) 0 0 (perfVshuf vd va vi n m) s
def execVcmpr (c : Ctl) (vd va : BitVec 5) (vps n : BitVec 4) (s : State) : Host.Outcome State Fault Refusal :=
  issueVector (.vcmpr c vd va vps n) (some .prm) (rowsOf n) 0 0 (perfVcmpr vd va vps n) s

/-! Reductions and scans (R361 to R364). -/

/-- The operations of Table 15.3. -/
inductive RedOp where
  | sum | max | min | and | or
  deriving DecidableEq, Repr

def RedOp.ofCode (c : BitVec 3) : RedOp :=
  match c.toNat with
  | 0 => .sum | 1 => .max | 2 => .min | 3 => .and | _ => .or
def RedOp.bitwise : RedOp → Bool
  | .and | .or => true
  | .sum | .max | .min => false

/-- Identity() (Table 15.4). -/
def RedOp.identity (op : RedOp) (f : Fmt) : Nat :=
  let top (neg : Bool) : Nat :=
    if f.isFloat then signBit f neg + (match f.infCode with | some i => i | none => f.maxCode)
    else if f.isOffset then (if neg then 0 else 2 ^ f.width - 1)
    else if neg then 2 ^ (f.width - 1) else 2 ^ (f.width - 1) - 1
  match op with
  | .sum => 0 | .or => 0
  | .and => 2 ^ f.width - 1
  | .max => top true
  | .min => top false

/-- The exact sum of a list, and whether it is invalid: a signalling NaN, or infinities of both signs (R89, R361). -/
def sumNums (md : RMode) : List FNum → FNum × Bool
  | [] => (.fin false 0 0, false)
  | x :: xs => (xs.foldl (fun a y => (FNum.add md a y).1) x,
      (x :: xs).any FNum.isSnan || ((x :: xs).contains (.inf false) && (x :: xs).contains (.inf true)))

/-- Pick() over a list: NaNs by R339, the greatest or least of the rest. -/
def pickNums (greater : Bool) (xs : List FNum) : FNum × Bool :=
  if xs.any FNum.isSnan then (.nan false, true)
  else match xs.filter fun x => !x.isNan with
    | [] => (.nan false, false)
    | y :: ys => (ys.foldl (fun a x => (FNum.pick greater a x).1) y, false)

/-- The result of a group of values and codes, with its flags and NOACT. -/
def RedOp.result (op : RedOp) (f : Fmt) (md : RMode) (ints : Bool) (xs : List (FNum × Nat)) : Nat × Flags × Bool :=
  match xs with
  | [] => (op.identity f, {}, true)
  | (_, c) :: rest =>
    if op.bitwise then
      (rest.foldl (fun a y => if op = .and then a &&& y.2 else a ||| y.2) c, {}, false)
    else
      let (v, nv) := match op with
        | .sum => sumNums md (xs.map (·.1))
        | .max => pickNums true (xs.map (·.1))
        | _ => pickNums false (xs.map (·.1))
      let (code, fl) := finishLane f md ints v
      (code, { fl with nv := fl.nv || nv }, false)

/-- A row of a reduction: its number, contents, format, active lanes, and the format and tag of its result. -/
structure RedRow where
  r : Nat
  row : Row
  fmt : Fmt
  lanes : List Nat
  rf : Fmt
  rtag : Tag

/-- Check a row with active lanes: not POISON; an arithmetic row, or one VAND takes. -/
def redCheck (va : BitVec 5) (op : RedOp) (r el : Nat) (x : Row) : Op Fmt := do
  if vcPoisoned (tagVc x.tag) then axisFault .poisonConsumed (rowVal va r) el
  match Fmt.ofCode (tagFmt x.tag) with
  | none => axisFault .formatPair (x.tag.setWidth 64) el
  | some f =>
    let ok := if op.bitwise then f ≠ .i64
      else f.isArith && tagVc x.tag = vcValid && (f.isFloat || tagLxp x.tag = 127)
    if ok then pure f else axisFault .formatPair (x.tag.setWidth 64) el

/-- Check a row that is written without an active lane: only its tag is read (R361). -/
def redBlank (r : Nat) (x : Row) : Op Fmt :=
  match Fmt.ofCode (tagFmt x.tag) with
  | none => axisFault .formatPair (x.tag.setWidth 64) (64 * r)
  | some f => if tagVc x.tag = vcValid || tagVc x.tag = vcPoison then pure f
    else axisFault .formatPair (x.tag.setWidth 64) (64 * r)

/-- The format of a row's own results: Lattice(ADD, f, f), or f itself for AND and OR. -/
def redOwn (s : State) (vd : Nat) (op : RedOp) (f : Fmt) : Option Fmt :=
  if op.bitwise then (if f = .i64 then none else some f) else lattice s vd false f f

/-- The rows of a reduction in ascending order, checked: with `blank`, the rows without active lanes too. The row axis takes
each row's own format; the column axis folds them (Table 15.3). -/
def redRows (va : BitVec 5) (op : RedOp) (col blank : Bool) (rows : List Row) (act : Nat → List Nat) (vd : Nat) :
    List Nat → Option (Fmt × Tag) → Op (List RedRow)
  | [], _ => pure []
  | r :: rs, acc => do
    let x := rows.getD r {}
    let lanes := act r
    if lanes.isEmpty && !blank then redRows va op col blank rows act vd rs acc
    else
      let el := 64 * r + lanes.headD 0
      let f ← if lanes.isEmpty then redBlank r x else redCheck va op r el x
      let s ← get
      let bad {α : Type} : Op α := axisFault .formatPair (x.tag.setWidth 64) el
      -- AND and OR want one FMT and LXP of every contributing row, on either axis
      match acc with
      | some (_, t) => if op.bitwise && !lanes.isEmpty && (tagFmt t ≠ tagFmt x.tag || tagLxp t ≠ tagLxp x.tag) then bad
      | none => pure ()
      let own := redOwn s vd op f
      let rf? := match acc with
        | some (g, _) => if col && !op.bitwise then lattice s vd false g f else own
        | none => own
      match rf? with
      | none => bad
      | some g =>
        let tag := if op.bitwise then x.tag else resTag g
        let acc' := if lanes.isEmpty then acc else some (g, match acc with | some (_, t) => t | none => x.tag)
        return { r := r, row := x, fmt := f, lanes := lanes, rf := g, rtag := tag } :: (← redRows va op col blank rows act vd rs acc')

/-- A lane's value and code. -/
def RedRow.at (x : RedRow) (op : RedOp) (c : Nat) : FNum × Nat :=
  (if op.bitwise then .fin false 0 0 else x.row.val x.fmt c, x.row.elem c)

/-- A reduced row's tag as VALID: R363 has it so for `.R`, while R361 has an AND or OR carry the tag of its rows, as `.C` does. -/
def validTag (t : Tag) : Tag := mkTag (tagFmt t) vcValid (tagLxp t)

def perfVred (vd va : BitVec 5) (n : BitVec 4) (m : Option (BitVec 4)) (ax : Bool) (rop : BitVec 3) : Perform := fun k e => do
  let op := RedOp.ofCode rop
  let rows ← rowsNow k va
  let c := (← get).ctx k
  let act := fun (r : Nat) => activeLanes e.fromZero (c.mask m) r
  let rs ← redRows va op ax (!ax) rows act c.vd (List.range (rowsOf n)) none
  let md := c.vmode
  if ax then
    let (g, t) ← match rs.getLast? with
      | some x => pure (x.rf, if op.bitwise then x.rtag else validTag x.rtag)
      | none => do
        let x := rows.getD 0 {}
        match redOwn (← get) c.vd op (← redBlank 0 x) with
        | some g => pure (g, validTag (if op.bitwise then x.tag else resTag g))
        | none => axisFault .formatPair (x.tag.setWidth 64) 0
    let out := (List.range e.vl).map fun j =>
      let ys := rs.filter fun x => x.lanes.contains j
      (j, op.result g md (ys.all fun x => !x.fmt.isFloat) (ys.map fun x => x.at op j))
    orVstat k (out.foldl (fun a y => a.or y.2.2.1) {})
    if out.any fun y => y.2.2.2 then modify fun s => s.modCtx k Ctx.setNoact
    if 0 < e.vl then putRow k vd 0 t (List.range e.vl) fun j => match out[j]? with | some y => y.2.1 | none => 0
  else
    rs.forM fun x => do
      let (code, fl, none_) := op.result x.rf md (!x.fmt.isFloat) (x.lanes.map fun j => x.at op j)
      orVstat k fl
      if none_ then modify fun s => s.modCtx k Ctx.setNoact
      putRow k vd x.r (validTag x.rtag) [0] fun _ => code

def perfVscan (vd va : BitVec 5) (n : BitVec 4) (m : Option (BitVec 4)) (ax : Bool) (rop : BitVec 3) : Perform := fun k e => do
  let op := RedOp.ofCode rop
  let rows ← rowsNow k va
  let c := (← get).ctx k
  let act := fun (r : Nat) => activeLanes e.fromZero (c.mask m) r
  let rs ← redRows va op ax false rows act c.vd (List.range (rowsOf n)) none
  let md := c.vmode
  let (g, t) := match rs.getLast? with | some x => (x.rf, x.rtag) | none => (.f32, 0)
  rs.forM fun x => do
    let (f, tag) := if ax then (g, t) else (x.rf, x.rtag)
    let out := x.lanes.map fun j =>
      let above := rs.filter fun y => decide (y.r ≤ x.r) && y.lanes.contains j
      (j, if ax then op.result f md (above.all fun y => !y.fmt.isFloat) (above.map fun y => y.at op j)
        else op.result f md (!x.fmt.isFloat) ((x.lanes.filter fun i => decide (i ≤ j)).map fun i => x.at op i))
    orVstat k (out.foldl (fun a y => a.or y.2.2.1) {})
    putRow k vd x.r tag x.lanes fun j => match out.find? fun y => y.1 = j with | some y => y.2.1 | none => 0

def execVred (c : Ctl) (vd va : BitVec 5) (n : BitVec 4) (m : Option (BitVec 4)) (ax : Bool) (rop : BitVec 3) (s : State) :
    Host.Outcome State Fault Refusal :=
  issueVector (.vred c vd va n m ax rop) (some .prm) (rowsOf n) 0 0 (perfVred vd va n m ax rop) s
def execVscan (c : Ctl) (vd va : BitVec 5) (n : BitVec 4) (m : Option (BitVec 4)) (ax : Bool) (rop : BitVec 3) (s : State) :
    Host.Outcome State Fault Refusal :=
  issueVector (.vscan c vd va n m ax rop) (some .prm) (rowsOf n) 0 0 (perfVscan vd va n m ax rop) s

/-! Special functions (R369). -/

def perfSpecial (g : SpecialFn) (vd va : BitVec 5) (n : BitVec 4) (m : Option (BitVec 4)) : Perform := fun k e =>
  overRows k e n m fun r lanes => do
    let x ← getRow k va r
    notPoison va r x
    let f ← arithFmt x
    if !f.isFloat then pairFault x
    let s ← get
    match lattice s (s.ctx k).vd false f f with
    | none => pairFault x
    | some t =>
      let md := (s.ctx k).vmode
      let (out, fl) := lanesMap lanes fun c => g.lane t md (x.val f c)
      orVstat k fl
      putRow k vd r (resTag t) lanes out

def execVexp2 (c : Ctl) (vd va : BitVec 5) (n : BitVec 4) (m : Option (BitVec 4)) (s : State) :
    Host.Outcome State Fault Refusal :=
  issueVector (.vexp2 c vd va n m) (some .sfu) (rowsOf n) 0 0 (perfSpecial .exp2 vd va n m) s
def execVlog2 (c : Ctl) (vd va : BitVec 5) (n : BitVec 4) (m : Option (BitVec 4)) (s : State) :
    Host.Outcome State Fault Refusal :=
  issueVector (.vlog2 c vd va n m) (some .sfu) (rowsOf n) 0 0 (perfSpecial .log2 vd va n m) s
def execVrcp (c : Ctl) (vd va : BitVec 5) (n : BitVec 4) (m : Option (BitVec 4)) (s : State) :
    Host.Outcome State Fault Refusal :=
  issueVector (.vrcp c vd va n m) (some .sfu) (rowsOf n) 0 0 (perfSpecial .rcp vd va n m) s
def execVrsq (c : Ctl) (vd va : BitVec 5) (n : BitVec 4) (m : Option (BitVec 4)) (s : State) :
    Host.Outcome State Fault Refusal :=
  issueVector (.vrsq c vd va n m) (some .sfu) (rowsOf n) 0 0 (perfSpecial .rsq vd va n m) s
def execVsqrt (c : Ctl) (vd va : BitVec 5) (n : BitVec 4) (m : Option (BitVec 4)) (s : State) :
    Host.Outcome State Fault Refusal :=
  issueVector (.vsqrt c vd va n m) (some .sfu) (rowsOf n) 0 0 (perfSpecial .sqrt vd va n m) s
def execVtanh (c : Ctl) (vd va : BitVec 5) (n : BitVec 4) (m : Option (BitVec 4)) (s : State) :
    Host.Outcome State Fault Refusal :=
  issueVector (.vtanh c vd va n m) (some .sfu) (rowsOf n) 0 0 (perfSpecial .tanh vd va n m) s
def execVsin (c : Ctl) (vd va : BitVec 5) (n : BitVec 4) (m : Option (BitVec 4)) (s : State) :
    Host.Outcome State Fault Refusal :=
  issueVector (.vsin c vd va n m) (some .sfu) (rowsOf n) 0 0 (perfSpecial .sin vd va n m) s

/-! Tagged queues (R371 to R373, R239). -/

/-- Rows a queue holds at most (R238). -/
def queueCap : Nat := 16

/-- The other stream of a task, while it lives: one that has halted lives until what it has issued has drained (R237). -/
def otherStream (s : State) (k : Nat) (x : Task) : Option Ctx :=
  let j := if x.actx = some k then x.xctx else x.actx
  match j with
  | some j => if j ≠ k && (!(s.ctx j).halted || !(s.ctx j).vq.isEmpty) then some (s.ctx j) else none
  | none => none

/-- The other stream's own queue transfer has begun to wait, and still must. -/
def queueBlocked (x : Task) (c : Ctx) : Bool :=
  match c.vq with
  | .entry e :: _ =>
    e.waiting && (match e.instr with
      | .vqpush _ q _ _ => decide (queueCap ≤ (vecGet {} x.queues q.toNat).rows.length)
      | .vqpop _ _ q _ => (vecGet {} x.queues q.toNat).rows.isEmpty
      | _ => false)
  | _ => false

/-- Wait for a queue, or QUEUE_ERROR when the wait is dead (R239): at each row a wait of its own begins. -/
def queueWait (k : Nat) (e : QEntry) (x : Task) (q r : Nat) : Op Unit := do
  let s ← get
  let dead := match otherStream s k x with
    | none => true
    | some c => !(e.waiting && e.vstart = 64 * r) && queueBlocked x c
  if dead then raiseAt .queueError (BitVec.ofNat 64 q) (64 * r) else throw (.wait (64 * r) (some s))

/-- Push rows r to r + left − 1, each a queue event of its own. -/
def pushRows (k : Nat) (e : QEntry) (q : Nat) (va : BitVec 5) : Nat → Nat → Op Unit
  | 0, _ => pure ()
  | left + 1, r => do
    let (t, x) ← myTask k
    let y := vecGet {} x.queues q
    if queueCap ≤ y.rows.length then queueWait k e x q r
    else
      let row ← getRow k va r
      modify fun s => s.modTask t fun x => { x with queues := vecMod x.queues q fun y => { y with rows := y.rows ++ [row] } }
      pushRows k e q va left (r + 1)

/-- Pop into rows r to r + left − 1. -/
def popRows (k : Nat) (e : QEntry) (q : Nat) (vd : BitVec 5) : Nat → Nat → Op Unit
  | 0, _ => pure ()
  | left + 1, r => do
    let (t, x) ← myTask k
    match (vecGet {} x.queues q).rows with
    | [] => queueWait k e x q r
    | row :: rest =>
      modify fun s => s.modTask t fun x =>
        { x with queues := vecMod x.queues q fun y => { y with head := (y.head + 1) % queueCap, rows := rest } }
      putWhole k vd r row
      popRows k e q vd left (r + 1)

def perfVqpush (q : BitVec 2) (va : BitVec 5) (n : BitVec 4) : Perform := fun k e =>
  pushRows k e q.toNat va (rowsOf n - e.vstart / 64) (e.vstart / 64)
def perfVqpop (vd : BitVec 5) (q : BitVec 2) (n : BitVec 4) : Perform := fun k e =>
  popRows k e q.toNat vd (rowsOf n - e.vstart / 64) (e.vstart / 64)

def execVqpush (c : Ctl) (q : BitVec 2) (va : BitVec 5) (n : BitVec 4) (s : State) : Host.Outcome State Fault Refusal :=
  issueVector (.vqpush c q va n) (some .stp) (rowsOf n) 0 0 (perfVqpush q va n) s
def execVqpop (c : Ctl) (vd : BitVec 5) (q : BitVec 2) (n : BitVec 4) (s : State) : Host.Outcome State Fault Refusal :=
  issueVector (.vqpop c vd q n) (some .ldp) (rowsOf n) 0 0 (perfVqpop vd q n) s

/-- VQSTAT (R373): the stream waits for its own transfers, then reads the state word. -/
def execVqstat (c : Ctl) (rd : BitVec 6) (q : BitVec 2) (s : State) : Host.Outcome State Fault Refusal :=
  issue (.vqstat c rd q) s fun k => do
    let s ← get
    if (s.ctx k).vq.any QItem.transfer then waitHere
    let (_, x) ← myTask k
    let n := (vecGet {} x.queues q.toNat).rows.length
    let peer := if (otherStream s k x).isSome then 256 else 0
    set (s.modCtx k fun y => y.setS rd (BitVec.ofNat 64 (peer + n)))
    pure .on

end Sys2Proof.Machine
end

