-- ==== Sys2Proof/Machine/VecMem.lean ====
section
/-!
DEFINITION. Sys2Proof/Machine/VecMem.lean: vector loads and stores through handles (R351 to R354), gathers and scatters by
address (R355, R356).
-/

namespace Sys2Proof.Machine

open Sys2Proof

/-- A member of the load pipes. -/
def takesLoadPipe : Instr → Bool
  | .vld _ _ _ _ _ _ _ _ => true
  | .vgth _ _ _ _ _ _ _ _ => true
  | .vqpop _ _ _ _ => true
  | _ => false

/-- Another load of the convoy stands in the queue. -/
def loadFollows : List QItem → Bool
  | .entry e :: q => !e.begins && (takesLoadPipe e.instr || loadFollows q)
  | .mode _ _ :: q => loadFollows q
  | _ => false

/-- The requester of a stream's vector queue; the second load of a convoy of two uses LDP1. -/
def vectorClient (s : State) (k : Nat) : Client :=
  let c := s.ctx k
  { clientOf s k with who := 2000 + k, ldp1 := (match c.bound with | some v => v.ldp = 2 | none => false) && !loadFollows c.vq }

/-- The VA of bit b of line n of a MEM handle; for another level, the element stands in for it (log entry 22, DEDUCED). -/
def elemVal (e : HEntry) (n b el : Nat) : Word :=
  if e.level = lvMem then BitVec.ofNat 64 ((e.locv + n) * 128 + b / 8) else BitVec.ofNat 64 el

/-- The watchpoints of an engine's access to elements of a handle, and to their bytes by address (R480). -/
def watchHandle (cl : Client) (e : HEntry) (pl : Option Place) (w acc el n p : Nat) : Op Unit := do
  watch cl acc el (el + n) (some (kilnOf cl.core, e.owner))
  match pl with
  | some pl => if e.level = lvMem then
      let lo := pl.va.toNat / 128 * 128 + p * w / 8
      watch cl acc lo (lo + (n * w + 7) / 8) none
  | none => pure ()

/-- The tag a row takes from a line, after Table 3.5: ZERO and UNDEF read as VALID zeros, class 7 as POISON. -/
def rowTag (t : Tag) : Tag :=
  let v := tagVc t
  mkTag (tagFmt t) (if readsZero t then vcValid else if vcPoisoned v then vcPoison else v) (tagLxp t)

/-- The width of a line's elements as a vector load takes them; FORMAT_PAIR for I64, for a reserved code, and for a line
wider than the handle (R351, R352). -/
def lineWidth (t : Tag) (wh : Nat) : Op Nat :=
  match Fmt.ofCode (tagFmt t) with
  | some f => if f = .i64 || f.width > wh then raise .formatPair (t.setWidth 64) else pure f.width
  | none => raise .formatPair (t.setWidth 64)

/-- The handle of a vector transfer: valid, and not of I64 elements. -/
def rowHandle (k : Nat) (h : BitVec 6) : Op (Nat × Nat × HEntry) := do
  let (t, i, e) ← validEntry k h anyLevel
  if Fmt.ofCode e.fmt0 = some .i64 then raise .formatPair ((mkTag e.fmt0 vcValid 127).setWidth 64)
  pure (t, i, e)

/-- The lanes of a piece by the line they lie in, in order. -/
def pieceLines (wh piece : Nat) (lanes : List Nat) : List (Nat × List Nat) :=
  let line := fun (c : Nat) => (64 * piece + c) * wh / 1024
  ((lanes.map line).eraseDups).map fun n => (n, lanes.filter fun c => line c = n)

/-- Read line n of a handle for lanes of a piece: its checks, tenure and watchpoints. An element is named in etval by its place in the handle,
or as `tile` has it for the matrix queue (R392), whose loads consume what they read (R67). -/
def loadPiece (cl : Client) (ho : Holder) (e : HEntry) (piece n : Nat) (lanes : List Nat) (tile : Option Nat := none) : Op View := do
  let el := 64 * piece + lanes.headD 0
  let p := el % (1024 / e.width)
  let name := tile.getD el
  require (decide (n < e.footprint)) .handleShape (BitVec.ofNat 64 name)
  let (pl, v) ← readLine cl e n
  let strict := match pl with | some pl => pl.strict | none => false
  if tile.isSome && vcPoisoned (tagVc v.tag) then raise .poisonConsumed (elemVal e n (p * e.width) name)
  if tagVc v.tag = vcUndef && strict then raise .undefRead (elemVal e n (p * e.width) name)
  let w ← lineWidth v.tag e.width
  engineTenure cl ho e ((lanes.map fun c => cellOfElem e.shp (64 * piece + c)).eraseDups) false (elemVal e n (p * w) name)
  watchHandle cl e pl w 0 el (lanes.getLastD 0 + 1 - lanes.headD 0) p
  pure ⟨if readsZero v.tag then 0 else v.data, rowTag v.tag⟩

/-- Load the lanes of one row, line by line: lanes of earlier lines stand when a later line stops the row; lines of
different tags fault at the row's first lane (R62). -/
def loadRow (k : Nat) (cl : Client) (ho : Holder) (e : HEntry) (vd : BitVec 5) (r piece : Nat) (old : Row) :
    List (Nat × List Nat) → List Nat → (Nat → Nat) → Option Tag → Op Unit
  | [], done, out, t => do
    match t with
    | some t => putWhole k vd r (mergeRow old t done out)
    | none => pure ()
  | (n, lanes) :: rest, done, out, t => fun s =>
    match loadPiece cl ho e piece n lanes none s with
    | .error st =>
      let s' := st.state.getD s
      let s' := match t with
        | some t => s'.modCtx k fun c => c.setRow vd.toNat r (mergeRow old t done out)
        | none => s'
      .error (match st.withState s' with
        | .fault f x => .fault { f with elem := 64 * r + lanes.headD 0 } x
        | .wait _ x => .wait (64 * r + lanes.headD 0) x
        | .hold h va a _ x => .hold h va a (64 * r + lanes.headD 0) x)
    | .ok (v, s') =>
      let w := widthOf (tagFmt v.tag)
      let out' := fun (c : Nat) => if lanes.contains c then elemOf v.data w ((64 * piece + c) % (1024 / e.width)) else out c
      match t with
      | some t => if t ≠ v.tag then (pairFault { tag := v.tag } : Op Unit) s else loadRow k cl ho e vd r piece old rest (done ++ lanes) out' (some t) s'
      | none => loadRow k cl ho e vd r piece old rest (done ++ lanes) out' (some v.tag) s'

/-- The piece of row r: Unsigned(a) + r·Unsigned(b). -/
def pieceOf (e : QEntry) (r : Nat) : Nat := e.op1.toNat + r * e.op2.toNat

def perfVld (vd : BitVec 5) (h : BitVec 6) (n : BitVec 4) (m : Option (BitVec 4)) : Perform := fun k e => do
  let (t, _, x) ← rowHandle k h
  let cl := vectorClient (← get) k
  overRows k e n m fun r lanes => do
    let old ← getRow k vd r
    loadRow k cl { task := t, h := h.toNat } x vd r (pieceOf e r) old (pieceLines x.width (pieceOf e r) lanes) [] (fun _ => 0) none

def execVld (c : Ctl) (vd : BitVec 5) (h ra rb : BitVec 6) (n : BitVec 4) (m : Option (BitVec 4)) (o : Bool) (s : State) :
    Host.Outcome State Fault Refusal :=
  issueVector (.vld c vd h ra rb n m o) (some .ldp) (rowsOf n) ra rb (perfVld vd h n m) s

/-! Stores. -/

/-- One lane of a store: its element number in the instruction, piece, line, position, row, the name etval gives it, the row's tag and the
code, and for a matrix store its conversion's overflow and flags. -/
structure StItem where
  el : Nat
  piece : Nat
  line : Nat
  pos : Nat
  row : Nat
  name : Nat
  tag : Tag
  code : Nat
  ovf : Bool := false
  flags : Flags := {}

/-- Items by line, in order of each line's first lane. -/
def byLine (xs : List StItem) : List (Nat × List StItem) :=
  ((xs.map (·.line)).eraseDups).map fun n => (n, xs.filter fun x => x.line = n)

/-- The first lane that meets a bound of the instruction itself: beyond the footprint, a row wider than the handle, rows of
one line that disagree (R63, R351, R353). -/
def storeStop (e : HEntry) : List StItem → List (Nat × Tag) → Option Stop
  | [], _ => none
  | x :: xs, heads =>
    let fault := fun (c : Cause) (w : Word) => some (Stop.fault { cause := c, etval := w, elem := x.el } none)
    if x.line ≥ e.footprint then fault .handleShape (BitVec.ofNat 64 x.name)
    else if widthOf (tagFmt x.tag) > e.width then fault .formatPair (x.tag.setWidth 64)
    else match heads.find? fun h => h.1 = x.line with
      | some h => if tagFmt h.2 ≠ tagFmt x.tag || tagLxp h.2 ≠ tagLxp x.tag then fault .formatPair (x.tag.setWidth 64)
                  else storeStop e xs heads
      | none => storeStop e xs ((x.line, x.tag) :: heads)

/-- The tag a line's lanes carry: their rows', POISON if any row is (R63); of other classes that of the first lane's row (log entry 49,
DESIGN CHOICE). -/
def itemsTag (xs : List StItem) : Tag :=
  let t := ((xs.map (·.tag)).headD 0)
  if xs.any fun x => vcPoisoned (tagVc x.tag) then mkTag (tagFmt t) vcPoison (tagLxp t) else t

/-- Every position of the line is written. -/
def itemsFull (wh : Nat) (xs : List StItem) : Bool := decide ((xs.map (·.pos)).eraseDups.length = 1024 / wh)

/-- A line's bits with the items' elements laid over them, and the bytes they touch. -/
def layItems (w : Nat) (base : BitVec 1024) (xs : List StItem) : BitVec 1024 × BitVec 128 :=
  xs.foldl (fun a x =>
    let b := w * x.pos
    let hole : BitVec 1024 := BitVec.ofNat 1024 ((2 ^ w - 1) * 2 ^ b)
    ((a.1 &&& ~~~hole) ||| BitVec.ofNat 1024 (x.code * 2 ^ b),
     a.2 ||| byteMask (b / 8) ((b + w + 7) / 8 - b / 8))) (base, 0)

/-- What Table 14.7 leaves of a line under some items. -/
def storeResult (wh pol : Nat) (md : RMode) (v : View) (xs : List StItem) :
    Except Cause (BitVec 1024 × BitVec 128 × Tag × Nat) :=
  let t := itemsTag xs
  let full := itemsFull wh xs
  let base : BitVec 1024 := if full || readsZero v.tag then 0 else v.data
  let (d, b) := layItems (widthOf (tagFmt t)) base xs
  taggedResult v pol md d (if full then BitVec.allOnes 128 else b) t

/-- Reach one line of a store and check what it meets: its class and tag, tenure row by row, watchpoints. -/
def storeCheck (cl : Client) (ho : Holder) (e : HEntry) (md : RMode) (n : Nat) (xs : List StItem) : Op (Place × View) := fun s =>
  let first := (xs.map (·.el)).headD 0
  let w := widthOf (tagFmt (itemsTag xs))
  let p := (xs.map (·.pos)).headD 0
  let rows := (xs.map (·.row)).eraseDups.map fun r => xs.filter fun x => x.row = r
  let op : Op (Place × View) := do
    let (pl, v) ← openLine cl e n (itemsFull e.width xs)
    match storeResult e.width pl.pol md v xs with
    | .error .poisonConsumed => raise .poisonConsumed (elemVal e n (p * w) ((xs.map (·.name)).headD 0))
    | .error c => raise c (v.tag.setWidth 64)
    | .ok _ => pure ()
    rows.forM fun ys => atElem ((ys.map (·.el)).headD 0) do
      let el := 64 * (ys.map (·.piece)).headD 0 + (ys.map (·.el)).headD 0 % 64
      let q := (ys.map (·.pos)).headD 0
      engineTenure cl ho e ((ys.map fun y => cellOfElem e.shp (64 * y.piece + y.el % 64)).eraseDups) true (elemVal e n (q * w) ((ys.map (·.name)).headD 0))
      watchHandle cl e (some pl) w 1 el ys.length q
    pure (pl, v)
  match op s with
  | .ok x => .ok x
  | .error (.fault f x) => .error (.fault { f with elem := max first f.elem } (some (x.getD s)))
  | .error (.wait el x) => .error (.wait (max first el) (some (x.getD s)))
  | .error (.hold h va a el x) => .error (.hold h va a (max first el) (some (x.getD s)))

/-- Check lines in order until one stops. -/
def storeChecks (chk : Nat → List StItem → Op (Place × View)) :
    List (Nat × List StItem) → State → List (Nat × List StItem × Place × View) × State × Option Stop
  | [], s => ([], s, none)
  | (n, xs) :: rest, s =>
    match chk n xs s with
    | .error st => ([], st.state.getD s, some st)
    | .ok ((pl, v), s') =>
      let (ys, s'', st) := storeChecks chk rest s'
      ((n, xs, pl, v) :: ys, s'', st)

/-- Write one checked line; saturations of a demoting store count in the handle. -/
def storeWrite (k : Nat) (h : BitVec 6) (cl : Client) (e : HEntry) (md : RMode) (xs : List StItem) (pl : Place) (v : View) :
    Op Unit := do
  match storeResult e.width pl.pol md v xs with
  | .error c => raise c (v.tag.setWidth 64)
  | .ok (d, b, t, o) =>
    closeLine cl e pl v d b t
    orVstat k (xs.foldl (fun a x => a.or x.flags) {})
    let o := o + (xs.filter fun x => x.ovf).length
    if o ≠ 0 then countOvf k (some h) o

/-- Store lanes: those below the first that stops are performed, and no other (R333). -/
def storeAll (chk : Nat → List StItem → Op (Place × View)) (write : List StItem → Place → View → Op Unit) :
    Nat → List StItem → Option Stop → Op Unit
  | 0, _, _ => pure ()
  | fuel + 1, items, pending => fun s =>
    match storeChecks chk (byLine items) s with
    | (_, s', some st) => storeAll chk write fuel (items.filter fun x => decide (x.el < st.elem)) (some st) s'
    | (ys, s', none) =>
      match (ys.forM fun y => write y.2.1 y.2.2.1 y.2.2.2) s', pending with
      | .ok ((), s''), none => .ok ((), s'')
      | .ok ((), s''), some st => .error (st.withState s'')
      | .error st, _ => .error (st.withState (st.state.getD s'))

/-- The lanes of a store of rows of vs. -/
def storeItems (c : Ctx) (e : QEntry) (wh : Nat) (vs : BitVec 5) (n : BitVec 4) (m : Option (BitVec 4)) : List StItem :=
  (List.range (rowsOf n)).flatMap fun r =>
    let x := c.row vs.toNat r
    (activeLanes e (c.mask m) r).map fun j =>
      let el := 64 * pieceOf e r + j
      { el := 64 * r + j, piece := pieceOf e r, line := el * wh / 1024, pos := el % (1024 / wh), row := r, name := el, tag := x.tag,
        code := x.elem j }

def perfVst (h : BitVec 6) (vs : BitVec 5) (n : BitVec 4) (m : Option (BitVec 4)) : Perform := fun k e => do
  let (t, _, x) ← rowHandle k h
  let s ← get
  let cl := vectorClient s k
  let md := (s.ctx k).vmode
  let items := storeItems (s.ctx k) e x.width vs n m
  let stop := storeStop x items []
  let items := match stop with | some st => items.filter fun y => decide (y.el < st.elem) | none => items
  storeAll (storeCheck cl { task := t, h := h.toNat } x md) (storeWrite k h cl x md) (items.length + 1) items stop

def execVst (c : Ctl) (h ra rb : BitVec 6) (vs : BitVec 5) (n : BitVec 4) (m : Option (BitVec 4)) (o : Bool) (s : State) :
    Host.Outcome State Fault Refusal :=
  issueVector (.vst c h ra rb vs n m o) (some .stp) (rowsOf n) ra rb (perfVst h vs n m) s

/-! Gather and scatter by address. -/

/-- The address of a lane: the base plus the signed index shifted (R355). -/
def laneAddr (base : Word) (f : Fmt) (i : Nat) (sh : BitVec 2) : Nat :=
  (base + ((BitVec.ofNat f.width i).signExtend 64 <<< sh.toNat)).toNat

/-- A row of indices: I8, I16 or I32, not POISON. -/
def indexRow (k : Nat) (vi : BitVec 5) (r : Nat) : Op (Row × Fmt) := do
  let x ← getRow k vi r
  notPoison vi r x
  match Fmt.ofCode (tagFmt x.tag) with
  | some f => if f = .i8 || f = .i16 || f = .i32 then pure (x, f) else pairFault x
  | none => pairFault x

/-- The width of a line's elements that a lane by address takes; none of 4 bits or 64. -/
def addrWidth (t : Tag) : Op Nat :=
  match Fmt.ofCode (tagFmt t) with
  | some f => if f.width = 4 || f.width = 64 then raise .formatPair (t.setWidth 64) else pure f.width
  | none => raise .formatPair (t.setWidth 64)

/-- Read one element at an address as a gathering agent does: its row tag and code. -/
def gatherLane (cl : Client) (a : Nat) : Op (Tag × Nat) := do
  let pl ← placeAt cl a .load
  let v ← carry cl pl .load
  let w ← addrWidth v.tag
  require (decide (a % (w / 8) = 0)) .illegalOp (BitVec.ofNat 64 a)
  scalarTenure cl a (w / 8) false
  watch cl 0 a (a + w / 8) none
  coherent cl pl (a % 128) (w / 8) false
  pure (rowTag v.tag, bytesAt (if readsZero v.tag then 0 else v.data) (a % 128) (w / 8))

/-- Gather the lanes of a row in order; lanes below one that stops are performed. -/
def gatherRow (k : Nat) (vd : BitVec 5) (r : Nat) (read : Nat → Op (Tag × Nat)) (old : Row) :
    List Nat → List (Nat × Nat) → Option Tag → Op Unit
  | [], got, t => do
    match t with
    | some t => putWhole k vd r (mergeRow old t (got.map (·.1)) fun c => ((got.find? fun x => x.1 = c).map (·.2)).getD 0)
    | none => pure ()
  | c :: cs, got, t => fun s =>
    let keep := fun (s' : State) => match t with
      | some t => s'.modCtx k fun x =>
          x.setRow vd.toNat r (mergeRow old t (got.map (·.1)) fun c => ((got.find? fun x => x.1 = c).map (·.2)).getD 0)
      | none => s'
    match read c s with
    | .error st => .error (match st.withState (keep (st.state.getD s)) with
        | .fault f x => .fault { f with elem := 64 * r + c } x
        | .wait _ x => .wait (64 * r + c) x
        | .hold h va a _ x => .hold h va a (64 * r + c) x)
    | .ok ((t', x), s') =>
      match t with
      | some u => if u ≠ t' then .error (.fault { cause := .formatPair, etval := t'.setWidth 64, elem := 64 * r + c } (some (keep s')))
                  else gatherRow k vd r read old cs (got ++ [(c, x)]) (some u) s'
      | none => gatherRow k vd r read old cs (got ++ [(c, x)]) (some t') s'

def perfVgth (vd vi : BitVec 5) (sh : BitVec 2) (n : BitVec 4) (m : Option (BitVec 4)) : Perform := fun k e => do
  let cl := vectorClient (← get) k
  overRows k e n m fun r lanes => do
    let (ix, f) ← indexRow k vi r
    let old ← getRow k vd r
    gatherRow k vd r (fun c => gatherLane cl (laneAddr e.op1 f (ix.elem c) sh)) old lanes [] none

def execVgth (c : Ctl) (vd : BitVec 5) (ra : BitVec 6) (vi : BitVec 5) (sh : BitVec 2) (n : BitVec 4) (m : Option (BitVec 4))
    (o : Bool) (s : State) : Host.Outcome State Fault Refusal :=
  issueVector (.vgth c vd ra vi sh n m o) (some .ldp) (rowsOf n) ra 0 (perfVgth vd vi sh n m) s

/-- Write one element of a row at an address, as a partial write (R356): the saturations of a demoting page. -/
def scatterLane (cl : Client) (md : RMode) (a : Nat) (t : Tag) (x : Nat) : Op Nat := do
  let w ← addrWidth t
  require (decide (a % (w / 8) = 0)) .illegalOp (BitVec.ofNat 64 a)
  let pl ← placeAt cl a .store
  let v ← reach cl pl .store
  if vcPoisoned (tagVc v.tag) then raiseKept .poisonConsumed (BitVec.ofNat 64 a)
  let _ ← addrWidth v.tag
  let off := a % 128
  match taggedResult v pl.pol md (BitVec.ofNat 1024 (x * 2 ^ (8 * off))) (byteMask off (w / 8)) t with
  | .error c => raise c (v.tag.setWidth 64)
  | .ok (d, b, t', o) =>
    scalarTenure cl a (w / 8) true
    watch cl 1 a (a + w / 8) none
    coherent cl pl off (w / 8) true
    performWrite cl pl d b t' true
    pure o

/-- VSCT consumes its rows of vs, as every instruction but a vector store does (R67, R335). -/
def perfVsct (vi vs : BitVec 5) (sh : BitVec 2) (n : BitVec 4) (m : Option (BitVec 4)) : Perform := fun k e => do
  let s ← get
  let cl := vectorClient s k
  let md := (s.ctx k).vmode
  overRows k e n m fun r lanes => do
    let x ← getRow k vs r
    notPoison vs r x
    let (ix, f) ← indexRow k vi r
    lanes.forM fun c => atElem (64 * r + c) do
      let o ← scatterLane cl md (laneAddr e.op1 f (ix.elem c) sh) x.tag (x.elem c)
      if o ≠ 0 then countOvf k none o

def execVsct (c : Ctl) (ra : BitVec 6) (vi vs : BitVec 5) (sh : BitVec 2) (n : BitVec 4) (m : Option (BitVec 4)) (o : Bool)
    (s : State) : Host.Outcome State Fault Refusal :=
  issueVector (.vsct c ra vi vs sh n m o) (some .stp) (rowsOf n) ra 0 (perfVsct vi vs sh n m) s

end Sys2Proof.Machine
end

