-- ==== Sys2Proof/Machine/Matrix.lean ====
section
/-!
DEFINITION. Sys2Proof/Machine/Matrix.lean: the matrix engine (chapter 16): its queue and holder, shapes and rounding modes,
MMA and MMAG, loading, storing and moving tiles.
-/

namespace Sys2Proof.Machine

open Sys2Proof

/-! The queue and the holder (R374 to R376). -/

/-- What performing a matrix entry does: the task, its execute stream, the entry. -/
abbrev MPerform := Nat → Nat → QEntry → Op Unit

/-- The entries that need the engine (R375). -/
def needsEngine : Instr → Bool
  | .mzero _ _ => true
  | .mma _ _ _ _ _ _ _ => true
  | .mmag _ _ _ _ _ _ _ _ _ => true
  | .mlda _ _ _ _ => true
  | .msta _ _ _ _ _ _ => true
  | .movcG _ _ _ _ => true
  | .movcP _ _ _ _ => true
  | _ => false

/-- The tiles a stream's partition owns (Table 16.1): all of an engine that is not split belong to record 0. -/
def tileOwned (s : State) (k tile : Nat) : Bool :=
  let split := bit (s.core (coreOf k)).part0A 46
  match partOf s k, split with
  | 0, true => decide (tile < 2)
  | 0, false => true
  | _, true => decide (2 ≤ tile)
  | _, false => false

/-- The holder of a partition. -/
def Core.holder (c : Core) (part : Nat) : Option Nat := if part = 0 then c.holder0 else c.holder1
def Core.setHolder (c : Core) (part t : Nat) : Core :=
  if part = 0 then { c with holder0 := some t } else { c with holder1 := some t }

/-- The tiles a pre-empted task kept are its partition's again (R443). -/
def loadTiles (s : State) (t core p : Nat) : State :=
  match s.task t with
  | none => s
  | some x =>
    if x.savedAcc.isEmpty then s
    else (s.modCore core fun c =>
      { c with acc := x.savedAcc.foldl (fun m y => SMap.set 0 m (p * 2 ^ 20 + y.1 % 2 ^ 20) y.2) c.acc }).setTask t (some { x with savedAcc := [] })

/-- The task becomes holder of its partition, or is already (R375). -/
def takeEngine (s : State) (t k : Nat) : Option State :=
  let p := partOf s k
  match (s.core (coreOf k)).holder p with
  | none => some (loadTiles (s.modCore (coreOf k) fun c => c.setHolder p t) t (coreOf k) p)
  | some x => if x = t then some s else none

/-- An entry waits for an earlier entry of the execute stream's vector queue (R380). -/
def vectorBlocks (s : State) (k : Nat) (e : QEntry) : Bool :=
  (s.ctx k).vq.any fun q => match q with
    | .entry v => decide (v.seq < e.seq) && meetsMatrix v.instr e.instr
    | .mode _ _ => false
    | .marker _ => false

/-- An entry back at its queue's head. -/
def parkMatrix (s : State) (t : Nat) (e : QEntry) (el : Nat) (waiting : Bool) : State :=
  s.modTask t fun x => { x with mq := .entry { e with vstart := el, waiting := waiting, lost := none } :: x.mq }

/-- Perform the entry taken from the head of a task's matrix queue (R392); one whose handle has been freed while it waited ends with its
fault (R318). -/
def runMatrix (s : State) (t k : Nat) (e : QEntry) (perform : MPerform) : State :=
  match (match e.lost with | some h => raise .handleInvalid (h.setWidth 64) | none => perform t k e : Op Unit) s with
  | .ok (_, s') => s'
  | .error (.fault f s') =>
    let s' := parkMatrix (s'.getD s) t e (max f.elem e.vstart) false
    raiseFault s' k { f with src := .matrix, fpc := e.pc, epc := (s'.ctx k).pc }
  | .error (.wait el s') => parkMatrix ((s'.getD s).noteElem (1000 + k) el) t e (max el e.vstart) true
  | .error (.hold h va a el s') =>
    (parkMatrix (s'.getD s) t e (max el e.vstart) false).modCtx k fun c =>
      { c with hold := some { kind := h, va := va, access := a, src := .matrix, elem := el, since := s.now } }

/-- Take the item at the head of a task's matrix queue as far as it goes: a mode entry and a marker pass; an entry waits
for the engine, the scoreboard, a held or faulted stream, else is performed. -/
def matrixHead (s : State) (t k : Nat) (perform : Instr → MPerform) : State :=
  match s.task t with
  | none => s
  | some x =>
    match x.mq with
    | [] => s
    | .mode m _ :: q => s.setTask t (some { x with mq := q, mqMode := m })
    | .marker j :: q => (s.setTask t (some { x with mq := q })).modCtx j fun c =>
        { c with markers := c.markers.filter fun m => m.queue ≠ 1 }
    | .entry e :: q =>
      if queueStopped s k .matrix || heldTask s k || crDueOf s k then s
      else match (if needsEngine e.instr then takeEngine s t k else some s) with
        | none => s
        | some s => if vectorBlocks s k e then s
          else runMatrix (s.modTask t fun y => { y with mq := q }) t k e (perform e.instr)

/-- Issue an instruction into the matrix queue; one that finds it empty is taken up at once (log entry 3, DEDUCED). `bad`: the
instruction's own limits, judged at issue. -/
def issueMatrix (i : Instr) (tile : Option Nat) (ra rb : BitVec 6) (perform : MPerform) (s : State)
    (bad : Ctx → Task → Option Word := fun _ _ => none) : Host.Outcome State Fault Refusal :=
  let k := s.focus
  let c := s.ctx k
  let owned := match tile with | none => true | some j => tileOwned s k j
  match issueFault i c, c.task.bind fun t => (s.task t).map fun x => (t, x) with
  | some f, _ => settle s k (.error (.fault f none))
  | none, none => settle s k (.error (.fault { cause := .illegalOp, etval := c.ir } none))
  | none, some (t, x) =>
    if !owned then settle s k (.error (.fault { cause := .pipeNotOwned, etval := c.ir } none))
    else if c.stalls i || (c.guards i.ctl && decide (32 ≤ x.mq.length)) then .next s
    else if !c.guards i.ctl then .next (s.modCtx k Ctx.advance)
    else if (bad c x).isSome then settle s k (.error (.fault { cause := .illegalOp, etval := (bad c x).getD 0 } none))
    else
      let e := capture c s.ticks ra rb i false
      let e := { e with vstart := 0 }
      let s := (s.modCtx k Ctx.advance).modTask t fun y => { y with mq := y.mq ++ [.entry e] }
      .next (if x.mq.isEmpty then matrixHead s t k fun _ => perform else s)

/-! Tiles. -/

/-- An element of a tile, which an unlisted key reads as zero: the partition, tile, row and column make the key. -/
def accKey (part tile m n : Nat) : Nat := part * 2 ^ 20 + tile * 2 ^ 14 + m * 128 + n
def State.acc (s : State) (core part tile m n : Nat) : Nat := (SMap.get 0 (s.core core).acc (accKey part tile m n)).toNat
def State.setAcc (s : State) (core part tile m n v : Nat) : State :=
  s.modCore core fun c => { c with acc := SMap.set 0 c.acc (accKey part tile m n) (BitVec.ofNat 32 v) }

/-- M, N and the accumulator format of an mshape value; none for any other AFMT. -/
def shapeM (w : Word) : Nat := field w 6 0 + 1
def shapeN (w : Word) : Nat := field w 22 16 + 1
def shapeAcc (w : Word) : Option Fmt :=
  match field w 29 24 with | 0x10 => some .f32 | 0x03 => some .i32 | _ => none

/-- The accumulator format an entry captured, or FORMAT_PAIR with mshape (R384). -/
def accFmt (e : QEntry) : Op Fmt :=
  match shapeAcc e.mshape with
  | some f => pure f
  | none => raise .formatPair e.mshape

/-- The matrix queue's mode. -/
def Task.mmode (x : Task) : RMode := RMode.ofCode x.mqMode.toNat
def matrixMode (t : Nat) : Op RMode := do
  match (← get).task t with
  | some x => pure x.mmode
  | none => pure .rne

/-! Shape and modes (R378, R379). -/

def execMshape (c : Ctl) (ra rb : BitVec 6) (i32 : Bool) (s : State) : Host.Outcome State Fault Refusal :=
  issue (.mshape c ra rb i32) s fun k => do
    let x := (← get).ctx k
    let (m, n) := (x.s ra, x.s rb)
    require (decide (1 ≤ m.toNat) && decide (m.toNat ≤ 128)) .illegalOp m
    require (decide (1 ≤ n.toNat) && decide (n.toNat ≤ 128)) .illegalOp n
    modify fun s => s.modCtx k fun c =>
      { c with mshape := BitVec.ofNat 64 ((if i32 then 0x03 else 0x10) * 2 ^ 24 + (n.toNat - 1) * 2 ^ 16 + (m.toNat - 1)) }
    pure .on

/-- RMODE: a mode entry in each named queue; an empty queue takes it at once. It waits while a queue is full. -/
def execRmode (c : Ctl) (qs : BitVec 2) (mode : BitVec 3) (s : State) : Host.Outcome State Fault Refusal :=
  issue (.rmode c qs mode) s fun k => do
    let (t, x) ← myTask k
    let y := (← get).ctx k
    if (qs.getLsbD 0 && decide (32 ≤ y.vq.length)) || (qs.getLsbD 1 && decide (32 ≤ x.mq.length)) then waitHere
    let e : QEntry := { capture y (← get).ticks 0 0 (.rmode c qs mode) false with vstart := 0 }
    if qs.getLsbD 0 then
      modify fun s => s.modCtx k fun c =>
        if c.vq.isEmpty then { c with vqMode := mode } else { c with vq := c.vq ++ [.mode mode e] }
    if qs.getLsbD 1 then
      modify fun s => s.modTask t fun x =>
        if x.mq.isEmpty then { x with mqMode := mode } else { x with mq := x.mq ++ [.mode mode e] }
    pure .on

/-! MMA (R381 to R384). -/

/-- An operand row of MMA, checked: its format, its elements' exact values with the companion applied. -/
structure MRow where
  fmt : Fmt
  vals : List FNum

/-- Row m of a register group as stored. -/
def groupRow (c : Ctx) (first : BitVec 5) (m : Nat) : BitVec 5 × Nat × Row :=
  let v := first + BitVec.ofNat 5 (m / 16)
  (v, m % 16, c.row v.toNat (m % 16))

/-- Check an operand row and its place with the other operand's requirements: not POISON; an arithmetic row (R384). -/
def matrixRow (v : BitVec 5) (r : Nat) (x : Row) (acc : Fmt) : Op Fmt := do
  if vcPoisoned (tagVc x.tag) then raise .poisonConsumed (rowVal v r)
  match Fmt.ofCode (tagFmt x.tag) with
  | none => raise .formatPair (rowVal v r)
  | some f =>
    if f.isArith && tagVc x.tag = vcValid && (f.isFloat || tagLxp x.tag = 127) && !(acc = .i32 && f.isFloat) then pure f
    else raise .formatPair (rowVal v r)

/-- The companion byte of a row's lane (Table 16.3), from the companion register; without one a scale of 1 or a zero
point of 0. -/
def companionByte (c : Ctx) (vs : Option (BitVec 5)) (f : Fmt) (row lane : Nat) : Op (Option Nat) :=
  match vs with
  | none => pure none
  | some v =>
    match companion f with
    | none => pure none
    | some (pf, bs) => do
      let j := 64 / bs * row + lane / bs
      let x := c.row v.toNat (j / 64)
      match planeByte x.tag pf (x.elem (j % 64)) with
      | .error cause => raise cause (rowVal v (j / 64))
      | .ok q => pure (some q)

/-- A companion named for a row whose format has none faults with that row (R381). -/
def companionFits (vs : Option (BitVec 5)) (v : BitVec 5) (r : Nat) (f : Fmt) : Op Unit :=
  require (vs.isNone || (companion f).isSome) .formatPair (rowVal v r)

/-- The exact values of the first K lanes of a row. -/
def rowVals (c : Ctx) (vs : Option (BitVec 5)) (f : Fmt) (row : Nat) (x : Row) (kk : Nat) : Op (List FNum) :=
  (List.range kk).mapM fun j => do
    match ← companionByte c vs f row j with
    | none => pure (x.val f j)
    | some q => pure (withPlane f (x.val f j) q)

/-- Operand classes: the chunk (Table 16.4). -/
def chunkOf (a b : Fmt) : Nat := let w := max a.width b.width; if w ≤ 4 then 64 else if w ≤ 8 then 32 else 16

/-- One chunk: the exact products from a place on, summed exactly; the Bool, an invalid operation. -/
def chunkSum (md : RMode) (a b : List FNum) : FNum × Bool :=
  let ps := (a.zip b).map fun x => FNum.mul x.1 x.2
  let (v, nv) := sumNums md (ps.map (·.1))
  (v, nv || ps.any (·.2))

/-- The chunks of two rows in order. -/
def chunksOf (n : Nat) : Nat → List FNum → List (List FNum)
  | 0, _ => []
  | fuel + 1, xs => if xs.isEmpty then [] else xs.take n :: chunksOf n fuel (xs.drop n)

/-- One tile element: its old code, the rows' values, the accumulator format and mode; the new code and flags (R382). -/
def mmaElem (acc : Fmt) (md : RMode) (s : Nat) (a b : List FNum) (old : Nat) : Nat × Flags :=
  ((chunksOf s (a.length + 1) a).zip (chunksOf s (a.length + 1) b)).foldl (fun (c : Nat × Flags) x =>
    let (p, nv) := chunkSum md x.1 x.2
    if acc = .f32 then
      let (q, f1) := finish .f32 md p
      let (v, nv2) := FNum.add md (decode .f32 c.1) (decode .f32 q)
      let (y, f2) := finish .f32 md v
      (y, ((c.2.or f1).or f2).or { nv := nv || nv2 })
    else
      let (y, o) := clampCode true 32 ((BitVec.ofNat 32 c.1).toInt + p.toInt)
      (y, c.2.or { of := o, nv := nv })) (old, {})

/-- The operands of a product: the streams whose registers supply A and B, and what the entry captured. -/
structure MmaIn where
  ca : Ctx
  cb : Ctx
  va : BitVec 5
  vb : BitVec 5
  vsa : Option (BitVec 5)
  vsb : Option (BitVec 5)
  g : Nat
  mshape : Word
  k : Nat

/-- Read and check every row of a product (R384): A rows, B rows, then companions. -/
def mmaRows (s : State) (vd : Nat) (x : MmaIn) (acc : Fmt) : Op (List MRow × List MRow) := do
  let m := shapeM x.mshape
  let n := shapeN x.mshape
  let as ← (List.range m).mapM fun i => do
    let (v, r, row) := groupRow x.ca x.va i
    let f ← matrixRow v r row acc
    companionFits x.vsa v r f
    pure (f, row)
  let fas := (as.map (·.1)).eraseDups
  let bs ← (List.range n).mapM fun i => do
    let (v, r, row) := groupRow x.cb x.vb i
    let f ← matrixRow v r row acc
    companionFits x.vsb v r f
    require (fas.all fun fa => (lattice s vd true fa f).isSome) .formatPair (rowVal v r)
    pure (f, row)
  let ra ← as.zipIdx.mapM fun y => do
    return ({ fmt := y.1.1, vals := ← rowVals x.ca x.vsa y.1.1 y.2 y.1.2 x.k } : MRow)
  let rb ← bs.zipIdx.mapM fun y => do
    return ({ fmt := y.1.1, vals := ← rowVals x.cb x.vsb y.1.1 y.2 y.1.2 x.k } : MRow)
  pure (ra, rb)

/-- Accumulate a product into a tile of a core. -/
def accumulate (core part tile : Nat) (acc : Fmt) (md : RMode) (ra rb : List MRow) (s : State) : State × Flags :=
  ra.zipIdx.foldl (fun x a => rb.zipIdx.foldl (fun (x : State × Flags) b =>
    let (c, f) := mmaElem acc md (chunkOf a.1.fmt b.1.fmt) a.1.vals b.1.vals (x.1.acc core part tile a.2 b.2)
    (x.1.setAcc core part tile a.2 b.2 c, x.2.or f)) x) (s, {})

/-- A product checked, then accumulated by a stream into its tile. -/
def product (k tile : Nat) (md : RMode) (x : MmaIn) : Op Unit := do
  let acc ← match shapeAcc x.mshape with
    | some f => pure f
    | none => raise .formatPair x.mshape
  let s ← get
  let (ra, rb) ← mmaRows s (s.ctx k).vd x acc
  let (s', f) := accumulate (coreOf k) (partOf s k) tile acc md ra rb s
  set s'
  orVstat k f

def perfMma (tile : BitVec 2) (va vb : BitVec 5) (vsa vsb : Option (BitVec 5)) (g : BitVec 2) : MPerform := fun t k e => do
  let md ← matrixMode t
  let c := (← get).ctx k
  product k tile.toNat md
    { ca := c, cb := c, va := va, vb := vb, vsa := vsa, vsb := vsb, g := g.toNat, mshape := e.mshape, k := e.vl }

/-- M beyond the A group, as captured at issue (R381, log entry 28, DEDUCED). -/
def mmaLimit (g : BitVec 2) (c : Ctx) : Option Word :=
  let m := shapeM c.mshape
  if m ≤ 16 * 2 ^ g.toNat then none else some (BitVec.ofNat 64 m)

def execMma (c : Ctl) (t : BitVec 2) (va vb : BitVec 5) (vsa vsb : Option (BitVec 5)) (g : BitVec 2) (s : State) :
    Host.Outcome State Fault Refusal :=
  issueMatrix (.mma c t va vb vsa vsb g) (some t.toNat) 0 0 (perfMma t va vb vsa vsb g) s fun c _ => mmaLimit g c

/-! MMAG across a cord (R385, R386). -/

/-- The operands of an MMAG entry. -/
structure GridOp where
  tile : BitVec 2
  va : BitVec 5
  vb : BitVec 5
  vsa : Option (BitVec 5)
  vsb : Option (BitVec 5)
  g : BitVec 2

def gridOp : Instr → Option GridOp
  | .mmag _ t va vb vsa vsb g _ _ => some ⟨t, va, vb, vsa, vsb, g⟩
  | _ => none

/-- The members of a task's cord, in rank order; one that has ended is absent. -/
def cordMembers (s : State) (x : Task) : List (Nat × Task) :=
  (List.range (x.cszm1 + 1)).filterMap fun r =>
    (s.tasks.findSome? fun y => y.2.bind fun z =>
      if z.launch = x.launch && z.node = x.node && z.index = x.index / (x.cszm1 + 1) * (x.cszm1 + 1) + r then some (y.1, z)
      else none)

/-- A member whose MMAG stands at its queue's head and may meet: holder, neither held nor faulted, the scoreboard clear. -/
def readyMember (s : State) (t : Nat) (x : Task) : Option (Nat × Nat × QEntry × GridOp) :=
  match x.xctx, x.mq with
  | some k, .entry e :: _ =>
    match gridOp e.instr with
    | some g => if (takeEngine s t k).isSome && !queueStopped s k .matrix && !heldTask s k && !vectorBlocks s k e then some (t, k, e, g)
                else none
    | none => none
  | _, _ => none

/-- The product of one member of the grid, from the senders of its row and column and the numbers of rank 0. -/
def memberProduct (ms : List (Nat × Nat × QEntry × GridOp)) (pc rank : Nat) : Op Unit := do
  match ms[rank]?, ms[rank / pc * pc]?, ms[rank % pc]?, ms[0]? with
  | some (t, k, _, g), some (_, ka, _, ga), some (_, kb, _, gb), some (_, _, e0, g0) =>
    let s ← get
    let md ← matrixMode t
    product k g.tile.toNat md
      { ca := s.ctx ka, cb := s.ctx kb, va := ga.va, vb := gb.vb, vsa := ga.vsa, vsb := gb.vsb, g := g0.g.toNat,
        mshape := e0.mshape, k := e0.vl }
  | _, _, _, _ => pure ()

/-- Every member's product from the same registers, or the first member that faults, with its fault. -/
def gridProducts (ms : List (Nat × Nat × QEntry × GridOp)) (pc : Nat) : Nat → Nat → State → Except (Nat × Stop) State
  | 0, _, s => .ok s
  | left + 1, rank, s =>
    match memberProduct ms pc rank s with
    | .ok (_, s') => gridProducts ms pc left (rank + 1) s'
    | .error st => .error (rank, st)

/-- A member of a task's cord has ended by its HALT's retiring, and not by being discarded (R386). -/
def memberHalted (s : State) (x : Task) (rank : Nat) : Bool :=
  let i := x.index / (x.cszm1 + 1) * (x.cszm1 + 1) + rank
  match (s.launch x.launch).bind fun l => l.nodes[x.node]? with
  | some n => n.ended.contains i && !n.dropped.contains i
  | none => false

/-- MMAG at the head of a member's queue: it waits until every member's stands ready, and then all are performed together;
a fault in one member holds the others. -/
def perfMmag (pc : Nat) : MPerform := fun t _ e => do
  let s ← get
  match s.task t with
  | none => pure ()
  | some x =>
    let members := cordMembers s x
    match (List.range (x.cszm1 + 1)).find? (memberHalted s x) with
    | some r => raise .illegalOp (BitVec.ofNat 64 r)
    | none =>
      let own := s.modTask t fun x => { x with mq := .entry e :: x.mq }
      let ready := members.filterMap fun y => match own.task y.1 with | some z => readyMember own y.1 z | none => none
      if ready.length < x.cszm1 + 1 then throw (.wait 0 none)
      match gridProducts ready pc (x.cszm1 + 1) 0 own with
      | .error (r, st) =>
        match ready[r]? with
        | some (t', k', e', _) =>
          if t' = t then throw (.fault (match st with | .fault f _ => f | _ => { cause := .illegalOp, etval := 0 }) none)
          else
            let f : FaultInfo := match st with | .fault f _ => f | _ => { cause := .illegalOp, etval := 0 }
            throw (.wait 0 (some (raiseFault s k' { f with src := .matrix, fpc := e'.pc, epc := (s.ctx k').pc })))
        | none => throw (.wait 0 none)
      | .ok s' =>
        let pop := fun (s : State) (y : Nat × Nat × QEntry × GridOp) =>
          let s := match takeEngine s y.1 y.2.1 with | some s => s | none => s
          s.modTask y.1 fun z => { z with mq := z.mq.drop 1, mmag := z.mmag + 1 }
        set (ready.foldl pop s')

/-- MMAG's checks at issue: a cord of the grid's size, and, in rank 0, whose numbers are used, M within the A group
(R385, log entry 28, DEDUCED). -/
def mmagLimit (pr pc : Nat) (g : BitVec 2) (c : Ctx) (x : Task) : Option Word :=
  if !x.cord || pr * pc ≠ x.cszm1 + 1 then some c.ir else if x.rank = 0 then mmaLimit g c else none

def execMmag (c : Ctl) (t : BitVec 2) (va vb : BitVec 5) (vsa vsb : Option (BitVec 5)) (g : BitVec 2) (prM1 : BitVec 2)
    (pcM1 : BitVec 3) (s : State) : Host.Outcome State Fault Refusal :=
  issueMatrix (.mmag c t va vb vsa vsb g prM1 pcM1) (some t.toNat) 0 0 (perfMmag (pcM1.toNat + 1)) s
    (mmagLimit (prM1.toNat + 1) (pcM1.toNat + 1) g)

/-! Clearing, loading, storing and moving tiles (R387 to R390). -/

def perfMzero (tile : BitVec 2) : MPerform := fun _ k _ => do
  let p := partOf (← get) k
  modify fun s => s.modCore (coreOf k) fun c =>
    { c with acc := c.acc.filter fun x => x.1 / 2 ^ 14 ≠ p * 64 + tile.toNat }

def execMzero (c : Ctl) (t : BitVec 2) (s : State) : Host.Outcome State Fault Refusal :=
  issueMatrix (.mzero c t) (some t.toNat) 0 0 (perfMzero t) s

/-- The requester of a stream's matrix queue. -/
def matrixClient (s : State) (k : Nat) : Client := { clientOf s k with who := 1000 + k }

/-- The piece that holds columns 64·half up of row m of a tile's place (R387). -/
def tilePiece (a : Word) (m half : Nat) : Nat := field a 31 0 + m * field a 63 32 + half

/-- The runs of a tile's elements, row-major: row, half, and its columns below N from an element on. -/
def tileRuns (mm nn start : Nat) : List (Nat × Nat × List Nat) :=
  ((List.range mm).flatMap fun m => (List.range ((nn + 63) / 64)).map fun h =>
    (m, h, (List.range 64).filter fun c => decide (64 * h + c < nn) && decide (start ≤ 128 * m + 64 * h + c))).filter
      fun x => !x.2.2.isEmpty

/-- MLDA's conversion of one element; none for a format the accumulator does not take (R388). -/
def loadConv (acc : Fmt) (md : RMode) (t : Tag) (x : Nat) : Option (Nat × Flags) :=
  match Fmt.ofCode (tagFmt t) with
  | none => none
  | some f =>
    if !f.isArith || tagVc t ≠ vcValid || (!f.isFloat && tagLxp t ≠ 127) then none
    else if acc = .f32 then some (finish .f32 md (readElem f (tagLxp t) x))
    else if f.isFloat then none
    else some (((readElem f 127 x).toInt % (2 ^ 32 : Nat)).toNat, {})

/-- Load the lanes of one line of a run into a tile. -/
def loadTileLine (k : Nat) (cl : Client) (ho : Holder) (e : HEntry) (part tile m half piece : Nat) (acc : Fmt) (md : RMode)
    (n : Nat) (lanes : List Nat) : Op Unit := atElem (128 * m + 64 * half + lanes.headD 0) do
  let v ← loadPiece cl ho e piece n lanes (some (128 * m + 64 * half + lanes.headD 0))
  let w := widthOf (tagFmt v.tag)
  lanes.forM fun c =>
    match loadConv acc md v.tag (elemOf v.data w ((64 * piece + c) % (1024 / e.width))) with
    | none => raise .formatPair (v.tag.setWidth 64)
    | some (y, f) => do
      modify fun s => s.setAcc (coreOf k) part tile m (64 * half + c) y
      orVstat k f

def perfMlda (tile : BitVec 2) (h : BitVec 6) : MPerform := fun t k e => do
  let acc ← accFmt e
  let (_, _, x) ← rowHandle k h
  let s ← get
  let md ← matrixMode t
  let part := partOf s k
  (tileRuns (shapeM e.mshape) (shapeN e.mshape) e.vstart).forM fun (m, half, cs) =>
    let piece := tilePiece e.op1 m half
    (pieceLines x.width piece cs).forM fun (n, lanes) =>
      loadTileLine k (matrixClient s k) { task := t, h := h.toNat } x part tile.toNat m half piece acc md n lanes

def execMlda (c : Ctl) (t : BitVec 2) (h ra : BitVec 6) (s : State) : Host.Outcome State Fault Refusal :=
  issueMatrix (.mlda c t h ra) (some t.toNat) ra 0 (perfMlda t h) s

/-- Byte b of a plane handle, as a plane line is read (R85), or a BF16 entry of a band table (R98). -/
def planeRead (k : Nat) (cl : Client) (t : Nat) (h : Nat) (f : Fmt) (line off bytes bad : Nat) : Op Nat := do
  let (_, _, e) ← validEntry k (BitVec.ofNat 6 h) anyLevel
  require (decide (line < e.footprint)) .handleShape (BitVec.ofNat 64 bad)
  let (pl, v) ← readLine cl e line
  let va := elemVal e line (8 * off) bad
  if vcPoisoned (tagVc v.tag) then raise .poisonConsumed va
  if tagVc v.tag = vcUndef && (match pl with | some pl => pl.strict | none => false) then raise .undefRead va
  require (tagFmt v.tag = f.toCode && tagLxp v.tag = 127) .formatPair (v.tag.setWidth 64)
  engineTenure cl { task := t, h := h } e (cellsOfLine e line) false va
  pure (if readsZero v.tag then 0 else bytesAt v.data off bytes)

/-- The band scale of a column half (R98): the band table that the weight handle hw names. -/
def bandScale (k : Nat) (cl : Client) (t : Nat) (hw : BitVec 6) (j : Nat) : Op FNum := do
  let (_, _, e) ← validEntry k hw anyLevel
  match e.band with
  | none => raise .handleInvalid (hw.setWidth 64)
  | some hb => return decode .bf16 (← planeRead k cl t hb .bf16 (2 * j / 128) (2 * j % 128) 2 j)

/-- Whether MSTA stores into a format (R389). -/
def storable (f : Fmt) : Bool :=
  match f with
  | .f32 | .f16 | .bf16 | .e4m3 | .e5m2 | .i8 | .i16 | .i32 | .ob8 => true
  | .raw | .i64 | .ob4 | .e2m1 | .s3m5 | .se8 | .zp8 | .code => false

/-- MSTA's conversion of one finished element: its code, whether it counts in OVF, its flags. -/
def storeConv (f : Fmt) (md : RMode) (x : FNum) (zp : Int) : Nat × Bool × Flags :=
  if f.isFloat then satFloat f md x 0 else satInt f md x zp

/-- The finished value of a tile element: exact, or multiplied by its band scale and rounded once to F32. -/
def finishedElem (acc : Fmt) (md : RMode) (code : Nat) (band : Option FNum) : FNum × Flags :=
  let x := decode acc code
  match band with
  | none => (x, {})
  | some b =>
    let (p, nv) := FNum.mul x b
    let (y, f) := finish .f32 md p
    (decode .f32 y, { f with nv := f.nv || nv })

/-- The items of one run of MSTA, with the band scale and zero points they need. -/
def storeRun (t k : Nat) (cl : Client) (e : QEntry) (x : HEntry) (acc f : Fmt) (md : RMode) (part tile : Nat)
    (band : Option (BitVec 6)) (m half : Nat) (cs : List Nat) : Op (List StItem) := do
  let piece := tilePiece e.op1 m half
  let scale ← match band with
    | none => pure none
    | some hw => some <$> bandScale k cl t hw (e.op2.toNat + half)
  let s ← get
  cs.mapM fun c => do
    let el := 64 * piece + c
    let line := el * x.width / 1024
    let name := 128 * m + 64 * half + c
    require (decide (line < x.footprint)) .handleShape (BitVec.ofNat 64 name)
    let zp ← match f, x.plane with
      | .ob8, some hp => planeRead k cl t hp .zp8 (el / 32 / 128) (el / 32 % 128) 1 name
      | _, _ => pure 0
    let (v, f1) := finishedElem acc md (s.acc (coreOf k) part tile m (64 * half + c)) scale
    let (code, o, f2) := storeConv f md v zp
    pure { el := name, name := name, piece := piece, line := line, pos := el % (1024 / x.width), row := 2 * m + half,
           tag := mkTag f.toCode vcValid 127, code := code, ovf := o, flags := f1.or f2 }

/-- The items of MSTA run by run, up to the first run whose reads stop. -/
def storeRuns (run : Nat → Nat → List Nat → Op (List StItem)) :
    List (Nat × Nat × List Nat) → State → List StItem × State × Option Stop
  | [], s => ([], s, none)
  | (m, half, cs) :: rest, s =>
    match run m half cs s with
    | .ok (xs, s') => let (ys, s'', st) := storeRuns run rest s'; (xs ++ ys, s'', st)
    | .error st =>
      let el := 128 * m + 64 * half + cs.headD 0
      ([], st.state.getD s, some (match st with
        | .fault f x => .fault { f with elem := max el f.elem } x
        | .wait n x => .wait (max el n) x
        | .hold h va a n x => .hold h va a (max el n) x))

def perfMsta (h : BitVec 6) (tile : BitVec 2) (band : Option (BitVec 6)) : MPerform := fun t k e => do
  let acc ← accFmt e
  let (_, _, x) ← rowHandle k h
  let f ← match Fmt.ofCode x.fmt with
    | some f => if storable f then pure f else raise .formatPair ((mkTag x.fmt vcValid 127).setWidth 64)
    | none => raise .formatPair ((mkTag x.fmt vcValid 127).setWidth 64)
  let md ← matrixMode t
  let s ← get
  let part := partOf s k
  let cl := matrixClient s k
  -- one element at a time where an element alone may stop (a footprint's end), else a run
  let runs := (tileRuns (shapeM e.mshape) (shapeN e.mshape) e.vstart).flatMap fun (m, half, cs) => cs.map fun c => (m, half, [c])
  let (items, s', stop) := storeRuns (storeRun t k cl e x acc f md part tile.toNat band) runs s
  set s'
  storeAll (storeCheck cl { task := t, h := h.toNat } x md) (storeWrite k h cl x md) (items.length + 1) items stop

def execMsta (c : Ctl) (h : BitVec 6) (t : BitVec 2) (ra : BitVec 6) (band : Option (BitVec 6 × BitVec 6)) (o : Bool)
    (s : State) : Host.Outcome State Fault Refusal :=
  issueMatrix (.msta c h t ra band o) (some t.toNat) ra ((band.map (·.2)).getD 0) (perfMsta h t (band.map (·.1))) s

/-- MDRAIN (R391): the stream waits for the queue, then the partition's tiles read zero and the engine is free. -/
def execMdrain (c : Ctl) (s : State) : Host.Outcome State Fault Refusal :=
  issue (.mdrain c) s fun k => do
    let (t, x) ← myTask k
    if !x.mq.isEmpty then waitHere
    modify fun s => clearOwnTiles s (coreOf k) t
    pure .on

def perfMovcG (vd : BitVec 5) (tile : BitVec 2) (b : BitVec 4) : MPerform := fun _ k e => do
  let acc ← accFmt e
  let s ← get
  let part := partOf s k
  (List.range 16).forM fun r => putWhole k vd r (rowOf (resTag acc) fun c =>
    s.acc (coreOf k) part tile.toNat (16 * (b.toNat % 8) + r) (64 * (b.toNat / 8) + c))

/-- MOVC.P's conversion of an element: as MLDA's, but that under an F32 accumulator it takes no offset-binary row (R390). -/
def moveConv (acc : Fmt) (md : RMode) (t : Tag) (x : Nat) : Option (Nat × Flags) :=
  if acc = .f32 && (tagFmt t = Fmt.ob8.toCode || tagFmt t = Fmt.ob4.toCode) then none else loadConv acc md t x

/-- MOVC.P: every row is checked before the tile changes (R390). -/
def perfMovcP (tile : BitVec 2) (va : BitVec 5) (b : BitVec 4) : MPerform := fun t k e => do
  let acc ← accFmt e
  let md ← matrixMode t
  let s ← get
  let part := partOf s k
  let rows ← (List.range 16).mapM fun r => do
    let x ← getRow k va r
    notPoison va r x
    (List.range 64).mapM fun c =>
      match moveConv acc md x.tag (x.elem c) with
      | some y => pure (r, c, y)
      | none => pairFault x
  rows.flatten.forM fun y => do
    modify fun s => s.setAcc (coreOf k) part tile.toNat (16 * (b.toNat % 8) + y.1) (64 * (b.toNat / 8) + y.2.1) y.2.2.1
    orVstat k y.2.2.2

def execMovcG (c : Ctl) (vd : BitVec 5) (t : BitVec 2) (b : BitVec 4) (s : State) : Host.Outcome State Fault Refusal :=
  issueMatrix (.movcG c vd t b) (some t.toNat) 0 0 (perfMovcG vd t b) s
def execMovcP (c : Ctl) (t : BitVec 2) (va : BitVec 5) (b : BitVec 4) (s : State) : Host.Outcome State Fault Refusal :=
  issueMatrix (.movcP c t va b) (some t.toNat) 0 0 (perfMovcP t va b) s

/-- What performing a queued matrix instruction does. -/
def matrixPerform : Instr → MPerform
  | .mzero _ t => perfMzero t
  | .mma _ t va vb vsa vsb g => perfMma t va vb vsa vsb g
  | .mmag _ _ _ _ _ _ _ _ pc => perfMmag (pc.toNat + 1)
  | .mlda _ t h _ => perfMlda t h
  | .msta _ h t _ band _ => perfMsta h t (band.map (·.1))
  | .movcG _ vd t b => perfMovcG vd t b
  | .movcP _ t va b => perfMovcP t va b
  | _ => fun _ _ _ => pure ()

end Sys2Proof.Machine
end

