-- ==== Sys2Proof/Machine/Copy.lean ====
section
/-!
DEFINITION. Sys2Proof/Machine/Copy.lean: the copy engines (chapter 17): channels and transfers, the copy instructions'
checks at issue, what a beat does and how it fails, collective reductions, CWAIT and CSTAT.
-/

namespace Sys2Proof.Machine

open Sys2Proof

/-! Channels (R394 to R397). -/

def State.chan (s : State) (core ch : Nat) : Channel := vecGet {} (s.core core).chans ch
def State.modChan (s : State) (core ch : Nat) (f : Channel → Channel) : State :=
  s.modCore core fun c => { c with chans := vecMod c.chans ch f }

/-- The watermark: the least number not retired (R395). -/
def Channel.mark (c : Channel) : Channel :=
  { c with done := (c.transfers.filter fun x => x.state = .pending).foldl (fun a x => min a x.num) c.next }

/-- Forget what CSTAT no longer reports (R416). -/
def Channel.prune (c : Channel) : Channel :=
  { c with transfers := c.transfers.filter fun x => x.state = .pending || decide (c.next < x.num + 256) }

/-- Transfers in a channel's queue; those in the core's time-sorted buffer are apart (R407). -/
def Channel.queued (c : Channel) : Nat := (c.transfers.filter fun x => x.state = .pending && x.timed.isNone).length
def buffered (s : State) (core : Nat) : Nat :=
  (s.core core).chans.toList.foldl (fun a c => a + (c.transfers.filter fun x => x.state = .pending && x.timed.isSome).length) 0

/-- A transfer of a channel by its number. -/
def Channel.find (c : Channel) (n : Nat) : Option Transfer := c.transfers.find? fun x => x.num = n
def State.transfer (s : State) (core ch n : Nat) : Option Transfer := (s.chan core ch).find n
def State.modTransfer (s : State) (core ch n : Nat) (f : Transfer → Transfer) : State :=
  s.modChan core ch fun c => { c with transfers := c.transfers.map fun x => if x.num = n then f x else x }

/-- The ID of a transfer (R395), and its parts. -/
def copyId (ch n : Nat) : Word := BitVec.ofNat 64 (ch * 2 ^ 62 + n)

/-- The requester that a transfer's beats are in the directories' queues. -/
def copyWho (core ch n : Nat) : Nat := 4096 + n * 1024 + 4 * core + ch

/-- Take the channel's next number for a transfer. -/
def enqueue (s : State) (core ch : Nat) (x : Transfer) : State × Nat :=
  let n := (s.chan core ch).next
  (s.modChan core ch fun c => (({ c with next := n + 1, transfers := c.transfers ++ [{ x with num := n }] }).prune).mark, n)

/-- A transfer's end (R396): it leaves the directories' queues, and the watermark advances. -/
def retire (s : State) (core ch n : Nat) (st : TState) (cause : BitVec 8) : State :=
  let s := s.modTransfer core ch n fun x => { x with state := st, cause := cause, waits := [], reqs := [] }
  (s.modChan core ch Channel.mark).leaveQueues (copyWho core ch n)

/-- A transfer fails with a cause (R403); one that has retired stays as it is. -/
def failTransfer (s : State) (core ch n : Nat) (cause : BitVec 8) : State :=
  match s.transfer core ch n with
  | some x => if x.state = .pending then retire s core ch n .failed cause else s
  | none => s

/-! Handles of a transfer. -/

/-- A destination or source as captured at issue (R129, R130). -/
def capturePlace (core idx : Nat) (e : HEntry) : Dest := { core := core, entry := idx, kiln := kilnOf core, owner := e.owner }

/-- The redirect of a captured place's window (R244). -/
def redirectOf (s : State) (d : Dest) : Redirect := SMap.get { task := 0, h := 0 } (s.kiln d.kiln).redirect d.owner

/-- Where the tile tables hold the handle that a place captured: there, or, its window having been loaded again elsewhere in its kiln, where
its owner tag stands now (R108, R244). -/
def seatOf (s : State) (d : Dest) : Option (Nat × Nat) :=
  let is := fun (e : HEntry) => e.valid && e.owner = d.owner
  if is (s.entry d.core d.entry) then some (d.core, d.entry)
  else if (s.task (redirectOf s d).task).isSome then none
  else s.cores.findSome? fun c =>
    if kilnOf c.1 = d.kiln then (c.2.tiles.find? fun i => is i.2).map fun i => (c.1, i.1) else none

/-- The entry a captured place still names: in a tile table, or, its window being in a frame, in the frame's copy (R244);
none when it has been freed. -/
def placeEntry (s : State) (d : Dest) : Option HEntry :=
  match seatOf s d with
  | some (c, i) => some (s.entry c i)
  | none =>
    let r := redirectOf s d
    (s.task r.task).bind fun t =>
      let e := SMap.get {} t.kept r.h
      if e.valid && e.owner = d.owner then some e else none

/-- The owner recorded where a line of the place lies is the one captured (R130): in a granule; a cached tensor's lines record the handles that
bind it, of which the entry is one (R129). -/
def ownerHolds (s : State) (d : Dest) (e : HEntry) (n : Nat) : Bool :=
  match granuleOfLine d.core e n with
  | none => true
  | some g => let o := s.owner d.core g; o.kiln = d.kiln && o.owner = d.owner

/-- Change the entry a place names, wherever it is kept. -/
def modPlace (s : State) (d : Dest) (f : HEntry → HEntry) : State :=
  match seatOf s d with
  | some (c, i) => s.setEntry c i (f (s.entry c i))
  | none =>
    let r := redirectOf s d
    match s.task r.task with
    | none => s
    | some t =>
      let e := f (SMap.get {} t.kept r.h)
      let s := s.modTask r.task fun t => { t with kept := SMap.set {} t.kept r.h e }
      (agentTry (agentWrite (partClient d.core t.vd t.asn) (t.frame.toNat + 0x208 + 32 * r.h) (bytesOfNat 8 e.info.toNat)) s).1

/-- A credit to a window that lies in its task's frame (R244): added to the frame word, with what was kept before; kept and
recorded when the update faults. -/
def redirectCredit (s : State) (d : Dest) (n : Nat) : State :=
  let r := redirectOf s d
  match s.task r.task with
  | none => s
  | some t =>
    let s := s.modTask r.task fun t =>
      { t with kept := SMap.set {} t.kept r.h (let e := SMap.get {} t.kept r.h; { e with sync := creditWord e.sync n }) }
    let va := t.frame.toNat + 0x200 + 32 * r.h
    let cl := partClient d.core t.vd t.asn
    let keep := fun (s : State) (m : Nat) => s.modKiln d.kiln fun y =>
      { y with redirect := SMap.set { task := 0, h := 0 } y.redirect d.owner { r with kept := m } }
    match agentTry (do
        let w ← agentRead cl va 8
        agentWrite cl va (bytesOfNat 8 (creditWord (BitVec.ofNat 64 (wordOfBytes w)) (n + r.kept)).toNat)) s with
    | (s', .done, _) => keep s' 0
    | (s', .faulted, _) => errorRecord (keep s' (r.kept + n)) t.vd 6 0 0 t.lid (BitVec.ofNat 64 va) 0
    | (s', .waits, _) => keep s' (r.kept + n)

/-- Credit a destination with bytes written there (R401, R128). -/
def creditPlace (s : State) (d : Dest) (n : Nat) : State :=
  match seatOf s d with
  | some (c, i) => creditEntry s c i n
  | none => redirectCredit s d n

/-! Checks at issue (R397, R399). -/

/-- The channel may take a transfer: owned, and its queue not full. -/
def needChannel (k ch : Nat) : Op Unit := do
  ownsChannel k ch
  if 64 ≤ ((← get).chan (coreOf k) ch).queued then waitHere

/-- Order 2: the byte count and the two offsets. -/
def checkSizes (bytes dOff sOff : Nat) : Op Unit := do
  require (bytes % 128 = 0 && bytes ≠ 0 && decide (bytes ≤ 2 ^ 28 - 128)) .illegalOp (BitVec.ofNat 64 bytes)
  require (dOff % 128 = 0) .illegalOp (BitVec.ofNat 64 dOff)
  require (sOff % 128 = 0) .illegalOp (BitVec.ofNat 64 sOff)

/-- Order 3: a side's range within its footprint. -/
def checkRange (e : HEntry) (off bytes : Nat) : Op Unit :=
  require (decide (off + bytes ≤ 128 * e.footprint)) .handleShape (BitVec.ofNat 64 off)

/-- Orders 2 to 4 for one destination and the source. -/
def checkCopy (i j : Nat) (ed es : HEntry) (bytes : Nat) (place : Word) : Op Unit := do
  let dOff := field place 63 32
  let sOff := field place 31 0
  checkSizes bytes dOff sOff
  checkRange ed dOff bytes
  checkRange es sOff bytes
  require (!(i = j && decide (dOff < sOff + bytes) && decide (sOff < dOff + bytes))) .illegalOp place

/-- The sides that the LAYER path joins (R406). -/
def layerPair (a b : HEntry) : Bool :=
  let near := fun (e : HEntry) => e.level = lvKiln || e.level = lvPackage
  let far := fun (e : HEntry) => e.level = lvMem || e.level = lvSeq
  (near a && far b) || (far a && near b)

/-- Issue a transfer: the next number, and its ID to the OA register (R399). One without a beat has retired at once. -/
def startTransfer (k ch : Nat) (rd : BitVec 6) (x : Transfer) : Op Flow := do
  modify fun s =>
    let c := s.ctx k
    let (s, n) := enqueue s (coreOf k) ch { x with access := c.access, pc := c.pc, vd := c.vd, asn := c.asn, issued := s.ticks }
    let s := if (x.kind = .gath || x.kind = .scat) && x.lanes.isEmpty then retire s (coreOf k) ch n .retired 0 else s
    s.modCtx k fun c => c.setS rd (copyId ch n)
  pure .on

/-- CPY and CPYT (R405 to R407). -/
def copyBody (k : Nat) (rd hd hs rp rn : BitVec 6) (ch : BitVec 2) (x nc : Bool) (at_ : Option Word) : Op Flow := do
  let s ← get
  let c := s.ctx k
  let core := coreOf k
  let later := match at_ with | some t => decide (s.now < t.toNat) | none => false
  ownsChannel k ch.toNat
  if later && decide (64 ≤ buffered s core) then waitHere
  if !later && decide (64 ≤ (s.chan core ch.toNat).queued) then waitHere
  let (t, i, ed) ← validEntry k hd anyLevel
  let (_, j, es) ← validEntry k hs anyLevel
  let place := c.s rp
  let bytes := (c.s rn).toNat
  checkCopy i j ed es bytes place
  if x && !layerPair ed es then illegal k
  match at_ with
  | some t => require (decide (t.toNat < s.now + 2 ^ 32)) .illegalOp t
  | none => pure ()
  startTransfer k ch.toNat rd
    { num := 0, kind := if x then .layer else .copy, task := t, access := c.access, vd := c.vd, asn := c.asn,
      dests := [capturePlace core i ed], src := capturePlace core j es, dOff := field place 63 32, sOff := field place 31 0,
      bytes := bytes, noCredit := nc, timed := if later then at_.map BitVec.toNat else none }

def execCpy (c : Ctl) (rd hd hs rp rn : BitVec 6) (ch : BitVec 2) (nc : Bool) (s : State) : Host.Outcome State Fault Refusal :=
  issue (.cpy c rd hd hs rp rn ch nc) s fun k => copyBody k rd hd hs rp rn ch false nc none

def execCpyX (c : Ctl) (rd hd hs rp rn : BitVec 6) (ch : BitVec 2) (nc : Bool) (s : State) : Host.Outcome State Fault Refusal :=
  issue (.cpyX c rd hd hs rp rn ch nc) s fun k => copyBody k rd hd hs rp rn ch true nc none

def execCpyt (c : Ctl) (rt hd hs rp rn : BitVec 6) (ch : BitVec 2) (x nc : Bool) (s : State) :
    Host.Outcome State Fault Refusal :=
  issue (.cpyt c rt hd hs rp rn ch x nc) s fun k => do
    copyBody k rt hd hs rp rn ch x nc (some (((← get).ctx k).s rt))

/-! CMCAST (R408). -/

/-- The members of a mask, in rank order. -/
def maskRanks (m : Nat) : List Nat := (List.range 32).filter fun r => m / 2 ^ r % 2 = 1

def execCmcast (c : Ctl) (rd hd hs rp rn : BitVec 6) (ch : BitVec 2) (nc : Bool) (s : State) :
    Host.Outcome State Fault Refusal :=
  issue (.cmcast c rd hd hs rp rn ch nc) s fun k => do
    needChannel k ch.toNat
    let (t, x) ← myTask k
    let s ← get
    let c := s.ctx k
    let w := c.s rn
    let mask := field w 63 32
    if !x.cord then illegal k
    require (mask ≠ 0 && decide (mask < 2 ^ (x.cszm1 + 1))) .illegalOp w
    let place := c.s rp
    let bytes := field w 31 0
    let ms := (cordMembers s x).filter fun y => (maskRanks mask).contains y.2.rank
    let (_, j, es) ← validEntry k hs anyLevel
    let ds := (maskRanks mask).map fun r => match ms.find? fun y => y.2.rank = r with
      | some y => (y.2.core, entryIndex y.2.win hd.toNat, s.entry y.2.core (entryIndex y.2.win hd.toNat))
      | none => (0, 0, {})
    require (ds.all fun d => d.2.2.valid) .handleInvalid (hd.setWidth 64)
    checkSizes bytes (field place 63 32) (field place 31 0)
    checkRange es (field place 31 0) bytes
    ds.forM fun d => checkRange d.2.2 (field place 63 32) bytes
    ds.forM fun d => checkCopy (if d.1 = coreOf k then d.2.1 else j + 1) j d.2.2 es bytes place
    startTransfer k ch.toNat rd
      { num := 0, kind := .cmcast, task := t, access := c.access, vd := c.vd, asn := c.asn,
        dests := ds.map fun d => capturePlace d.1 d.2.1 d.2.2, src := capturePlace (coreOf k) j es,
        dOff := field place 63 32, sOff := field place 31 0, bytes := bytes, noCredit := nc }

/-! GATH and SCAT (R409 to R411). -/

/-- The vector predicate an instruction writes. -/
def vpDest : Instr → Option (BitVec 4)
  | .vcmp _ vpd _ _ _ _ _ => some vpd
  | .vpand _ vpd _ _ _ _ => some vpd
  | .vpor _ vpd _ _ _ _ => some vpd
  | .vpnot _ vpd _ _ _ => some vpd
  | _ => none

/-- An earlier entry of the stream's vector queue has still to write the indices or the predicate (R409). -/
def lanesPending (c : Ctx) (vi : BitVec 5) (vp : BitVec 4) : Bool :=
  c.vq.any fun q => match q with
    | .entry e => (vwrites e.instr).contains vi || vpDest e.instr = some vp
    | .mode _ _ => false
    | .marker _ => false

/-- The active lanes as numbers 64·r + c (R409). -/
def copyLanes (c : Ctx) (vp : BitVec 4) : List Nat :=
  (List.range 1024).filter fun l => decide (l % 64 < c.vl.toNat) && (c.vp vp).getLsbD l

/-- The width of a handle's elements, which GATH and SCAT count addresses in; none of 4 bits. -/
def laneWidth (e : HEntry) : Op Nat := do
  let w := widthOf e.fmt
  require (w ≠ 4) .formatPair ((mkTag e.fmt vcValid 127).setWidth 64)
  pure w

/-- The active lanes with their addresses, each checked (R409): rows, then alignment, then the footprint. -/
def laneAddrs (k : Nat) (e : HEntry) (base : Word) (vi : BitVec 5) (vp : BitVec 4) (kk : Nat) : Op (List (Nat × Nat)) := do
  let c := (← get).ctx k
  let w ← laneWidth e
  let ls := copyLanes c vp
  let rows ← ((ls.map fun l => l / 64).eraseDups).mapM fun r => do
    let (x, f) ← indexRow k vi r
    pure (r, x, f)
  let out := ls.map fun l => match rows.find? fun y => y.1 = l / 64 with
    | some (_, x, f) => (l, (base + ((BitVec.ofNat f.width (x.elem (l % 64))).signExtend 64) * BitVec.ofNat 64 (w / 8)).toNat)
    | none => (l, 0)
  out.forM fun y => require (y.2 % (w / 8) = 0) .illegalOp (BitVec.ofNat 64 y.2)
  out.forM fun y => require (decide (64 * kk + y.1 < 1024 / e.width * e.footprint)) .handleShape (BitVec.ofNat 64 (64 * kk + y.1))
  pure out

/-- Lanes whose address a lower-numbered active lane has too. -/
def duplicates : List (Nat × Nat) → List Nat → List Nat
  | [], _ => []
  | (l, a) :: xs, seen => if seen.contains a then l :: duplicates xs seen else duplicates xs (a :: seen)

/-- For each address, only its highest-numbered lane, which alone SCAT writes (R411). -/
def lastOnly (xs : List (Nat × Nat)) : List (Nat × Nat) :=
  xs.filter fun x => !(xs.any fun y => y.2 = x.2 && decide (x.1 < y.1))

def execGath (c : Ctl) (rd hd ra : BitVec 6) (vi : BitVec 5) (vpd : BitVec 4) (kk : BitVec 8) (ch : BitVec 2) (nc : Bool)
    (s : State) : Host.Outcome State Fault Refusal :=
  issue (.gath c rd hd ra vi vpd kk ch nc) s fun k => do
    needChannel k ch.toNat
    let c := (← get).ctx k
    if lanesPending c vi vpd then waitHere
    let (t, i, e) ← validEntry k hd anyLevel
    let ls ← laneAddrs k e (c.s ra) vi vpd kk.toNat
    let dup := (duplicates ls []).foldl (fun a l => a + 2 ^ l) 0
    modify fun s => s.modCtx k fun c => c.setVp vpd (BitVec.ofNat 1024 dup)
    startTransfer k ch.toNat rd
      { num := 0, kind := .gath, task := t, access := c.access, vd := c.vd, asn := c.asn, dests := [capturePlace (coreOf k) i e],
        bytes := widthOf e.fmt / 8, noCredit := nc, lanes := ls.map fun y => (64 * kk.toNat + y.1, y.2) }

def execScat (c : Ctl) (rd hs ra : BitVec 6) (vi : BitVec 5) (vpm : BitVec 4) (kk : BitVec 8) (ch : BitVec 2) (s : State) :
    Host.Outcome State Fault Refusal :=
  issue (.scat c rd hs ra vi vpm kk ch) s fun k => do
    needChannel k ch.toNat
    let c := (← get).ctx k
    if lanesPending c vi vpm then waitHere
    let (t, i, e) ← validEntry k hs anyLevel
    let ls ← laneAddrs k e (c.s ra) vi vpm kk.toNat
    startTransfer k ch.toNat rd
      { num := 0, kind := .scat, task := t, access := c.access, vd := c.vd, asn := c.asn, src := capturePlace (coreOf k) i e,
        noCredit := true, lanes := ls.map fun y => (64 * kk.toNat + y.1, y.2) }

/-! CRED (R412, R413). -/

/-- The group word's fields (Table 17.4). -/
def groupCount (w : Word) : Nat := field w 47 36 + 1
def groupWordOk (w : Word) : Bool :=
  field w 19 18 = 0 && field w 15 0 = 0 && decide (1 ≤ field w 47 36) && decide (field w 35 24 < groupCount w) &&
    decide (3 ≤ field w 23 20) && decide (field w 23 20 ≤ 6)

/-- The formats a reduction takes (R412). -/
def credFmt (f : BitVec 6) : Option Fmt :=
  match Fmt.ofCode f with
  | some g => if g = .f32 || g = .f16 || g = .bf16 || g = .e4m3 || g = .e5m2 || g = .i8 || g = .i16 || g = .i32 then some g else none
  | none => none

/-- Two participants agree in what R413 compares, and have ranks of their own. -/
def Participant.agrees (a b : Participant) : Bool :=
  groupCount a.word = groupCount b.word && field a.word 23 20 = field b.word 23 20 && a.op = b.op && a.root = b.root &&
    a.bytes = b.bytes && a.rank ≠ b.rank

/-- Fail an instance for every participant (R413). -/
def failCollective (s : State) (x : Collective) : State :=
  x.parts.foldl (fun s p => failTransfer s p.core p.chan p.num Cause.queueError.code) s

/-- The first of a group's instances that a task has no part in and that has not begun: the task's next ordinal. -/
def joins (task vd group : Nat) (x : Collective) : Bool :=
  x.vd = vd && x.group = group && !x.started && !(x.parts.any fun p => p.task = task)

/-- A participant enters its instance. One that disagrees fails the instance; one that comes to a failed instance fails at
once. A failed instance is kept until every participant has come. -/
def joinCollective (s : State) (vd group : Nat) (p : Participant) : State :=
  let rec go : List Collective → Option (List Collective × Collective)
    | [] => none
    | x :: xs => if joins p.task vd group x then
        let y := { x with parts := x.parts ++ [p], failed := x.failed || !(x.parts.all fun q => q.agrees p) }
        some (y :: xs, y)
      else (go xs).map fun r => (x :: r.1, r.2)
  match go s.creds with
  | none => { s with creds := s.creds ++ [{ vd := vd, group := group, parts := [p], since := s.now }] }
  | some (xs, y) =>
    let full := match y.parts with | [] => false | q :: _ => decide (groupCount q.word ≤ y.parts.length)
    let s := { s with creds := if y.failed && full then xs.filter fun z => z ≠ y else xs }
    if y.failed then failCollective s y else s

def execCred (c : Ctl) (rd hd hs rg rn : BitVec 6) (rop : BitVec 2) (root nc : Bool) (s : State) :
    Host.Outcome State Fault Refusal :=
  issue (.cred c rd hd hs rg rn rop root nc) s fun k => do
    let c := (← get).ctx k
    let g := c.s rg
    let ch := field g 17 16
    needChannel k ch
    let (t, i, ed) ← validEntry k hd anyLevel
    let (_, j, es) ← validEntry k hs anyLevel
    let bytes := (c.s rn).toNat
    checkCopy i j ed es bytes 0
    require (groupWordOk g) .illegalOp g
    if rop = 3 then illegal k
    require (credFmt ed.fmt).isSome .formatPair ((mkTag ed.fmt vcValid 127).setWidth 64)
    require (widthOf es.fmt = widthOf ed.fmt) .formatPair ((mkTag es.fmt vcValid 127).setWidth 64)
    let n := ((← get).chan (coreOf k) ch).next
    let f ← startTransfer k ch rd
      { num := 0, kind := .cred, task := t, access := c.access, vd := c.vd, asn := c.asn, dests := [capturePlace (coreOf k) i ed],
        src := capturePlace (coreOf k) j es, bytes := bytes, noCredit := nc }
    modify fun s => joinCollective s c.vd (field g 63 48)
      { task := t, rank := field g 35 24, core := coreOf k, chan := ch, num := n, word := g, bytes := bytes, op := rop.toNat,
        root := root }
    pure f

/-! CWAIT and CSTAT (R415, R416). -/

def execCwait (c : Ctl) (ra : BitVec 6) (s : State) : Host.Outcome State Fault Refusal :=
  issue (.cwait c ra) s fun k => do
    let s ← get
    let a := (s.ctx k).s ra
    let n := field a 61 0
    let x := s.chan (coreOf k) (field a 63 62)
    ownsChannel k (field a 63 62)
    require (n ≠ 0 && decide (n < x.next)) .illegalOp a
    if n < x.done then pure .on else waitHere

/-- The status word of a transfer (Table 17.5). -/
def statusWord (x : Channel) (n : Nat) : Word :=
  if n + 256 ≤ x.next then BitVec.ofNat 64 (3 * 2 ^ 62)
  else match x.find n with
    | none => BitVec.ofNat 64 (3 * 2 ^ 62)
    | some y => BitVec.ofNat 64 ((match y.state with | .pending => 0 | .retired => 1 | .failed => 2) * 2 ^ 62 +
        y.cause.toNat * 2 ^ 48 + y.credited % 2 ^ 40)

def execCstat (c : Ctl) (rd ra : BitVec 6) (s : State) : Host.Outcome State Fault Refusal :=
  issue (.cstat c rd ra) s fun k => do
    ownsChannel k (field (((← get).ctx k).s ra) 63 62)
    modify fun s =>
      let a := (s.ctx k).s ra
      s.modCtx k fun c => c.setS rd (statusWord (s.chan (coreOf k) (field a 63 62)) (field a 61 0))
    pure .on

/-! Beats (R400 to R404). -/

/-- The agent that a transfer's beats are on a core. -/
def beatClient (x : Transfer) (core ch atCore : Nat) : Client :=
  { who := copyWho core ch x.num, core := atCore, vd := x.vd, asn := x.asn, mode := some .u, task := some x.task, inline := true }

def beatHolder (x : Transfer) : Holder := { task := x.task, h := x.src.entry % 64 }

/-- The stream of a running task on which the faults of its transfer's beats are delivered: the issuing one, or the execute
stream when that one has ended. -/
def faultStream (s : State) (x : Transfer) : Option Nat :=
  (s.task x.task).bind fun t => match x.access, t.actx with
    | true, some k => some k
    | _, _ => t.xctx

/-- A watchpoint that a beat hits is recorded as a fault of the issuing stream, and the beat runs on (R480). -/
def watchBeat (x : Transfer) (op : Op Unit) : Op Unit := fun s =>
  match op s with
  | .error (.fault f _) =>
    if f.cause = .watchpoint then
      match faultStream s x with
      | some k => .ok ((), raiseFault s k { f with src := .beat, fpc := x.pc, epc := (s.ctx k).pc })
      | none => .ok ((), s)
    else .error (.fault f none)
  | r => r

/-- A captured place must still be its handle's (R130). -/
def beatEntry (d : Dest) (n : Nat) : Op HEntry := do
  let s ← get
  match placeEntry s d with
  | some e => if ownerHolds s d e n then pure e else raise .handleInvalid 0
  | none => raise .handleInvalid 0

/-- Read a source line of a transfer (Table 3.5, copy-source column). The LAYER path reads the home, past any kiln's own
copy (R406). -/
def beatRead (x : Transfer) (core ch n : Nat) : Op View := do
  let e ← beatEntry x.src n
  let cl := beatClient x core ch x.src.core
  let (pl, v) ← if x.kind = .layer then do
      match ← handlePlace cl e n .load with
      | none => pure (none, ⟨0, mkTag e.fmt vcUndef 127⟩)
      | some pl => pure (some pl, seqTag e (← reach cl pl .load))
    else readLine cl e n
  engineTenure cl (beatHolder x) e (cellsOfLine e n) false 0
  watchBeat x (watchHandle cl e pl e.width 0 (n * (1024 / e.width)) (1024 / e.width) 0)
  pure ⟨if readsZero v.tag then 0 else v.data, v.tag⟩

/-- A LAYER beat that has been written: what a near line held is kept for readers that have not fenced (R220); of a far line every
cached copy is invalid (R406). -/
def layerWrite (e : HEntry) (line : Nat) (v : View) (s : State) : State :=
  if e.level = lvMem || e.level = lvSeq then dropLines s (fun l => l = line) false
  else
    { s with coh := { s.coh with layer := { line := line, data := v.data, tag := v.tag } :: s.coh.layer.filter fun l => l.line ≠ line } }

/-- A write through a place is performed, in its kiln's own copy, at its party, or at its home: of a home that does not take it nothing is
written (R127, R177). -/
def takesWrite (s : State) (cl : Client) (e : HEntry) (pl : Place) : Bool :=
  (copyOf s cl e pl).isSome || (match pl.key with | some (.window _ _) => true | _ => false) || lands s pl.line

/-- Write one whole line of a destination (R400): saturations of a demoting page count in the destination; whether it was written. -/
def beatWrite (x : Transfer) (core ch : Nat) (d : Dest) (n : Nat) (data : BitVec 1024) (t : Tag) (o : Nat) : Op Bool := do
  let e ← beatEntry d n
  let cl := beatClient x core ch d.core
  let (pl, v) ← if x.kind = .layer then do
      match ← handlePlace cl e n .store with
      | none => raise .handleInvalid 3
      | some pl => pure (pl, seqTag e (← reach cl pl .store true))
    else openLine cl e n true
  engineTenure cl (beatHolder x) e (cellsOfLine e n) true 0
  match taggedResult v pl.pol .rne data (BitVec.allOnes 128) t with
  | .error c => raise c 0
  | .ok (y, m, t', sat) =>
    watchBeat x (watchHandle cl e (some pl) e.width 1 (n * (1024 / e.width)) (1024 / e.width) 0)
    let wrote := takesWrite (← get) cl e pl
    if x.kind = .layer then
      performWrite cl pl y m t' true
      modify fun s => layerWrite e pl.line v s
    else closeLine cl e pl v y m t'
    if o + sat ≠ 0 then modify fun s => modPlace s d fun e => e.addOvf (o + sat)
    pure wrote

/-- Read the element at an address for GATH (R410): its row tag, width and code. -/
def gathRead (x : Transfer) (cl : Client) (a : Nat) : Op (Tag × Nat) := do
  let pl ← placeAt cl a .load
  let v ← reach cl pl .load
  let w ← addrWidth v.tag
  scalarTenure cl a (w / 8) false
  watchBeat x (watch cl 0 a (a + w / 8) none)
  coherent cl pl (a % 128) (w / 8) false
  pure (rowTag v.tag, bytesAt (if readsZero v.tag then 0 else v.data) (a % 128) (w / 8))

/-- What a lane's write will do, once every lane of its beat has been checked, and whether it will be performed. -/
abbrev LaneWrite := Op Unit × Bool

/-- A line as the earlier lanes of a beat leave it. -/
def seenLine (seen : List (Nat × View)) (line : Nat) (v : View) : View := ((seen.find? fun x => x.1 = line).map (·.2)).getD v

/-- Check the write of one gathered element into its handle, a partial write (Table 14.7), over what the lanes before it leave. -/
def gathCheck (x : Transfer) (core ch : Nat) (d : Dest) (el : Nat) (t : Tag) (code : Nat) (seen : List (Nat × View)) :
    Op (LaneWrite × List (Nat × View)) := do
  let s ← get
  match placeEntry s d with
  | none => raise .handleInvalid 0
  | some e0 =>
    let n := el * e0.width / 1024
    let e ← beatEntry d n
    let cl := beatClient x core ch d.core
    let w := widthOf (tagFmt t)
    require (decide (w ≤ e.width)) .formatPair 0
    let (pl, v) ← openLine cl e n
    let v := seenLine seen pl.line v
    engineTenure cl (beatHolder x) e [cellOfElem e.shp el] true 0
    let p := el % (1024 / e.width)
    match taggedResult v pl.pol .rne (BitVec.ofNat 1024 (code * 2 ^ (w * p))) (byteMask (w * p / 8) (w / 8)) t with
    | .error c => raise c 0
    | .ok (y, m, t', sat) =>
      readyWrite cl pl 1
      let write : Op Unit := do
        watchBeat x (watchHandle cl e (some pl) w 1 el 1 p)
        closeLine cl e pl v y m t'
        if sat ≠ 0 then modify fun s => modPlace s d fun e => e.addOvf sat
      pure ((write, takesWrite (← get) cl e pl), (pl.line, ⟨mergeBytes v.data y m, t'⟩) :: seen)

/-- One lane of SCAT read from its handle: the row tag, width and code of its element (R411). -/
def scatRead (x : Transfer) (core ch el : Nat) : Op (Tag × Nat × Nat) := do
  match placeEntry (← get) x.src with
  | none => raise .handleInvalid 0
  | some e =>
    let v ← beatRead x core ch (el * e.width / 1024)
    let w ← addrWidth v.tag
    require (decide (w ≤ e.width)) .formatPair 0
    pure (rowTag v.tag, w, elemOf v.data w (el % (1024 / e.width)))

/-- The overflow flag of a transfer's issuing stream is set: where it runs, or where it is saved (R76, R94). -/
def flagOverflow (s : State) (x : Transfer) : State :=
  match faultStream s x with
  | some k => s.modCtx k fun c => c.orVstat { of := true }
  | none => s.modTask x.task fun t => { t with saved := t.saved.map fun y =>
      if y.2.access = x.access then (y.1, y.2.orVstat { of := true }) else y }

/-- Check the write of one lane of SCAT at its address, over what the lanes before it leave; the saturations of a demoting page set the
issuing stream's overflow flag. -/
def scatCheck (x : Transfer) (core ch a : Nat) (l : Tag × Nat × Nat) (seen : List (Nat × View)) : Op (LaneWrite × List (Nat × View)) := do
  let (t, w, code) := l
  let cl := beatClient x core ch core
  let pl ← placeAt cl a .store
  let o := seenLine seen pl.line (← reach cl pl .store)
  let _ ← addrWidth o.tag
  require (a % (w / 8) = 0) .illegalOp (BitVec.ofNat 64 a)
  match taggedResult o pl.pol .rne (BitVec.ofNat 1024 (code * 2 ^ (8 * (a % 128)))) (byteMask (a % 128) (w / 8)) t with
  | .error c => raise c 0
  | .ok (y, m, t', sat) =>
    scalarTenure cl a (w / 8) true
    refillByAddress cl pl o y m t'
    readyWrite cl pl 1
    let write : Op Unit := do
      watchBeat x (watch cl 1 a (a + w / 8) none)
      coherent cl pl (a % 128) (w / 8) true
      performWrite cl pl y m t' true
      if sat ≠ 0 then modify fun s => flagOverflow s x
    pure ((write, true), (pl.line, ⟨mergeBytes o.data y m, t'⟩) :: seen)

/-- The lines by address that the lanes of a GATH or SCAT lie in: one beat for each (R394). -/
def laneBeats (x : Transfer) : List Nat := ((x.lanes.map fun y => y.2 / 128).eraseDups)
def lanesOfBeat (x : Transfer) (b : Nat) : List (Nat × Nat) :=
  x.lanes.filter fun y => some (y.2 / 128) = (laneBeats x)[b]?

/-- The number of a transfer's beats (one line each), and of landings that complete it. -/
def Transfer.beats (x : Transfer) : Nat :=
  match x.kind with
  | .gath => (laneBeats x).length
  | .scat => (laneBeats x).length
  | .copy | .layer | .cmcast | .cred => x.bytes / 128
def Transfer.landings (x : Transfer) : Nat := match x.kind with | .cmcast => x.beats * x.dests.length | _ => x.beats

/-- Record a landing; the transfer retires when every beat has landed (R396). -/
def landed (s : State) (core ch n key credit : Nat) : State :=
  let s := s.modTransfer core ch n fun x =>
    { x with landed := SMap.set false x.landed key true, credited := x.credited + credit,
             waits := x.waits.filter fun w => w.beat ≠ key / 32 }
  match s.transfer core ch n with
  | some x => if x.landings ≤ x.landed.length then retire s core ch n .retired 0 else s
  | none => s

/-- A beat waits: since when it waits for this cause stands while it is the same (R69). -/
def Transfer.wait (x : Transfer) (beat : Nat) (kind : Option HoldKind) (page now : Nat) : Transfer :=
  match x.waits.find? fun w => w.beat = beat with
  | some w => if w.kind = kind && w.page = page then x
      else { x with waits := x.waits.map fun y => if y = w then { y with kind := kind, page := page, since := now } else y }
  | none => { x with waits := x.waits ++ [{ beat := beat, kind := kind, page := page, since := now }] }

/-- A beat has waited for a switch for the 4,096 cycles of R69. -/
def Transfer.overdue (x : Transfer) (beat : Nat) (h : HoldKind) (now : Nat) : Bool :=
  x.waits.any fun w => w.beat = beat && w.kind = some h && decide (w.since + 4096 ≤ now)

/-- What becomes of a beat that did not land: a wait, bounded; a page request; a held fault of a running issuer; or the
transfer's failure (R402, Table 17.3). -/
def beatStop (s : State) (core ch : Nat) (x : Transfer) (beat : Nat) (st : Stop) : State :=
  let wait := fun (s : State) (kind : Option HoldKind) (page : Nat) => s.modTransfer core ch x.num fun y => y.wait beat kind page s.now
  match st with
  | .wait _ s' => wait (s'.getD s) none 0
  | .fault f s' =>
    let s := s'.getD s
    let stage1 := f.held && (f.cause = .translation || f.cause = .permission || f.cause = .wxViolation)
    match (if stage1 then faultStream s x else none) with
    | none => failTransfer s core ch x.num f.cause.code
    | some k =>
      let s := wait s (some .handler) 0
      if (s.ctx k).faulted || (s.ctx k).hold.isSome then s
      else
        let s := raiseFault s k { f with held := true, src := .beat, fpc := x.pc, epc := (s.ctx k).pc }
        s.modCtx k fun c => { c with hold := some { kind := .handler, va := f.etval, access := .load, src := .beat,
                                                    elem := 4 * x.num + ch, since := s.now } }
  | .hold h va _ _ s' =>
    let s := s'.getD s
    match h with
    | .request kind page => wait (s.modTransfer core ch x.num fun y =>
        { y with reqs := if y.reqs.contains (kind, page) then y.reqs else (kind, page) :: y.reqs }) (some h) 0
    | .recode _ => if x.overdue beat h s.now then failTransfer s core ch x.num Cause.recodeTimeout.code else wait s (some h) 0
    | .foreign _ _ => if x.overdue beat h s.now then failTransfer s core ch x.num Cause.foreignLine.code else wait s (some h) 0
    | .walk => wait s (some h) (va.toNat / 4096)
    | .handler => wait s (some h) 0

/-- Perform an action of a beat; `none` when it stopped, with what that leaves. -/
def tryBeat {α : Type} (s : State) (core ch : Nat) (x : Transfer) (beat : Nat) (op : Op α) : State × Option α :=
  match op s with
  | .ok (a, s') => (s', some a)
  | .error st => (beatStop s core ch x beat st, none)

/-- The destinations of a beat, in order: each is written and credited; the first that stops ends the beat's attempt. -/
def landDests (core ch : Nat) (x : Transfer) (beat : Nat) (v : View) : List (Dest × Nat) → State → State
  | [], s => s
  | (d, j) :: ds, s =>
    let key := 32 * beat + j
    if SMap.get false x.landed key then landDests core ch x beat v ds s
    else
      match tryBeat s core ch x beat (beatWrite x core ch d (x.dOff / 128 + beat) v.data v.tag 0) with
      | (s', none) => s'
      | (s', some wrote) =>
        let credit := if x.noCredit || !wrote then 0 else 128
        landDests core ch x beat v ds (landed (if credit = 0 then s' else creditPlace s' d credit) core ch x.num key credit)

/-- The source line of a beat, read once (R408): as it was read when the beat first came to its destinations. -/
def sourceLine (core ch : Nat) (x : Transfer) (beat : Nat) : Op View :=
  match x.held.find? fun y => y.1 = beat with
  | some y => pure ⟨y.2.1, y.2.2⟩
  | none => do
    let v ← beatRead x core ch (x.sOff / 128 + beat)
    if x.kind = .cmcast then modify fun s => s.modTransfer core ch x.num fun y => { y with held := (beat, v.data, v.tag) :: y.held }
    pure v

/-- A beat of CPY, CPYT or CMCAST: one line. A line that has come to every destination is held no longer. -/
def lineBeat (s : State) (core ch : Nat) (x : Transfer) (beat : Nat) : State :=
  match tryBeat s core ch x beat (sourceLine core ch x beat) with
  | (s', none) => s'
  | (s', some v) =>
    (landDests core ch x beat v x.dests.zipIdx s').modTransfer core ch x.num fun y =>
      if (List.range y.dests.length).all fun j => SMap.get false y.landed (32 * beat + j) then { y with held := y.held.filter fun z => z.1 ≠ beat } else y

/-- The lanes of a beat checked in order, each over what those before it leave. -/
def checkLanes {α : Type} (chk : α → List (Nat × View) → Op (LaneWrite × List (Nat × View))) : List α → List (Nat × View) → Op (List LaneWrite)
  | [], _ => pure []
  | y :: ys, seen => do
    let (w, seen) ← chk y seen
    return w :: (← checkLanes chk ys seen)

/-- The elements of a beat's lanes read, and their writes checked: of duplicates a GATH loads one (R410), and a SCAT writes the last (R411). -/
def laneWrites (core ch : Nat) (x : Transfer) (beat : Nat) : Op (List LaneWrite) := do
  let ls := lanesOfBeat x beat
  match x.kind, x.dests with
  | .gath, d :: _ =>
    let vs ← ((ls.map (·.2)).eraseDups).mapM fun a => do return (a, ← gathRead x (beatClient x core ch core) a)
    checkLanes (fun y seen => match vs.find? fun v => v.1 = y.2 with
      | some v => gathCheck x core ch d y.1 v.2.1 v.2.2 seen
      | none => pure ((pure (), false), seen)) ls []
  | _, _ =>
    let vs ← ls.mapM fun y => do return (y, ← scatRead x core ch y.1)
    checkLanes (fun y seen => scatCheck x core ch y.1.2 y.2 seen) (vs.filter fun v => (lastOnly ls).contains v.1) []

/-- A beat of GATH or SCAT: the lanes of one line. One that fails or waits has written nothing (R403). -/
def laneBeat (s : State) (core ch : Nat) (x : Transfer) (beat : Nat) : State :=
  match tryBeat s core ch x beat (laneWrites core ch x beat) with
  | (s', none) => s'
  | (s', some ws) =>
    match ws.forM (fun w => w.1) s' with
    | .error st => beatStop s' core ch x beat (match st with | .fault f _ => .fault f none | .wait el _ => .wait el none | .hold h va a el _ => .hold h va a el none)
    | .ok (_, s') =>
      let n := if x.noCredit then 0 else x.bytes * (ws.filter fun w => w.2).length
      let s' := match x.dests with | d :: _ => if n = 0 then s' else creditPlace s' d n | [] => s'
      landed s' core ch x.num (32 * beat) n

/-! Collectives. -/

/-- The instance a transfer takes part in. -/
def collectiveOf (s : State) (core ch n : Nat) : Option Collective :=
  s.creds.find? fun x => x.started && x.parts.any fun p => p.core = core && p.chan = ch && p.num = n

/-- A source line that a reduction may read (R412, R413): of the result's element width, and, as for any arithmetic (R58, R82, R104,
R105), of an arithmetic format, with LXP 127 unless a float. -/
def credSource (t : Tag) (w : Nat) : Bool :=
  match Fmt.ofCode (tagFmt t) with
  | none => false
  | some f => f.isArith && f.width = w && (f.isFloat || tagLxp t = 127)

/-- One participant's line: none for POISON, which a withdrawn or failed participant supplies (R414). -/
def contribution (s : State) (p : Participant) (w beat : Nat) : Op (Option View) := do
  match s.transfer p.core p.chan p.num with
  | none => pure none
  | some x =>
    if p.withdrawn || x.state = .failed then pure none
    else
      let v ← beatRead x p.core p.chan beat
      require (credSource v.tag w) .formatPair 0
      pure (if vcPoisoned (tagVc v.tag) then none else some v)

/-- The result line of an instance (R413): its data, tag, and count of saturations. -/
def reduceLine (f : Fmt) (op : Nat) (vs : List (Option View)) : BitVec 1024 × Tag × Nat :=
  if vs.any Option.isNone then (0, mkTag f.toCode vcPoison 127, 0)
  else
    let elem := fun (i : Nat) (v : View) => match Fmt.ofCode (tagFmt v.tag) with
      | some g => readElem g (tagLxp v.tag) (elemOf v.data g.width i)
      | none => .fin false 0 0
    let ys := (List.range (1024 / f.width)).map fun i =>
      let xs := (vs.filterMap id).map (elem i)
      let y := if op = 0 then (sumNums .rne xs).1 else (pickNums (op = 1) xs).1
      satTo f .rne 127 y
    (BitVec.ofNat 1024 (ys.foldr (fun y a => a * 2 ^ f.width + y.1) 0), mkTag f.toCode vcValid 127, (ys.filter fun y => y.2.1).length)

/-- The participants that still wait for this line's result, those the result is written to first. -/
def credTargets (s : State) (x : Collective) (beat : Nat) : List (Participant × Transfer) :=
  x.parts.filterMap fun p => match s.transfer p.core p.chan p.num with
    | some t => if t.state = .pending && !SMap.get false t.landed (32 * beat) then some (p, t) else none
    | none => none

/-- Write the result to each participant that takes it, and count the line as landed for the others (R414). -/
def landResults (beat : Nat) (data : BitVec 1024) (t : Tag) (o : Nat) : List (Participant × Transfer) → State → State
  | [], s => s
  | (p, x) :: ps, s =>
    if p.root && p.rank ≠ 0 then landResults beat data t o ps (landed s p.core p.chan p.num (32 * beat) 0)
    else match x.dests with
      | [] => landResults beat data t o ps s
      | d :: _ =>
        match tryBeat s p.core p.chan x beat (beatWrite x p.core p.chan d beat data t o) with
        | (s', none) => landResults beat data t o ps s'
        | (s', some wrote) =>
          let credit := if x.noCredit || !wrote then 0 else 128
          landResults beat data t o ps
            (landed (if credit = 0 then s' else creditPlace s' d credit) p.core p.chan p.num (32 * beat) credit)

/-- Read every participant's line; a participant whose line cannot be read fails alone. -/
def gatherParts (w beat : Nat) : List Participant → State → Except (Participant × Stop) (List (Option View) × State)
  | [], s => .ok ([], s)
  | p :: ps, s =>
    match contribution s p w beat s with
    | .error st => .error (p, st)
    | .ok (v, s') => (gatherParts w beat ps s').map fun r => (v :: r.1, r.2)

/-- A beat of an instance: one line, read from every participant and written to each that takes the result. The instance
is forgotten when every transfer has retired. -/
def credBeat (s : State) (core ch : Nat) (x : Transfer) (beat : Nat) : State :=
  match collectiveOf s core ch x.num, x.dests with
  | some c, d :: _ =>
    match placeEntry s d with
    | none => failTransfer s core ch x.num Cause.handleInvalid.code
    | some e =>
      match credFmt e.fmt with
      | none => failTransfer s core ch x.num Cause.formatPair.code
      | some f =>
        match gatherParts f.width beat c.parts s with
        | .error (p, st) =>
          match s.transfer p.core p.chan p.num with
          | some y => beatStop s p.core p.chan y beat st
          | none => s
        | .ok (vs, s') =>
          let (data, t, o) := reduceLine f ((c.parts.headD ⟨0, 0, 0, 0, 0, 0, 0, 0, false, false⟩).op) vs
          let s' := landResults beat data t o (credTargets s' c beat) s'
          if c.parts.all fun p => match s'.transfer p.core p.chan p.num with | some y => y.state ≠ .pending | none => true then
            { s' with creds := s'.creds.filter fun y => y ≠ c }
          else s'
  | _, _ => s

/-- A transfer's beats may be in flight: they are, or fewer than four other transfers of its channel have any (R394). -/
def mayFly (s : State) (core ch : Nat) (x : Transfer) : Bool :=
  x.begun || decide (((s.chan core ch).transfers.filter fun y => y.begun && y.state = .pending).length < 4)

/-- A transfer has a beat that has not departed yet. -/
def Transfer.waiting (x : Transfer) : Bool :=
  let gone : List Nat := (x.landed.map fun y => y.1 / 32) ++ x.waits.map fun w => w.beat
  decide (gone.eraseDups.length < x.beats)

/-- A channel's context has a beat to send. -/
def hasBeat (s : State) (core ch : Nat) : Bool :=
  (s.chan core ch).transfers.any fun x => x.state = .pending && x.timed.isNone && x.kind ≠ .cred && mayFly s core ch x && x.waiting

/-- A channel's weight, from the record whose partition owns it (Table 20.8). -/
def channelWeight (s : State) (core ch : Nat) : Nat :=
  let c := s.core core
  max 1 (field (if bit c.part1A 0 && bit c.part1A (23 + ch) then c.part1B else c.part0B) (4 * ch + 19) (4 * ch + 16))

/-- The engine's next beat, by deficit round robin over the four contexts (R394): the state with the arbiter past it, when it is the turn of
channel ch. The channel served last goes on while its deficit lasts. -/
def takeTurnOf (s : State) (core ch : Nat) : Option State :=
  let x := s.core core
  let es := (List.range 4).filter fun j => hasBeat s core j
  let d0 := x.copyDeficit.mapIdx fun j d => if es.contains j then d else 0
  let d := if es.any fun j => decide (1 ≤ vecGet 0 d0 j) then d0
    else d0.mapIdx fun j d => if es.contains j then d + channelWeight s core j else d
  match ((List.range 4).map fun i => (x.copyLast + i) % 4).find? fun j => es.contains j && decide (1 ≤ vecGet 0 d j) with
  | some j => if j = ch then some (s.modCore core fun x => { x with copyDeficit := vecMod d j (· - 1), copyLast := j }) else none
  | none => none

/-- A beat may be attempted: it has departed and waits, or belongs to a collective engine, whose contexts R394 gives no weights (log entry 60,
DESIGN CHOICE); or it is its channel's turn. -/
def beatGoes (s : State) (core ch : Nat) (x : Transfer) (beat : Nat) : Option State :=
  if x.kind = .cred || x.waits.any (fun w => w.beat = beat) then some s else takeTurnOf s core ch

/-- COPY_BEAT (R400): a beat of a transfer that has entered its channel is attempted. -/
def execCopyBeat (core ch n beat : Nat) (s : State) : Host.Outcome State Fault Refusal :=
  match s.transfer core ch n with
  | none => .next s
  | some x =>
    let waits := match faultStream s x with | some k => (s.ctx k).hold.any fun h => h.src = .beat && h.elem = 4 * n + ch | none => false
    let all := match x.kind with
      | .gath | .scat | .cred => SMap.get false x.landed (32 * beat)
      | .copy | .layer | .cmcast => (List.range x.dests.length).all fun j => SMap.get false x.landed (32 * beat + j)
    if x.state ≠ .pending || x.timed.isSome || x.beats ≤ beat || waits || !mayFly s core ch x || all then .next s
    else match beatGoes s core ch x beat with
      | none => .next s
      | some s =>
        let s := s.modTransfer core ch n fun y => { y with begun := true }
        let x := { x with begun := true }
        match x.kind with
        | .gath | .scat => .next (laneBeat s core ch x beat)
        | .cred => .next (credBeat s core ch x beat)
        | .copy | .layer | .cmcast => .next (lineBeat s core ch x beat)

/-- CPYT_RELEASE (R407): the first buffered transfer of a core whose time has come, of equal times the one issued first, enters its channel, if
that has room. -/
def execCpytRelease (core : Nat) (s : State) : Host.Outcome State Fault Refusal :=
  let due := (List.range 4).flatMap fun ch => ((s.chan core ch).transfers.filterMap fun x =>
    match x.timed with
    | some t => if x.state = .pending && decide (t ≤ s.now) && decide ((s.chan core ch).queued < 64) then some (t, x.issued, ch, x.num) else none
    | none => none)
  match due.foldl (fun (b : Option (Nat × Nat × Nat × Nat)) y => match b with
      | none => some y
      | some z => if y.1 < z.1 || (y.1 = z.1 && decide (y.2.1 < z.2.1)) then some y else some z) none with
  | none => .next s
  | some (_, _, ch, n) => .next (s.modTransfer core ch n fun x => { x with timed := none })

/-- Every rank of an instance has issued. -/
def Collective.complete (x : Collective) : Bool :=
  match x.parts with | [] => false | p :: _ => decide (groupCount p.word ≤ x.parts.length)

/-- A participant lies within SCOPE as seen from rank 0 (R413). -/
def inScope (s : State) (a b : Participant) : Bool :=
  let cord := match s.task a.task with | some x => x.cordKept | none => []
  match field a.word 23 20 with
  | 3 => coreInScope cord false a.core b.core
  | 4 => coreInScope cord true a.core b.core
  | _ => true

def Collective.kilns (x : Collective) : List Nat := (x.parts.map fun p => kilnOf p.core).eraseDups

/-- Contexts in use in a kiln's collective engine (R394, R413). -/
def contextsBusy (s : State) (kiln : Nat) : Nat := (s.creds.filter fun x => x.started && x.kilns.contains kiln).length

/-- CRED_INSTANCE_START (R413): the group's first complete instance begins, once its kilns' engines have contexts free and
no earlier complete instance waits for one of them; one with a participant outside SCOPE fails. -/
def execCredInstanceStart (vd group : Nat) (s : State) : Host.Outcome State Fault Refusal :=
  let ready := s.creds.filter fun x => !x.started && !x.failed && x.complete
  match ready.find? fun x => x.vd = vd && x.group = group with
  | none => .next s
  | some x =>
    let earlier := ready.takeWhile fun y => y ≠ x
    let outside := match x.parts.find? fun p => p.rank = 0 with
      | none => true
      | some p => x.parts.any fun q => !inScope s p q
    if outside then .next (failCollective { s with creds := s.creds.filter fun y => y ≠ x } x)
    else if x.kilns.any fun k => decide (16 ≤ contextsBusy s k) || earlier.any fun y => y.kilns.contains k then .next s
    else .next { s with creds := s.creds.map fun y => if y = x then { y with started := true } else y }

/-- CRED_TIMEOUT (R413): an instance incomplete 2^26 cycles after its first issue fails; it is kept for those who come
later. -/
def execCredTimeout (vd group : Nat) (s : State) : Host.Outcome State Fault Refusal :=
  match s.creds.find? fun x => x.vd = vd && x.group = group && !x.started && !x.failed && !x.complete && decide (x.since + 2 ^ 26 ≤ s.now) with
  | none => .next s
  | some x => .next (failCollective { s with creds := s.creds.map fun y => if y = x then { y with failed := true } else y } x)

end Sys2Proof.Machine
end

