-- ==== Sys2Proof/Machine/Launch.lean ====
section
/-!
DEFINITION. Sys2Proof/Machine/Launch.lean: nodes and tasks as the launch unit and the flues count them (R229, R450, R457), the
end of a task, discarding one (R432), double faults (R422), and the store apertures (R42, R43).
-/

namespace Sys2Proof.Machine

open Sys2Proof

/-! Nodes. -/

/-- Stokers that a VD's applied partition records hold, by core and by kiln (R469). -/
def recordStokers (a : Word) (vd : Nat) : Nat :=
  if bit a 0 && field a 6 1 = vd then ((List.range 4).filter fun j => bit a (19 + j)).length else 0
def coreStokers (s : State) (vd core : Nat) : Nat := recordStokers (s.core core).part0A vd + recordStokers (s.core core).part1A vd
def kilnStokers (s : State) (vd kiln : Nat) : Nat :=
  (List.range 24).foldl (fun a j => a + coreStokers s vd (24 * kiln + j)) 0

/-- A node that is dispatched as gangs: a cord node, a KILN node, a PACKAGE node (R454). -/
def Node.cords (n : Node) : Bool := decide (0 < n.csize)
def Node.whole (n : Node) : Bool := n.cords || n.bar = 2

/-- The runs of b indices from a base: one for each kiln in which the VD holds stokers, in proportion to them; a cord node's
and a KILN node's are left to no kiln (8) until the gang is placed (R450). -/
def divide (s : State) (vd : Nat) (n : Node) (base b : Nat) (arg : Word) : List (Nat × Nat × Nat × Word) :=
  if b = 0 then []
  else if n.whole then [(8, base, base + b, arg)]
  else
    let cs := (List.range 8).map fun k => (k, kilnStokers s vd k)
    let total := cs.foldl (fun a c => a + c.2) 0
    if total = 0 then [(0, base, base + b, arg)]
    else (cs.foldl (fun (a : Nat × List (Nat × Nat × Nat × Word)) c =>
      let upto := a.1 + c.2
      let lo := base + b * a.1 / total
      let hi := base + b * upto / total
      (upto, if lo < hi then a.2 ++ [(c.1, lo, hi, arg)] else a.2)) (0, [])).2

/-- A node becomes ready (R229): its tasks are to be made; without any it is complete. -/
def Node.makeReady (n : Node) (runs : List (Nat × Nat × Nat × Word)) : Node :=
  { n with ready := true, runs := runs, unfinished := n.count, next := n.count, complete := decide (n.count = 0) }

/-- Lower the counts of a list of nodes by one each; one found at 0 is not lowered and sets GU; nodes that become ready
without tasks complete and lower their successors in turn (R229, R449). -/
def lowerDeps (runs : Node → List (Nat × Nat × Nat × Word)) : Nat → List Nat → Launch → Launch
  | 0, _, l => l
  | _ + 1, [], l => l
  | fuel + 1, j :: js, l =>
    match l.nodes[j]? with
    | none => lowerDeps runs fuel js l
    | some n =>
      if n.deps = 0 then lowerDeps runs fuel js { l with gu := true }
      else
        let n' := { n with deps := n.deps - 1 }
        if n'.deps = 0 then
          lowerDeps runs fuel (if n'.count = 0 then js ++ n'.succ else js) { l with nodes := l.nodes.set j (n'.makeReady (runs n')) }
        else lowerDeps runs fuel js { l with nodes := l.nodes.set j n' }

/-- Every decrement that a launch's edges can make, and those asked for. -/
def depsFuel (l : Launch) (js : List Nat) : Nat := l.nodes.foldl (fun a n => a + n.succ.length) (js.length + 1)

def State.lower (s : State) (l : Nat) (js : List Nat) : State :=
  s.modLaunch l fun x => lowerDeps (fun n => divide s x.vd n 0 n.count 0) (depsFuel x js) js x

/-- A node completes when nothing of it is unfinished; its successors fall (R457). -/
def completeNode (s : State) (l j : Nat) : State :=
  match (s.launch l).bind fun x => x.nodes[j]? with
  | none => s
  | some n =>
    if n.ready && !n.complete && n.unfinished = 0 then
      (setNode s l j { n with complete := true }).lower l n.succ
    else s

/-- A task of a node has ended: the node counts it, its barrier counts it as arrived (R249), and the node may complete. -/
def countEnd (s : State) (l j index : Nat) (discarded : Bool) : State :=
  let s := if discarded then s.modLaunch l fun x => { x with ds := true } else s
  match (s.launch l).bind fun x => x.nodes[j]? with
  | none => s
  | some n =>
    let n := { n with unfinished := n.unfinished - 1, ended := index :: n.ended, dropped := if discarded then index :: n.dropped else n.dropped }
    let (g, size) := if n.bar = 1 then (index / n.csize, n.csize) else (0, n.count)
    let n := if n.bar = 0 then n else releaseBarrier n g size
    completeNode (setNode s l j n) l j

/-! Ending a task. -/

/-- The streams of a task. -/
def Task.streams (x : Task) : List Nat := x.xctx.toList ++ x.actx.toList

/-- Free every handle of a task in ascending order (R167), in the window it has, if it has one, or in its frame. -/
def freeHandles (s : State) (t : Nat) (x : Task) : State :=
  let s := (List.range 64).foldl (fun s h =>
    if x.seated && !x.wspill then freeHandle s x.core (entryIndex x.win h) x.vd x.asn { task := t, h := h } else s) s
  clearRedirects (x.kept.foldl (fun s e => freeEntry s x.core x.vd x.asn e.2 { task := t, h := e.1 }) s) t

/-- A task's end (R457): its handles freed, its energy returned, its tiles zero, its stokers free, its CR written, its node
counted. While its CR's line is being switched the write is due still, and the task stands ended until it has been made (R233). -/
def endTask (s : State) (t : Nat) (x : Task) (st : Status) : State :=
  let s := leaveAll (freeHandles s t x) t x.streams
  let s := returnEbud (clearOwnTiles s x.core t) t
  let s := x.streams.foldl (fun s k => s.setCtx k {}) s
  let s := s.modKiln x.kiln fun y => { y with ready := y.ready.filter fun j => j ≠ t }
  let x' := { x with status := st, reason := .none, apc := if st = .done then 0 else x.apc, ebud := 0 }
  match flueCr s x' with
  | (s, .waits) => s.setTask t (some { x' with xctx := none, actx := none, boot := none, kept := [], saved := [], crDue := true })
  | (s, .done) | (s, .faulted) => countEnd (s.setTask t none) x.launch x.node x.index (st = .discarded)

/-- Every unretired transfer a task has issued is cancelled (R432, Table 17.3). -/
def cancelTransfers (s : State) (core t : Nat) : State :=
  (List.range 4).foldl (fun s ch =>
    (s.chan core ch).transfers.foldl (fun s x => if x.task = t && x.state = .pending then failTransfer s core ch x.num 0 else s) s) s

/-- Discard a task (R432): both streams stop, their queues and faults are dropped, its transfers are cancelled, its handles
are freed. A handler that serves it ends. -/
def discardTask (s : State) (t : Nat) : State :=
  match s.task t with
  | none => s
  | some x =>
    let mine := fun (w : Waiting) => x.streams.contains w.ctx
    let s := s.modCore x.core fun c => { c with faults := c.faults.filter fun w => !mine w }
    let s := if (s.core x.core).serving.any mine then
        (s.modCore x.core fun c => { c with serving := none,
                                            faults := c.faults.filter fun w => w.ctx ≠ shadowOf x.core }).setCtx (shadowOf x.core) {}
      else s
    endTask (cancelTransfers s x.core t) t x .discarded

/-- A double fault (R422): the faulting task is discarded, and the original fault is recorded and signalled. -/
def doubleFault (s : State) (w : Waiting) : State :=
  let c := s.ctx w.ctx
  let lid := match c.task.bind s.task with | some x => x.lid | none => 0
  let s := match c.task with | some t => discardTask s t | none => s.setCtx w.ctx {}
  errorRecord s c.vd 3 0 w.info.cause.code.toNat lid w.info.etval w.info.epc

/-! Store apertures (R42, R43). -/

/-- The first granule of the aperture's GPA range, and of its sequence-store share. -/
def apertureBase : Nat := 0xF000000000000
def seqAperture : Nat := 0xF010000000000

/-- The leaves of a stage-2 table page from an address of guest-physical space on, entry by entry: the guest-physical address, the
host-physical address and the size of what an entry of level n maps; `base`, where the page's range begins. What the reads meet of
errors stays. -/
def s2Leaves (vd lo base table : Nat) : Nat → StateM State (List (Nat × Nat × Nat))
  | 0 => pure []
  | n + 1 => do
    let found ← (List.range (if n = 3 then 16 else 512)).mapM fun i => do
      let bytes := 2 ^ (12 + 9 * (n + 1))
      let gpa := base + i * bytes
      if gpa + bytes ≤ lo then pure []
      else
        let (r, s) := (s2Entry vd gpa (table + 8 * i)).on (← get)
        set s
        match r with
        | .error _ => pure []
        | .ok e =>
          let oa := field e 51 12 * 4096
          if !bit e 0 then pure []
          else if !bit e 1 && !bit e 2 && !bit e 3 then s2Leaves vd lo gpa oa n
          else if n + 1 > 2 then pure []
          else match pageSize (n + 1) (field e 11 9) with
            | none => pure []
            | some size => pure (if oa % size ≠ 0 then [] else [(gpa, oa + gpa % size, bytes)])
    pure found.flatten

/-- The 2 MiB granules of guest-physical space that a VD's stage 2 maps from an address on, with where they lie. -/
def s2Granules (s : State) (vd lo : Nat) : List (Nat × Nat) × State :=
  let root := (s.vd vd).s2root
  if !bit root 0 then ([], s)
  else
    let (ls, s) := (s2Leaves vd lo 0 (field root 51 12 * 4096) 4).run s
    (ls.flatMap fun l => (List.range (l.2.2 / 2 ^ 21)).map fun j => (l.1 + j * 2 ^ 21, l.2.1 + j * 2 ^ 21), s)

/-- Each line of a page is written once (R189): the page's minor counters after it, and how often the page rolled over. -/
def advancePage (minor : SMap Nat) (page : Nat) : SMap Nat × Nat :=
  (List.range 32).foldl (fun (m, n) j =>
    let c := SMap.get 0 m (32 * page + j)
    if c < 127 then (SMap.set 0 m (32 * page + j) (c + 1), n) else ([], n + 1)) (minor.filter fun x => x.1 / 32 = page, 0)

/-- Each line of the 512 pages from one on is written once (R189): the minor and the major counters after it. -/
def advancePages (minor major : SMap Nat) (first : Nat) : SMap Nat × SMap Nat :=
  let own := minor.filter fun x => decide (32 * first ≤ x.1) && decide (x.1 < 32 * (first + 512))
  let pages := (List.range 512).map fun j => (first + j, advancePage own (first + j))
  ((minor.filter fun x => decide (x.1 < 32 * first)) ++ (pages.flatMap fun p => p.2.1) ++ (minor.filter fun x => decide (32 * (first + 512) ≤ x.1)),
   pages.foldl (fun m p => SMap.set 0 m p.1 (SMap.get 0 m p.1 + p.2.2)) major)

/-- Each line of a granule is written once: the counters of its tree's nodes after it (R191). -/
def advanceTree (tree : SMap Nat) (g : Nat) : SMap Nat :=
  let first := treeKey g 0 0
  let own := tree.filter fun x => decide (first ≤ x.1) && decide (x.1 < first + 584)
  let grown := (List.range 584).map fun k => (first + k, (SMap.get 0 own (first + k) + (if k < 8 then 2048 else if k < 72 then 256 else 32)) % 2 ^ 56)
  (tree.filter fun x => decide (x.1 < first)) ++ (grown.filter fun x => x.2 ≠ 0) ++ (tree.filter fun x => decide (first + 584 ≤ x.1))

/-- A granule is assigned to another owner (R182): its lines switch to [RAW, UNDEF, 127] under the new owner's key, their
counters and tree advance (R189, R191), no copy of them is left on the die, and watches on them fire. -/
def assignGranule (s : State) (g owner : Nat) : State :=
  let inside := fun (line : Nat) => decide (line / 16384 = g)
  let s := s.setGranule g { s.granule g with owner := owner, wk := false, win := 0, rk := false, rdir := false, prog := 0,
                                             gen := (s.vd owner).keyGen, root := (s.granule g).root + 16384 }
  let s := forgetLayer (dropLines s inside true) inside
  let bump := advancePages s.hbm.minor s.hbm.major (512 * g)
  let fire := fun (m : Option Monitor) => m.map fun (m : Monitor) => if inside m.line then { m with fired := true } else m
  { s with mem := s.mem.filter fun x => !inside (x.1 / 128), tags := s.tags.filter fun x => !inside x.1,
           hbm := { s.hbm with minor := bump.1, major := bump.2, tree := advanceTree s.hbm.tree g, errors := s.hbm.errors.filter fun x => !inside x.1, poison := s.hbm.poison.filter fun l => !inside l,
                               marked := s.hbm.marked.filter fun x => !inside x.1 },
           ctxs := s.ctxs.map fun x => (x.1, { x.2 with monitor := fire x.2.monitor }),
           tasks := s.tasks.map fun x => (x.1, x.2.map fun t =>
             { t with monitor := fire t.monitor, saved := t.saved.map fun y => (y.1, { y.2 with monitor := fire y.2.monitor }) }) }

/-- The part reads a VD's aperture mappings: kiln-store granules of each kiln's share, and granules of the sequence-store
backing region. A granule that another VD has already is left out; a region granule that it takes is assigned to it, and one
that it no longer maps, to the physical function (R41). -/
def readAperture (s : State) (vd : Nat) : State :=
  let taken := fun (p : Nat × Nat → Bool) => s.vds.any fun v => v.1 ≠ vd && v.2.aperture.any p
  let (all, s) := s2Granules s vd apertureBase
  let near := all.filterMap fun x =>
    let j := (x.1 - apertureBase) / 2 ^ 21
    match region x.2 with
    | .kilnStore k =>
      let g := (x.2 - kilnBase k) / 2 ^ 21 + 1
      if j < 2048 && k = j / 256 && !taken (fun x => decide (x.1 < 4096) && decide (x.1 / 256 = k) && x.2 = g) then some (j, g) else none
    | _ => none
  let far := if field s.pkg.sqrange 63 32 = 0 then [] else all.filterMap fun x =>
    let h := normalise s x.2
    if seqAperture ≤ x.1 && inSqRange s h && !taken (fun x => decide (4096 ≤ x.1) && x.2 = h / 2 ^ 21 + 1) then
      some (4096 + (x.1 - seqAperture) / 2 ^ 21, h / 2 ^ 21 + 1) else none
  let old := (s.vd vd).aperture.filter fun x => decide (4096 ≤ x.1)
  let gone := old.filter fun x => !(far.any fun y => y.2 = x.2)
  let fresh := far.filter fun x => !(old.any fun y => y.2 = x.2)
  let s := gone.foldl (fun s x => assignGranule s (x.2 - 1) 64) s
  let s := fresh.foldl (fun s x => assignGranule s (x.2 - 1) vd) s
  s.modVd vd fun v => { v with aperture := near ++ far }

end Sys2Proof.Machine
end

