-- ==== Sys2Proof/Machine/System.lean ====
section
/-!
DEFINITION. Sys2Proof/Machine/System.lean: group 111 (chapter 18): control and status registers, traps, the return from a
handler, spawning and graph signals, TLB invalidation, snapshots, energy, keys.
-/

namespace Sys2Proof.Machine

open Sys2Proof

/-! Control and status registers (R254, R255, R421, R430). -/

/-- The stream whose registers a CSR number names: in S mode the faulting stream for those of R421, else the stream's own. -/
def csrStream (s : State) (k n : Nat) : Nat :=
  let named := decide (n < 0x10) || n = 0x11 || n = 0x12 || n = 0x15 || n = 0x16 || decide (0x18 ≤ n ∧ n ≤ 0x1B)
  if (s.ctx k).mode = .s && named then
    match (s.core (coreOf k)).serving with
    | some w => w.ctx
    | none => k
  else k

/-- The task of a stream. -/
def taskOf (s : State) (k : Nat) : Option Task := (s.ctx k).task.bind s.task

/-- The value a CSR reads. -/
def csrValue (s : State) (k n : Nat) : Word :=
  let j := csrStream s k n
  let c := s.ctx j
  let x := taskOf s j
  let ofTask := fun (f : Task → Nat) => BitVec.ofNat 64 (match x with | some x => f x | none => 0)
  match n with
  | 0x000 => c.vl
  | 0x001 => c.vstart
  | 0x002 => c.vdirty
  | 0x003 => c.vstat
  | 0x004 => c.mshape
  | 0x005 => c.fpmode
  | 0x008 => c.smpc
  | 0x009 => c.smprev
  | 0x00A => c.smcnt
  | 0x010 => BitVec.ofNat 64 s.now
  | 0x011 => ofTask fun x => x.index % 2 ^ 24
  | 0x012 => ofTask fun x => x.lid % 2 ^ 32
  | 0x013 => BitVec.ofNat 64 (coreOf k)
  | 0x014 => BitVec.ofNat 64 (kilnOf (coreOf k))
  | 0x015 => ofTask fun x => 64 * x.win
  | 0x016 => ofTask fun x => x.ebud
  | 0x100 => (s.ctx k).cause
  | 0x101 => (s.ctx k).epc
  | 0x102 => (s.ctx k).etval
  | _ => BitVec.ofNat 64 (s.chan (coreOf k) (n - 0x18)).done

/-- vstat and vdirty are read and written in U mode only once the stream's earlier queue entries have completed (R255). A handler's access
to the faulting stream's waits for nothing (R421 has its reads do so; for its writes log entry 50, DESIGN CHOICE). -/
def flagsSettled (s : State) (k n : Nat) : Bool :=
  !((n = 2 || n = 3) && (s.ctx k).mode ≠ .s) ||
    ((s.ctx k).vq.isEmpty && (match taskOf s k with | some x => x.xctx ≠ some k || x.mq.isEmpty | none => true))

/-- Write a CSR: the limits of R255 and R430, reserved bits discarded; likewise bits 63:1 of smcnt and 63:32 of vdirty, for which the spec
gives neither a limit nor a reserved field (log entry 50, DESIGN CHOICE). -/
def csrWrite (k n : Nat) (v : Word) : Op Unit := do
  let s ← get
  let j := csrStream s k n
  let put := fun (f : Ctx → Ctx) => modify fun s => s.modCtx j f
  let ir := (s.ctx k).ir
  match n with
  | 0x000 =>
    require (decide (1 ≤ v.toNat) && decide (v.toNat ≤ 64)) .illegalOp ir
    put fun c => { c with vl := v }
  | 0x001 =>
    require (decide (v.toNat ≤ 1023)) .illegalOp ir
    put fun c => { c with vstart := v }
  | 0x002 => put fun c => { c with vdirty := v &&& 0xFFFFFFFF }
  | 0x003 => put fun c => { c with vstat := v &&& 0x3F }
  | 0x004 => put fun c => { c with mshape := v &&& 0x3F7F007F }
  | 0x005 =>
    require (fpmodeOk v) .illegalOp ir
    put fun c => { c with fpmode := v &&& 0x1FF }
  | 0x008 => put fun c => { c with smpc := v }
  | 0x009 => put fun c => { c with smprev := v }
  | 0x00A => put fun c => { c with smcnt := v &&& 1 }
  | 0x100 => put fun c => { c with cause := v &&& 0x7FF }
  | 0x101 =>
    require (v.toNat % 8 = 0) .illegalOp ir
    put fun c => { c with epc := v }
    match (s.core (coreOf k)).serving with
    | some w => if w.queueHeld then pure () else modify fun s => s.modCtx w.ctx fun c => { c with pend := none }
    | none => pure ()
  | 0x102 => put fun c => { c with etval := v }
  | _ => illegal k

def execCsrr (c : Ctl) (rd : BitVec 6) (csr : BitVec 20) (s : State) : Host.Outcome State Fault Refusal :=
  issue (.csrr c rd csr) s fun k => do
    let s ← get
    if !flagsSettled s k csr.toNat then waitHere
    set (s.modCtx k fun x => x.setS rd (csrValue s k csr.toNat))
    pure .on

def execCsrw (c : Ctl) (csr : BitVec 20) (ra : BitVec 6) (s : State) : Host.Outcome State Fault Refusal :=
  issue (.csrw c csr ra) s fun k => do
    let s ← get
    if !flagsSettled s k csr.toNat then waitHere
    csrWrite k csr.toNat ((s.ctx k).s ra)
    pure .on

/-- The stream a handler serves; a shadow context always serves one. -/
def servedStream (k : Nat) : Op Nat := do
  match ((← get).core (coreOf k)).serving with
  | some w => pure w.ctx
  | none => illegal k

def execCsrrX (c : Ctl) (rd n : BitVec 6) (s : State) : Host.Outcome State Fault Refusal :=
  issue (.csrrX c rd n) s fun k => do
    let j ← servedStream k
    modify fun s => s.modCtx k fun x => x.setS rd ((s.ctx j).s n)
    pure .on

def execCsrwX (c : Ctl) (n ra : BitVec 6) (s : State) : Host.Outcome State Fault Refusal :=
  issue (.csrwX c n ra) s fun k => do
    let j ← servedStream k
    modify fun s => s.modCtx j fun x => x.setS n ((s.ctx k).s ra)
    pure .on

/-- Word w of the fault record (Table 18.5). -/
def faultWord (s : State) (k j w : Nat) : Word :=
  let c := s.ctx k
  match w with
  | 0 => c.fpc
  | 1 => BitVec.ofNat 64 ((if c.frConv then 2 ^ 10 else 0) + (if c.frHeld then 2 ^ 9 else 0) +
      (if (s.ctx j).pend.isSome then 2 ^ 8 else 0) + c.frSrc.code)
  | _ => c.hcyc

def execCsrrF (c : Ctl) (rd : BitVec 6) (w : BitVec 20) (s : State) : Host.Outcome State Fault Refusal :=
  issue (.csrrF c rd w) s fun k => do
    let j ← servedStream k
    if 2 < w.toNat then illegal k
    modify fun s => s.modCtx k fun x => x.setS rd (faultWord s k j w.toNat)
    pure .on

/-! Traps and the return from a handler (R431, R432). -/

def execTrap (c : Ctl) (imm : BitVec 20) (s : State) : Host.Outcome State Fault Refusal :=
  issue (.trap c imm) s fun _ => raise .trapInstr (imm.setWidth 64)

def execTrapBrk (c : Ctl) (imm : BitVec 20) (s : State) : Host.Outcome State Fault Refusal :=
  issue (.trapBrk c imm) s fun _ => raise .breakpoint (imm.setWidth 64)

def execEret (c : Ctl) (s : State) : Host.Outcome State Fault Refusal :=
  issue (.eret c) s fun k => do
    match ((← get).core (coreOf k)).serving with
    | some w =>
      modify fun s => returnFrom s (coreOf k) w
      pure .stay
    | none => illegal k

def execEretDiscard (c : Ctl) (s : State) : Host.Outcome State Fault Refusal :=
  issue (.eretDiscard c) s fun k => do
    let j ← servedStream k
    modify fun s =>
      let s' := match (s.ctx j).task with | some t => discardTask s t | none => s.setCtx j {}
      (s'.modCore (coreOf k) fun x => { x with serving := none }).setCtx k {}
    pure .stay

/-! Graphs (R433, R434). -/

/-- The launch and node of a stream's task. -/
def myNode (k : Nat) : Op (Task × Launch × Node) := do
  let (_, x) ← myTask k
  match (← get).launch x.launch with
  | none => illegal k
  | some l => match l.nodes[x.node]? with
    | none => illegal k
    | some n => pure (x, l, n)

def execSpawn (c : Ctl) (rd ra rb : BitVec 6) (s : State) : Host.Outcome State Fault Refusal :=
  issue (.spawn c rd ra rb) s fun k => do
    let (x, l, n) ← myNode k
    let s ← get
    let b := (s.ctx k).s ra
    require (decide (b.toNat < 2 ^ 24)) .illegalOp b
    require (!n.cords || b.toNat % n.csize = 0) .illegalOp b
    require (n.bar ≠ 2 && n.bar ≠ 3) .illegalOp b
    let arg := (s.ctx k).s rb
    if n.next + b.toNat > 2 ^ 24 then
      modify fun s => s.modCtx k fun y => y.setS rd (BitVec.ofNat 64 (2 ^ 63))
    else
      modify fun s =>
        (setNode s x.launch x.node { n with next := n.next + b.toNat, unfinished := n.unfinished + b.toNat,
                                            runs := n.runs ++ divide s l.vd n n.next b.toNat arg }).modCtx k fun y =>
          y.setS rd (BitVec.ofNat 64 n.next)
    pure .on

def execGsig (c : Ctl) (ra : BitVec 6) (s : State) : Host.Outcome State Fault Refusal :=
  issue (.gsig c ra) s fun k => do
    let (x, l, _) ← myNode k
    let a := ((← get).ctx k).s ra
    require (decide (a.toNat < l.nodes.length)) .illegalOp a
    modify fun s => s.lower x.launch [a.toNat]
    pure .on

/-! TLB invalidation (R435). -/

/-- Remove the translations p selects from every TLB of the module. -/
def dropTlb (s : State) (p : TlbEntry → Bool) : State :=
  let keep := fun (ts : List TlbEntry) => ts.filter fun t => !p t
  { s with cores := s.cores.map fun x => (x.1, { x.2 with tlb := keep x.2.tlb }),
           kilns := s.kilns.map fun x => (x.1, { x.2 with tlb := keep x.2.tlb }) }

/-- The lines of a MEM handle of a VD that a retort job has still to switch were translated when it was started: a TLBI completes once no
access that used the old translation is left (R51). -/
def linesUnderWay (s : State) (vd : Nat) : Bool :=
  s.kilns.any fun x => x.2.jobs.any fun j => j.vd = vd && (match j.kind with
    | .demote _ _ _ _ _ e => e.level = lvMem
    | .residency _ e => e.level = lvMem
    | .rekeyIn _ | .rekeyOut _ _ => false)

/-- Remove translations of a VD from every TLB, once no job works by them. -/
def invalidate (vd : Nat) (p : TlbEntry → Bool) : Op Unit := do
  if linesUnderWay (← get) vd then waitHere
  modify fun s => dropTlb s p

/-- An operand within its limit. -/
def limit (v : Word) (n : Nat) : Op Unit := require (decide (v.toNat ≤ n)) .illegalOp v

def execTlbiVa (c : Ctl) (ra rb : BitVec 6) (s : State) : Host.Outcome State Fault Refusal :=
  issue (.tlbiVa c ra rb) s fun k => do
    let x := (← get).ctx k
    limit (x.s rb) 255
    let a := (x.s ra).toNat
    invalidate x.vd fun t => t.hits x.vd (x.s rb).toNat a
    pure .on

def execTlbiAsn (c : Ctl) (ra rb : BitVec 6) (s : State) : Host.Outcome State Fault Refusal :=
  issue (.tlbiAsn c ra rb) s fun k => do
    let x := (← get).ctx k
    limit (x.s rb) 255
    invalidate x.vd fun t => t.vd = x.vd && t.asn = some (x.s rb).toNat
    pure .on

def execTlbiVd (c : Ctl) (s : State) : Host.Outcome State Fault Refusal :=
  issue (.tlbiVd c) s fun k => do
    let x := (← get).ctx k
    invalidate x.vd fun t => t.vd = x.vd
    pure .on

/-- A guest-physical address of a store aperture, which runs upward to the end of the space (R42). -/
def inAperture (a : Nat) : Bool := decide (apertureBase ≤ a) && decide (a < 2 ^ 52)

def execTlbiGpa (c : Ctl) (ra rb : BitVec 6) (s : State) : Host.Outcome State Fault Refusal :=
  issue (.tlbiGpa c ra rb) s fun k => do
    let x := (← get).ctx k
    limit (x.s rb) 63
    let a := (x.s ra).toNat
    let v := (x.s rb).toNat
    invalidate v fun t => t.vd = v && decide (t.s2base ≤ a) && decide (a < t.s2base + t.s2size)
    modify fun s => if inAperture a then readAperture s v else s
    pure .on

/-- TLBI.S2: it covers the aperture, whose mappings are read again whether or not the VD's feature set has locked (R42, R435; log
entry 48, DESIGN CHOICE). -/
def execTlbiS2 (c : Ctl) (ra rb : BitVec 6) (s : State) : Host.Outcome State Fault Refusal :=
  issue (.tlbiS2 c ra rb) s fun k => do
    let x := (← get).ctx k
    limit (x.s rb) 63
    let v := (x.s rb).toNat
    invalidate v fun t => t.vd = v
    modify fun s => readAperture s v
    pure .on

/-! Snapshots and energy (R436, R437, R476). -/

def execSnap (c : Ctl) (tag : BitVec 8) (s : State) : Host.Outcome State Fault Refusal :=
  issue (.snap c tag) s fun k => do
    modify fun s => if bit (s.vd (s.ctx k).vd).dbgcfg 1 then fireSnapshot s 0 tag.toNat else s
    pure .on

/-- The account's remaining energy as EBUD.Q reads it: none when in debt, saturated at 2^63 − 1. -/
def energyLeft (rem : Int) : Nat := min rem.toNat (2 ^ 63 - 1)

def execEbudQ (c : Ctl) (rd : BitVec 6) (s : State) : Host.Outcome State Fault Refusal :=
  issue (.ebudQ c rd) s fun k => do
    modify fun s => s.modCtx k fun x => x.setS rd (BitVec.ofNat 64 (energyLeft (s.vd (s.ctx k).vd).rem))
    pure .on

def execEbudR (c : Ctl) (rd ra : BitVec 6) (s : State) : Host.Outcome State Fault Refusal :=
  issue (.ebudR c rd ra) s fun k => do
    let (t, x) ← myTask k
    let a := ((← get).ctx k).s ra
    limit a (2 ^ 32 - 1)
    modify fun s =>
      let v := s.vd x.vd
      if (a.toNat : Int) ≤ v.rem then
        ((s.setVd x.vd { v with rem := v.rem - a.toNat }).setTask t (some { x with ebud := x.ebud + a.toNat })).modCtx k fun y =>
          y.setS rd 0
      else s.modCtx k fun y => y.setS rd 1
    pure .on

def execEbudF (c : Ctl) (rd ra : BitVec 6) (s : State) : Host.Outcome State Fault Refusal :=
  issue (.ebudF c rd ra) s fun k => do
    let (t, x) ← myTask k
    let a := ((← get).ctx k).s ra
    limit a (2 ^ 32 - 1)
    let n := min a.toNat x.ebud
    modify fun s =>
      ((s.modVd x.vd fun v => { v with rem := v.rem + n }).setTask t (some { x with ebud := x.ebud - n })).modCtx k fun y =>
        y.setS rd (BitVec.ofNat 64 n)
    pure .on

/-! Keys (R438). -/

/-- A VD has a launch in flight or an open window. -/
def keyInUse (s : State) (b : Nat) : Bool :=
  (s.launches.any fun l => match l.2 with | some x => x.vd = b | none => false) ||
    s.pkg.windows.any fun w => w.2.state ≠ .free && (w.2.owner = b || w.2.peer = b)

def execKeyld (c : Ctl) (rd ra rb : BitVec 6) (s : State) : Host.Outcome State Fault Refusal :=
  issue (.keyld c rd ra rb) s fun k => do
    let s ← get
    let x := s.ctx k
    let a := x.s ra
    let b := x.s rb
    require (a.toNat % 32 = 0) .illegalOp a
    limit b 64
    if keyInUse s b.toNat then
      modify fun s => s.modCtx k fun y => y.setS rd 1
    else
      let _ ← agentRead (clientOf s k) a.toNat 32
      modify fun s => (s.modVd b.toNat fun v => { v with keyGen := v.keyGen + 1 }).modCtx k fun y => y.setS rd 0
    pure .on

end Sys2Proof.Machine
end

