-- ==== Sys2Proof/Machine/Holds.lean ====
section
/-!
DEFINITION. Sys2Proof/Machine/Holds.lean: what ends a wait: faults delivered to the shadow context (R420, R422), walks, holds and
their conversion (R425 to R427), page requests answered (R53 to R56), the bounds of line switches (R69) and of tenure
(R149, R165). A step that does not apply to the state changes nothing (log entry 24, DESIGN CHOICE).
-/

namespace Sys2Proof.Machine

open Sys2Proof

/-! Delivery. -/

/-- The key of a waiting fault in the order of R420: its cycle, then the stoker (for both streams of one task, the lower of
the two), then the execute stream first. -/
def faultKey (s : State) (ws : List Waiting) (w : Waiting) : Nat × Nat × Nat :=
  let task := (s.ctx w.ctx).task
  let pair := ws.filter fun v => v.since = w.since && task.isSome && (s.ctx v.ctx).task = task
  (w.since, pair.foldl (fun a v => min a (stkOf v.ctx)) (stkOf w.ctx), if (s.ctx w.ctx).access then 1 else 0)

def keyLess (a b : Nat × Nat × Nat) : Bool :=
  decide (a.1 < b.1) || (a.1 = b.1 && (decide (a.2.1 < b.2.1) || (a.2.1 = b.2.1 && decide (a.2.2 < b.2.2))))

/-- The waiting fault that is served next. -/
def nextFault (s : State) (ws : List Waiting) : Option Waiting :=
  ws.foldl (fun b w => match b with
    | none => some w
    | some v => if keyLess (faultKey s ws w) (faultKey s ws v) then some w else some v) none

/-- FAULT_DELIVERY (R420, R422): a fault of the handler itself discards the task it serves; else, with no handler running, the
next waiting fault is taken, or is a double fault while TVEC.EN is 0. -/
def deliver (s : State) (core : Nat) : State :=
  let x := s.core core
  let sh := shadowOf core
  if x.faults.any fun w => w.ctx = sh then
    let s := (s.modCore core fun x => { x with faults := x.faults.filter (fun w => w.ctx ≠ sh), serving := none }).setCtx sh {}
    match x.serving with
    | some w => doubleFault s w
    | none => s
  else if x.serving.isSome then s
  else match nextFault s x.faults with
    | none => s
    | some w =>
      let rest := x.faults.filter fun v => v ≠ w
      if bit (s.vd (s.ctx w.ctx).vd).tvec 0 then takeFault s core w rest
      else doubleFault (s.modCore core fun x => { x with faults := rest }) w

def execFaultDelivery (core : Nat) (s : State) : Host.Outcome State Fault Refusal := .next (deliver s core)

/-! Holds. -/

/-- The PC of what a held access belongs to: the queue entry at the head, or the stream's instruction. -/
def heldPc (s : State) (k : Nat) (src : FaultSrc) : Word :=
  let c := s.ctx k
  match src, c.vq, taskOf s k with
  | .vector, .entry e :: _, _ => e.pc
  | .matrix, _, some x => (match x.mq with | .entry e :: _ => e.pc | _ => c.pc)
  | _, _, _ => c.pc

/-- A held fault of a held access (R427): it waits for the shadow context, the task staying held. -/
def heldFault (s : State) (k : Nat) (h : Hold) (c : Cause) : State :=
  let pc := heldPc s k h.src
  (raiseFault s k { cause := c, etval := h.va, fpc := pc, epc := pc, held := true, src := h.src, elem := h.elem }).modCtx k
    fun c => { c with hold := some { h with kind := .handler, due := none } }

/-- A precise fault of a held access: the hold ends (R424, R425). -/
def preciseFault (s : State) (k : Nat) (h : Hold) (c : Cause) : State :=
  (raiseFault s k { cause := c, etval := h.va, fpc := heldPc s k h.src, epc := (s.ctx k).pc, src := h.src, elem := h.elem }).modCtx k
    fun c => { c with hold := none }

/-- The awaited event has happened: the clocks restart at the next multiple of 24 held cycles (R426). -/
def endHold (s : State) (k : Nat) (h : Hold) : State :=
  s.modCtx k fun c => { c with hold := some { h with due := some (h.since + restartCycles (s.now - h.since)) } }

/-- The hold waits for something else from now on, the task held all the while. -/
def Hold.next (h : Hold) (s : State) (kind : HoldKind) : Hold := { h with kind := kind, began := s.now }

/-- The end of the walk of a held access: a translation, a fault, a page request, or a wait on a table line. -/
def walkDone (s : State) (k : Nat) (h : Hold) : State :=
  let c := s.ctx k
  match walkFill s (coreOf k) c.vd c.asn h.va.toNat (some c.mode) h.access with
  | (.ok _, s) => endHold s k h
  | (.error (.fault e true), s) => heldFault s k h e
  | (.error (.fault e false), s) => preciseFault s k h e
  | (.error (.request kind page r), s) =>
    (pageRequest s c.vd c.asn kind page r).modCtx k fun c => { c with hold := some (h.next s (.request kind page)) }
  | (.error (.wait w), s) => s.modCtx k fun c => { c with hold := some (h.next s w) }

/-- The misses that a kiln's walker has (R49): the stream, its hold, and what its walk is shared by: VD, ASN and page. -/
def misses (s : State) (kiln : Nat) : List (Nat × Hold × Nat × Nat × Nat) :=
  s.ctxs.filterMap fun x => match x.2.hold with
    | some h => if h.kind = .walk && h.due.isNone && x.2.mode ≠ .m && kilnOf (coreOf x.1) = kiln then
        some (x.1, h, x.2.vd, x.2.asn, h.va.toNat / 4096) else none
    | none => none

/-- WALK_COMPLETE (R49): the walk of a held access, and with it every miss of the kiln that shares it, ends. -/
def execWalkComplete (ctx : Nat) (s : State) : Host.Outcome State Fault Refusal :=
  let ms := misses s (kilnOf (coreOf ctx))
  match ms.find? fun m => m.1 = ctx with
  | none => .next s
  | some (_, _, walk) =>
    if hasWalkSlot s (kilnOf (coreOf ctx)) walk then .next ((ms.filter fun m => m.2.2 = walk).foldl (fun s m => walkDone s m.1 m.2.1) s) else .next s

/-- A held access whose line has been switched, or whose covered key no longer waits for a switch, goes on (R69). -/
def lineFree (s : State) (h : Hold) : Bool :=
  match h.kind with
  | .recode line => tagVc (homeTag s line) ≠ vcRecode
  | .foreign line key => keyCheck s key line ≠ .covered
  | .walk => false
  | .request _ _ => false
  | .handler => false

/-- HOLD_RESTART (R426): the clocks of a held task run again. -/
def execHoldRestart (ctx : Nat) (s : State) : Host.Outcome State Fault Refusal :=
  match (s.ctx ctx).hold with
  | none => .next s
  | some h =>
    match h.due with
    | some d => if d ≤ s.now then .next (s.modCtx ctx fun c => { c with hold := none }) else .next s
    | none => if lineFree s h then .next (endHold s ctx h) else .next s

/-- RECODE_WAIT_TIMEOUT (R69): a wait on a switch of 4,096 cycles becomes a held fault. -/
def execRecodeWaitTimeout (ctx : Nat) (s : State) : Host.Outcome State Fault Refusal :=
  match (s.ctx ctx).hold with
  | none => .next s
  | some h =>
    if h.due.isNone && decide (h.began + 4096 ≤ s.now) then
      match h.kind with
      | .recode _ => .next (heldFault s ctx h .recodeTimeout)
      | .foreign _ _ => .next (heldFault s ctx h .foreignLine)
      | .walk => .next s
      | .request _ _ => .next s
      | .handler => .next s
    else .next s

/-- Mark a fault of a stream, waiting or being served, as converted: one still waiting becomes precise; a running handler
sees CONV, and returns to where the issue stopped (R426). -/
def convertServed (s : State) (k : Nat) (h : Hold) : State :=
  let core := coreOf k
  let pc := (s.ctx k).pc
  let queue := h.src = .vector || h.src = .matrix
  let s := s.modCore core fun x =>
    let wait := fun (w : Waiting) => if w.ctx = k && w.info.held then
      { w with conv := true, info := { w.info with held := decide (h.src = .beat), epc := pc } } else w
    let now := fun (w : Waiting) => if w.ctx = k && w.info.held then { w with conv := true } else w
    { x with faults := x.faults.map wait, serving := x.serving.map now }
  match (s.core core).serving with
  | some w =>
    if w.ctx = k && w.conv then
      let s := s.modCtx (shadowOf core) fun c =>
        { c with frConv := true, epc := if queue then pc else c.epc, cause := if h.src = .vector then c.cause ||| 256 else c.cause }
      if h.src = .vector then s.modCtx k fun c => { c with vstart := BitVec.ofNat 64 h.elem } else s
    else s
  | none => s

/-- The cause of a stream's fault that waits or is served. -/
def faultCause (s : State) (k : Nat) : Option Cause :=
  let x := s.core (coreOf k)
  match x.serving.toList.find? (fun w => w.ctx = k), x.faults.find? fun w => w.ctx = k with
  | some w, _ => some w.info.cause
  | none, some w => some w.info.cause
  | none, none => none

/-- HOLD_CONVERT (R426): at 65,536 held cycles the access takes a precise fault with the cause it met; with its handler
already running, CONV is set; a copy beat's fault fails its transfer (R402). A walk that has met no cause yet takes TRANSLATION (log
entry 48, DESIGN CHOICE), and a debug stop does not convert (R481). -/
def execHoldConvert (ctx : Nat) (s : State) : Host.Outcome State Fault Refusal :=
  match (s.ctx ctx).hold with
  | none => .next s
  | some h =>
    if h.due.isSome || s.now < h.since + 65536 || (s.ctx ctx).stopped then .next s
    else match h.kind with
      | .walk => .next (preciseFault s ctx h .translation)
      | .request kind _ => .next (preciseFault s ctx h (if kind = 2 then .translation else .stage2))
      | .recode _ => .next (preciseFault s ctx h .recodeTimeout)
      | .foreign _ _ => .next (preciseFault s ctx h .foreignLine)
      | .handler =>
        let s' := if h.src = .beat then
            failTransfer s (coreOf ctx) (h.elem % 4) (h.elem / 4) (match faultCause s ctx with | some c => c.code | none => 0)
          else s
        .next ((convertServed s' ctx h).modCtx ctx fun c => { c with hold := none })

/-! Page requests answered (R53, R55). -/

/-- The next VD in turn among those that wait for a shared entry. -/
def nextWaiter (turn : Nat) (ws : List Prq) : Option Prq :=
  let vds := ws.map (·.vd)
  let v := match vds.foldl (fun (b : Option Nat) v => if turn < v then (match b with | some w => some (min v w) | none => some v) else b) none with
    | some v => some v
    | none => vds.foldl (fun (b : Option Nat) v => match b with | some w => some (min v w) | none => some v) none
  v.bind fun v => ws.find? fun q => q.vd = v

/-- Free an entry, and let a waiter that may take one now do so, as Table 2.14 lays down: a reserved entry's VD first, for a shared one the
VDs in turn; a request that waited for the host's allocation takes its own (R54). -/
def freePrq (s : State) (entry : Nat) (q : Prq) : State :=
  let s := { s with pkg := { s.pkg with prq := SMap.set none s.pkg.prq entry none } }
  let may := s.pkg.prqWait.filter fun x => (prqTake s x).isSome
  let own := if q.shared then none else may.find? fun x => x.vd = q.vd
  match own <|> nextWaiter s.pkg.prqTurn may with
  | none => s
  | some x =>
    let s := (prqTake s x).getD s
    { s with pkg := { s.pkg with prqWait := s.pkg.prqWait.erase x, prqTurn := if own.isSome then s.pkg.prqTurn else x.vd } }

/-- The accesses held for a request, and the transfers whose beats wait for it. -/
def waitsFor (q : Prq) (c : Ctx) : Bool :=
  c.vd = q.vd && (match c.hold with | some h => h.kind = .request q.kind q.page && h.due.isNone | none => false)

/-- End a request's waits: each held access walks again, or takes a precise fault; each transfer's beats try again, or the
transfer fails (R55, R403). A failure is kept for the part's own accesses; one that finds no access held, its hold converted before, is
not: the access restarted after it makes the request anew (R56; log entry 48, DESIGN CHOICE). -/
def answer (s : State) (entry : Nat) (q : Prq) (ok : Bool) : State :=
  let cause : Cause := if q.kind = 2 then .translation else .stage2
  let s := freePrq s entry q
  let s := { s with pkg := { s.pkg with agentReqs := s.pkg.agentReqs.filterMap fun r =>
    if r = (q.vd, q.kind, q.page, false) then (if ok then none else some (q.vd, q.kind, q.page, true)) else some r } }
  let ks := (s.ctxs.filter fun x => waitsFor q x.2).map (·.1)
  let s := ks.foldl (fun s k => match (s.ctx k).hold with
    | some h => if ok then s.modCtx k fun c => { c with hold := some (h.next s .walk) } else preciseFault s k h cause
    | none => s) s
  let hit := fun (x : Transfer) => x.state = .pending && x.vd = q.vd && x.reqs.contains (q.kind, q.page)
  (List.range 192).foldl (fun s core => (List.range 4).foldl (fun s ch =>
    (s.chan core ch).transfers.foldl (fun s x =>
      if hit x then
        (if ok then s.modTransfer core ch x.num fun y => { y with reqs := y.reqs.filter fun r => r ≠ (q.kind, q.page) }
         else failTransfer s core ch x.num cause.code)
      else s) s) s) s

/-- The request an entry holds, if it is of a kind this responder answers. -/
def pendingPrq (s : State) (entry : Nat) (host : Bool) : Option Prq :=
  match SMap.get none s.pkg.prq entry with
  | some q => if (q.kind = 2) = host then some q else none
  | none => none

def execS2respSuccess (entry : Nat) (s : State) : Host.Outcome State Fault Refusal :=
  match pendingPrq s entry false with
  | some q => .next (answer s entry q true)
  | none => .next s

def execS2respFail (entry : Nat) (s : State) : Host.Outcome State Fault Refusal :=
  match pendingPrq s entry false with
  | some q => .next (answer s entry q false)
  | none => .next s

/-- PRG_RESPONSE: a successful one finds the host's page present. -/
def execPrgResponse (entry : Nat) (ok : Bool) (s : State) : Host.Outcome State Fault Refusal :=
  match pendingPrq s entry true with
  | some q =>
    let s := if ok then { s with pkg := { s.pkg with hostAbsent := SMap.set false s.pkg.hostAbsent q.page false } } else s
    .next (answer s entry q ok)
  | none => .next s

/-! Tenure (R149, R165). -/

/-- A requester's wait for tenure ends at the bound (Table 6.6): the fault of its instruction or queue entry, or the failure
of its transfer. -/
def endTenureWait (s : State) (r : TenReq) : State :=
  let f : FaultInfo := { cause := .tenureTimeout, etval := r.etval }
  let k := r.who % 1000
  if 4096 ≤ r.who then
    let i := (r.who - 4096) % 1024
    failTransfer s (i / 4) (i % 4) ((r.who - 4096) / 1024) Cause.tenureTimeout.code
  else if r.who < 1000 then raiseFault s k ((s.ctx k).ownFault f)
  else if r.who < 3000 then
    let src : FaultSrc := if r.who < 2000 then .matrix else .vector
    raiseFault s k { f with src := src, elem := r.elem, fpc := heldPc s k src, epc := (s.ctx k).pc }
  else s

/-- TENURE_WAIT_TIMEOUT: the oldest request of a requester whose wait has lasted 2^20 cycles. It keeps its place. -/
def execTenureWaitTimeout (req : Nat) (s : State) : Host.Outcome State Fault Refusal :=
  let due := fun (r : TenReq) => r.who = req && !r.timedOut && decide (r.since + 2 ^ 20 ≤ s.now)
  match s.coh.dirs.findSome? fun d => d.queue.find? due with
  | none => .next s
  | some r =>
    let mark := fun (x : TenReq) => if x = r then { x with timedOut := true } else x
    let s := { s with coh := { s.coh with dirs := s.coh.dirs.map fun d => { d with queue := d.queue.map mark } } }
    .next (endTenureWait s r)

/-- Leases that have ended leave a cell; one without a live lease and with no request waiting is IDLE, its predictor kept. -/
def Cell.expire (c : Cell) (now : Nat) (wanted : Bool) : Cell :=
  if (c.state = .read || c.state = .drain) && decide (c.expiry ≤ now) then
    let c := { c with readers := c.readers.filter fun r => decide (now < r.2) }
    if wanted then c else
      { c with state := .idle, expiry := 0, readers := [], below := (c.below.map fun x => (x.1, { x.2 with expiry := 0 })).filter fun x => x.2 ≠ {} }
  else c

/-- The first explicit WRITE or SEAL request of a queue that nothing stands in the way of is granted; it is completed by the
instruction that waits. -/
def grantFirst (d : TensorDir) (s : State) : TensorDir :=
  match d.queue.find? fun r => (r.kind = .write || r.kind = .seal) && r.holder.isSome && d.grantable r s.now with
  | none => d
  | some r => d.modCells r.cells fun c => if r.kind = .write then c.grantWrite r.holder r.core else c.seal r.holder

/-- LEASE_EXPIRY (R149, Table 6.4) of the cell at a place in the list of all directories' cells. -/
def execLeaseExpiry (cell : Nat) (s : State) : Host.Outcome State Fault Refusal :=
  let all := s.coh.dirs.flatMap fun d => d.cells.map fun c => (d.id, c.1)
  match all[cell]? with
  | none => .next s
  | some (id, k) =>
    let d := s.dir id
    let wanted := d.queue.any fun r => r.cells.contains k
    if (d.cell k).expire s.now wanted = d.cell k && !wanted then .next s
    else .next (s.setDir (grantFirst (d.modCell k fun c => c.expire s.now wanted) s))

end Sys2Proof.Machine
end

