-- ==== Sys2Proof/Machine/Engines.lean ====
section
/-!
DEFINITION. Sys2Proof/Machine/Engines.lean: the queues' own steps: the vector arbiter and the draining of convoys (R456), the
matrix engine's holder and entries (R375, R376, R383, R386), markers that reach a queue's head (R208). An entry that found
its queue empty has been performed at issue (log entry 3, DEDUCED); these steps perform those that had to wait. A step that does not
apply to the state changes nothing (log entry 24, DESIGN CHOICE).
-/

namespace Sys2Proof.Machine

open Sys2Proof

/-! Vector-queue entries. -/

/-- How a queued vector entry is performed. -/
def vectorPerform : Instr → Perform
  | .vadd _ vd va vb n m => perfVadd vd va vb n m
  | .vsub _ vd va vb n m => perfVsub vd va vb n m
  | .vmul _ vd va vb n m => perfVmul vd va vb n m
  | .vfma _ vd va vb vc n m => perfVfma vd va vb vc n m
  | .vfms _ vd va vb vc n m => perfVfms vd va vb vc n m
  | .vmin _ vd va vb n m => perfVmin vd va vb n m
  | .vmax _ vd va vb n m => perfVmax vd va vb n m
  | .vabs _ vd va n m => perfVabs vd va n m
  | .vneg _ vd va n m => perfVneg vd va n m
  | .vand _ vd va vb n m => perfVand vd va vb n m
  | .vor _ vd va vb n m => perfVor vd va vb n m
  | .vxor _ vd va vb n m => perfVxor vd va vb n m
  | .vshl _ vd va vb n m => perfVshl vd va vb n m
  | .vshr _ vd va vb n m => perfVshr vd va vb n m
  | .vsra _ vd va vb n m => perfVsra vd va vb n m
  | .vcmp _ vpd va vb n m cc => perfVcmp vpd va vb n m cc
  | .vsel _ vd va vb vps n m => perfVsel vd va vb vps n m
  | .vcvt _ vd va fmt h n m lx => perfVcvt vd va fmt h n m lx
  | .vqblk _ vd vs va h n tgt => perfVqblk vd vs va h n tgt
  | .vdeq _ vd va vs f32 n m => perfVdeq vd va vs f32 n m
  | .vtagGet _ rd va r => perfVtagGet rd va r
  | .vtagSet _ vd _ r => perfVtagSet vd r
  | .vtagSetAll _ vd _ => perfVtagSetAll vd
  | .vretag _ vd va fmt n => perfVretag vd va fmt n
  | .vsplat _ vd _ fmt n m => perfVsplat vd fmt n m
  | .vmovsGet _ rd va _ => perfVmovsGet rd va
  | .vmovsPut _ vd _ _ => perfVmovsPut vd
  | .vpand _ vpd vpa vpb n m => perfVpand vpd vpa vpb n m
  | .vpor _ vpd vpa vpb n m => perfVpor vpd vpa vpb n m
  | .vpnot _ vpd vpa n m => perfVpnot vpd vpa n m
  | .vpcnt _ rd vpa n m => perfVpcnt rd vpa n m
  | .vany _ pd vpa vpm => perfVany pd vpa vpm
  | .vall _ pd vpa vpm => perfVall pd vpa vpm
  | .vld _ vd h _ _ n m _ => perfVld vd h n m
  | .vst _ h _ _ vs n m _ => perfVst h vs n m
  | .vgth _ vd _ vi sh n m _ => perfVgth vd vi sh n m
  | .vsct _ _ vi vs sh n m _ => perfVsct vi vs sh n m
  | .vrot _ vd va _ n m ax => perfVrot vd va n m ax
  | .vbc _ vd va _ n m ax => perfVbc vd va n m ax
  | .vtrn _ vd va m => perfVtrn vd va m
  | .vshuf _ vd va vi n m => perfVshuf vd va vi n m
  | .vcmpr _ vd va vps n => perfVcmpr vd va vps n
  | .vred _ vd va n m ax rop => perfVred vd va n m ax rop
  | .vscan _ vd va n m ax rop => perfVscan vd va n m ax rop
  | .vexp2 _ vd va n m => perfSpecial .exp2 vd va n m
  | .vlog2 _ vd va n m => perfSpecial .log2 vd va n m
  | .vrcp _ vd va n m => perfSpecial .rcp vd va n m
  | .vrsq _ vd va n m => perfSpecial .rsq vd va n m
  | .vsqrt _ vd va n m => perfSpecial .sqrt vd va n m
  | .vtanh _ vd va n m => perfSpecial .tanh vd va n m
  | .vsin _ vd va n m => perfSpecial .sin vd va n m
  | .vqpush _ q va n => perfVqpush q va n
  | .vqpop _ vd q n => perfVqpop vd q n
  | _ => fun _ _ => pure ()

def Convoy.members (v : Convoy) : Nat := v.mad + v.ldp + v.stp + v.prm + v.sfu

/-- The cost of a convoy (R456). -/
def Convoy.cost (v : Convoy) : Nat := v.members * v.rows

/-- A convoy's needs do not exceed numbers of pipes by class. -/
def Convoy.within (v : Convoy) (free : Pipe → Nat) : Bool :=
  decide (v.mad ≤ free .mad) && decide (v.ldp ≤ free .ldp) && decide (v.stp ≤ free .stp) && decide (v.prm ≤ free .prm) &&
    decide (v.sfu ≤ free .sfu)

/-- A stoker's weight (Table 20.8): word B of its partition's record, bits 4·j + 3 to 4·j. -/
def stokerWeight (s : State) (core j : Nat) : Nat :=
  let b := if partOf s (ctxId core j) = 1 then (s.core core).part1B else (s.core core).part0B
  field b (4 * j + 3) (4 * j)

/-- The head entry of a stream's vector queue may be performed: not stopped by a fault or a hold, nor by the scoreboard, and its task's CR
shows RUNNING (R233). -/
def headGoes (s : State) (k : Nat) : Bool :=
  match (s.ctx k).vq with
  | .entry e :: _ => !queueStopped s k .vector && !heldTask s k && !matrixBlocks s k e && !crDueOf s k
  | _ => false

/-- A stoker whose head convoy could bind this cycle. -/
def candidate (s : State) (core j : Nat) : Option Convoy :=
  match waitingConvoy s core j with
  | some v => if headGoes s (ctxId core j) && v.within (freePipes s core j) then some v else none
  | none => none

/-- One cycle of the deficit round robin (R456): at most one convoy is bound. -/
def arbiterBind (s : State) (core : Nat) : State :=
  let x := s.core core
  let js := List.range 4
  let wait := js.filter fun j => (waitingConvoy s core j).isSome
  let cands := js.filterMap fun j => (candidate s core j).map fun v => (j, v)
  let d0 := x.deficit.mapIdx fun j d => if wait.contains j then d else 0
  let enough := fun (d : Vector Nat 4) (y : Nat × Convoy) => decide (y.2.cost ≤ vecGet 0 d y.1)
  let d := if !cands.isEmpty && !cands.any (enough d0) then
      d0.mapIdx fun j d => if wait.contains j then d + 16 * stokerWeight s core j else d
    else d0
  let order := (List.range 4).map fun i => (x.lastBound + 1 + i) % 4
  match order.findSome? fun j => cands.find? fun y => y.1 = j && enough d y with
  | none => s.modCore core fun x => { x with deficit := d }
  | some (j, v) =>
    (s.modCore core fun x => { x with deficit := vecMod d j fun n => n - v.cost, lastBound := j }).modCtx (ctxId core j) fun c =>
      { c with bound := some v, drained := false, vq := pipedHead c.vq }

/-- A bound convoy that a member joins late binds its pipe too, when one is free; else the member waits for it (R267). -/
def bindMember (s : State) (k : Nat) (e : QEntry) : Option State :=
  if e.piped then some s
  else match e.pipe with
    | none => some s
    | some p =>
      let b := (s.ctx k).bound.getD {}
      if b.count p < pipesLeft s k p then some (s.modCtx k fun c => { c with bound := some (b.member e) }) else none

/-- Perform the entries of a bound convoy from the queue's head as far as they go; `first` until one has been taken up. -/
def runConvoy (k : Nat) : Nat → Bool → State → State
  | 0, _, s => s
  | fuel + 1, first, s =>
    match (s.ctx k).vq with
    | [] => s.modCtx k fun c => { c with drained := true }
    | .marker _ :: _ => s.modCtx k fun c => { c with drained := true }
    | .mode m _ :: q => runConvoy k fuel first (s.modCtx k fun c => { c with vq := q, vqMode := m })
    | .entry e :: q =>
      if e.begins && !first then s.modCtx k fun c => { c with drained := true }
      else if !headGoes s k then s
      else match bindMember s k e with
        | none => s
        | some s =>
          let s' := runVector (s.modCtx k fun c => { c with vq := q }) k { e with piped := true } (vectorPerform e.instr)
          let stuck : Bool := match (s'.ctx k).vq with | .entry f :: _ => f.seq = e.seq | _ => false
          if queueStopped s' k .vector then s'.modCtx k fun c => { c with bound := none, drained := true }
          else if stuck then s' else runConvoy k fuel false s'

/-- An access stream that has ended gives its stoker up once its vector queue has drained (R237). -/
def finishAccess (s : State) (k : Nat) : State :=
  let c := s.ctx k
  if c.access && c.halted && c.vq.isEmpty && !c.faulted then
    match c.task with
    | none => s
    | some t => match s.task t with
      | none => s
      | some x => if x.actx = some k && x.apc = 0 then (s.setCtx k {}).modTask t fun y => { y with actx := none } else s
  else s

/-- VECTOR_ARBITER_CYCLE: a mode entry at a queue's head takes effect, one convoy may be bound, and every bound convoy goes on as far
as it can. -/
def execVectorArbiterCycle (core : Nat) (s : State) : Host.Outcome State Fault Refusal :=
  let ks := (List.range 4).map (ctxId core)
  let mode := fun (s : State) (k : Nat) => match (s.ctx k).vq with
    | .mode m _ :: q => if heldTask s k then s else s.modCtx k fun c => { c with vq := q, vqMode := m }
    | _ => s
  let go := fun (s : State) (k : Nat) => if (s.ctx k).bound.isSome && !(s.ctx k).drained then runConvoy k 64 true s else s
  .next (ks.foldl finishAccess (ks.foldl go (arbiterBind (ks.foldl mode s) core)))

/-- CONVOY_DRAIN: a convoy that has drained gives its pipes back, or keeps for the stoker's next convoy those it needs, when its last
member had YLD 0 and no other stoker's convoy waits for them (R456). -/
def execConvoyDrain (ctx : Nat) (s : State) : Host.Outcome State Fault Refusal :=
  let c := s.ctx ctx
  match c.bound with
  | none => .next (finishAccess s ctx)
  | some v =>
    if !c.drained then .next s
    else
      let others := (partners s (coreOf ctx) (stkOf ctx)).any fun j => j ≠ stkOf ctx && (waitingConvoy s (coreOf ctx) j).isSome
      let next : Option Convoy := match headConvoy c.vq with
        | some w => if !v.yld && !others && w.within v.count then some w else none
        | none => none
      .next (finishAccess (s.modCtx ctx fun c =>
        { c with bound := next, drained := next.isNone, vq := if next.isSome then pipedHead c.vq else c.vq }) ctx)

/-! The matrix queue. -/

/-- The execute stream of a task whose matrix queue is not empty. -/
def matrixStream (s : State) (task : Nat) : Option (Nat × QItem) :=
  match s.task task with
  | none => none
  | some x => match x.xctx, x.mq with
    | some k, q :: _ => some (k, q)
    | _, _ => none

/-- MATRIX_HOLDER_ACQUIRE (R375): the head entry of a task's matrix queue needs the engine and finds its partition free. -/
def execMatrixHolderAcquire (task : Nat) (s : State) : Host.Outcome State Fault Refusal :=
  match matrixStream s task with
  | some (k, .entry e) =>
    if needsEngine e.instr && !heldTask s k && !crDueOf s k && !queueStopped s k .matrix then .next ((takeEngine s task k).getD s) else .next s
  | _ => .next s

/-- MATRIX_ENTRY_COMPLETE (R376, R383): the head of a task's matrix queue, an entry or a mode, is performed. -/
def execMatrixEntryComplete (task : Nat) (s : State) : Host.Outcome State Fault Refusal :=
  match matrixStream s task with
  | some (k, .entry e) => if (gridOp e.instr).isSome then .next s else .next (matrixHead s task k matrixPerform)
  | some (k, .mode _ _) => if heldTask s k then .next s else .next (matrixHead s task k matrixPerform)
  | _ => .next s

/-- MMAG_MEET (R386): the product of a grid, once every member's MMAG stands at its queue's head. -/
def execMmagMeet (task : Nat) (s : State) : Host.Outcome State Fault Refusal :=
  match matrixStream s task with
  | some (k, .entry e) => if (gridOp e.instr).isSome then .next (matrixHead s task k matrixPerform) else .next s
  | _ => .next s

/-! Markers. -/

/-- MARKER_AT_HEAD (R208): a marker of a stream at the head of its vector queue, or of its task's matrix queue, is done; a copy
channel's is done when the transfers before it have retired. -/
def execMarkerAtHead (ctx : Nat) (s : State) : Host.Outcome State Fault Refusal :=
  let done := fun (s : State) (q : Nat) => s.modCtx ctx fun c => { c with markers := c.markers.filter fun m => m.queue ≠ q }
  let s := match (s.ctx ctx).vq with
    | .marker _ :: q =>
      let s := s.modCtx ctx fun c => { c with vq := q }
      if q.contains (.marker ctx) then s else done s 0
    | _ => s
  let s := match (s.ctx ctx).task with
    | none => s
    | some t => match s.task t with
      | none => s
      | some x => match x.mq with
        | .marker j :: q =>
          let s := s.setTask t (some { x with mq := q })
          if j ≠ ctx || q.contains (.marker ctx) then s else done s 1
        | _ => s
  .next (finishAccess (s.modCtx ctx fun c => { c with markers := liveMarkers s ctx }) ctx)

end Sys2Proof.Machine
end

