-- ==== Sys2Proof/Machine/Validate.lean ====
section
/-!
DEFINITION. Sys2Proof/Machine/Validate.lean: the launch unit: reading and checking a launch record (R446 to R449, Table 19.3), and
the completion record (R458). A step that does not apply to the state changes nothing (log entry 24, DESIGN CHOICE).
-/

namespace Sys2Proof.Machine

open Sys2Proof

/-- The part acting for a VD away from any core: its translations go through the first core's TLBs. -/
def unitClient (vd asn : Nat) : Client := partClient 0 vd asn

/-- A word of bytes at an offset. -/
def wordAt (bs : List Byte) (off : Nat) : Word := BitVec.ofNat 64 (wordOfBytes ((bs.drop off).take 8))

/-! Reading (R446 to R448). -/

/-- A node as the tables give it: its entry, template, successors and handle list. -/
structure RawNode where
  entry : List Byte
  templ : List Byte
  succ : List Nat
  hlist : List Byte

def RawNode.tmplVa (n : RawNode) : Word := wordAt n.entry 0
def RawNode.count (n : RawNode) : Nat := field (wordAt n.entry 8) 63 32
def RawNode.deps (n : RawNode) : Nat := field (wordAt n.entry 8) 31 16
def RawNode.nsucc (n : RawNode) : Nat := field (wordAt n.entry 8) 15 0
def RawNode.xpc (n : RawNode) : Word := wordAt n.templ 0
def RawNode.apc (n : RawNode) : Word := wordAt n.templ 8
def RawNode.energy (n : RawNode) : Nat := field (wordAt n.templ 0x18) 63 32
def RawNode.csize (n : RawNode) : Nat := field (wordAt n.templ 0x18) 25 20
def RawNode.bar (n : RawNode) : Nat := field (wordAt n.templ 0x18) 19 18
def RawNode.nh (n : RawNode) : Nat := field (wordAt n.templ 0x18) 6 0

/-- Stokers the tasks of a node need when all run at once. -/
def RawNode.stokers (n : RawNode) : Nat := if n.apc = 0 then n.count else 2 * n.count

/-- 16-bit indices. -/
def indices : List Byte → List Nat
  | a :: b :: rest => (a.toNat + 256 * b.toNat) :: indices rest
  | _ => []

/-- Read a node and everything it names, within the bounds of order 3. -/
def readNode (cl : Client) (va : Nat) : Op RawNode := do
  let entry ← agentRead cl va 32
  let templ ← agentRead cl (wordAt entry 0).toNat 64
  let n : RawNode := { entry := entry, templ := templ, succ := [], hlist := [] }
  let succ ← agentRead cl (wordAt entry 0x10).toNat (2 * min n.nsucc 4096)
  let hlist ← agentRead cl (wordAt templ 0x20).toNat (32 * min n.nh 64)
  pure { n with succ := indices succ, hlist := hlist }

/-- A launch record's fields. -/
def recNodes (r : List Byte) : Nat := field (wordAt r 0) 15 0

def readNodes (r : List Byte) (vd : Nat) : Op (List RawNode) :=
  (List.range (min (recNodes r) 4096)).mapM fun i =>
    readNode (unitClient vd (field (wordAt r 0) 31 24)) (((wordAt r 8).toNat + 32 * i) % 2 ^ 64)

/-! The checks of Table 19.3. -/

def misaligned (w : Word) (n : Nat) : Bool := w.toNat % n ≠ 0

/-- Order 3, the record's own part. -/
def badRecord (r : List Byte) : Bool :=
  field (wordAt r 0) 23 17 ≠ 0 || recNodes r = 0 || decide (4096 < recNodes r) || misaligned (wordAt r 0x08) 32 ||
    misaligned (wordAt r 0x18) 4096 || misaligned (wordAt r 0x28) 64 || misaligned (wordAt r 0x30) 16 ||
    (List.range 9).any fun j => wordAt r (0x38 + 8 * j) ≠ 0

/-- Order 3, a node's part. -/
def badNode (n : RawNode) : Bool :=
  let w := wordAt n.templ 0x18
  wordAt n.entry 0x18 ≠ 0 || field w 31 29 ≠ 0 || field w 17 7 ≠ 0 || ((List.range 3).any fun j => wordAt n.templ (0x28 + 8 * j) ≠ 0) ||
    misaligned n.tmplVa 64 || misaligned (wordAt n.entry 0x10) 2 || misaligned n.xpc 8 || misaligned n.apc 8 ||
    misaligned (wordAt n.templ 0x20) 32 || decide (4096 < n.nsucc) || decide (64 < n.nh)

/-- Edges into each node. -/
def edgesIn (ns : List RawNode) : List Nat :=
  let hit := ns.foldl (fun m n => n.succ.foldl (fun m j => SMap.set 0 m j (SMap.get 0 m j + 1)) m) ([] : SMap Nat)
  (List.range ns.length).map fun j => SMap.get 0 hit j

/-- Remove nodes without an edge from one not removed, as long as there are any: what is left holds a cycle. -/
def withoutSources (succ : List (Nat × List Nat)) : Nat → List Nat → List Nat
  | 0, left => left
  | fuel + 1, left =>
    let held := succ.foldl (fun a x => if left.contains x.1 then x.2 ++ a else a) ([] : List Nat)
    let rest := left.filter fun j => held.contains j
    if rest.length = left.length then left else withoutSources succ fuel rest

/-- Order 5. -/
def badGraph (ns : List RawNode) : Bool :=
  let k := ns.length
  ns.any (fun n => n.succ.any fun j => decide (k ≤ j)) || ((ns.zip (edgesIn ns)).any fun x => decide (x.1.deps < x.2)) ||
    !(withoutSources ((ns.zipIdx).map fun x => (x.2, x.1.succ)) (k + 1) (List.range k)).isEmpty

/-- Stokers of a VD in the kiln where it holds most, and in the module. -/
def mostStokers (s : State) (vd : Nat) : Nat := (List.range 8).foldl (fun a k => max a (kilnStokers s vd k)) 0
def allStokers (s : State) (vd : Nat) : Nat := (List.range 8).foldl (fun a k => a + kilnStokers s vd k) 0

/-- Order 6, for one node. -/
def badShape (s : State) (vd : Nat) (n : RawNode) : Bool :=
  n.csize = 1 || decide (32 < n.csize) || (decide (0 < n.csize) && n.count % n.csize ≠ 0) || (n.bar = 1 && n.csize = 0) ||
    (n.bar = 2 && decide (mostStokers s vd < n.stokers)) || (n.bar = 3 && decide (allStokers s vd < n.stokers)) ||
    decide (field (s.vd vd).refill 31 0 < n.energy)

/-- The tasks of a node that must run at once: a cord, or a whole KILN or PACKAGE node. -/
def RawNode.group (n : RawNode) : Nat := if 2 ≤ n.bar then n.count else if 0 < n.csize then n.csize else 0

/-- Order 7. -/
def badResource (r : List Byte) (ns : List RawNode) : Bool :=
  let need := max 1 (ns.foldl (fun a n => max a n.group) 0)
  decide (field (wordAt r 0x20) 63 32 < need) || decide (field (wordAt r 0x20) 31 0 < need)

/-- Orders 3 to 8: the status, 0 when the launch passes. -/
def launchStatus (s : State) (vd : Nat) (r : List Byte) (ns : List RawNode) : Nat :=
  if badRecord r || ns.any badNode then 5
  else if ns.any fun n => decide (2 ^ 24 ≤ n.count) then 2
  else if badGraph ns then 6
  else if ns.any (badShape s vd) then 7
  else if badResource r ns then 8
  else if ns.all fun n => n.count = 0 then 1
  else 0

/-! A live launch. -/

/-- The entries of a handle list. -/
def handleEntries (bs : List Byte) : Nat → List (Nat × Bool × Word × Word × Word)
  | 0 => []
  | n + 1 =>
    let w := wordAt bs 0
    (field w 5 0, bit w 15, wordAt bs 8, wordAt bs 0x10, wordAt bs 0x18) :: handleEntries (bs.drop 32) n

/-- A node of a launch that passes. -/
def RawNode.node (n : RawNode) : Node :=
  { deps := n.deps, count := n.count, succ := n.succ, xpc := n.xpc, apc := n.apc, arg := wordAt n.templ 0x10, energy := n.energy,
    prio := field (wordAt n.templ 0x18) 28 26, csize := n.csize, bar := n.bar, hlist := handleEntries n.hlist n.nh }

def newLaunch (vd q vec st : Nat) (r : List Byte) (ns : List Node) : Launch :=
  let w := wordAt r 0
  { vd := vd, queue := q, vec := vec, lid := field w 63 32, asn := field w 31 24, irq := bit w 16, args := wordAt r 0x10,
    frames := wordAt r 0x18, nframes := field (wordAt r 0x20) 63 32, conts := wordAt r 0x28, nconts := field (wordAt r 0x20) 31 0,
    compl := wordAt r 0x30, nodes := ns, status := st }

/-- Start a launch: nodes without dependences are ready; those among them without tasks complete (R449). -/
def startLaunch (s : State) (l : Nat) : State :=
  match s.launch l with
  | none => s
  | some x =>
    let ready := fun (n : Node) => if n.deps = 0 then n.makeReady (divide s x.vd n 0 n.count 0) else n
    let x := { x with nodes := x.nodes.map ready }
    (s.setLaunch l (some x)).lower l ((x.nodes.filter fun n => n.complete).flatMap (·.succ))

/-! The completion record (R458, Table 19.4). -/

def Launch.record (x : Launch) (now : Nat) : List Byte :=
  wordBytes [x.status * 2 ^ 56 + (if x.gu then 2 ^ 55 else 0) + (if x.ds then 2 ^ 54 else 0) + x.lid % 2 ^ 32, now]

/-- Write a launch's completion record, signal its vector; the launch is then no longer in flight. A write that faults is
reported and signals nothing. -/
def finishLaunch (s : State) (l : Nat) : State :=
  match s.launch l with
  | none => s
  | some x =>
    match agentTry (agentWrite (unitClient x.vd x.asn) x.compl.toNat (x.record s.now) false) s with
    | (s', .waits, _) => s'
    | (s', .done, _) =>
      let s' := s'.setLaunch l none
      if x.irq then signalVector s' x.vd x.vec else s'
    | (s', .faulted, _) => errorRecord (s'.setLaunch l none) x.vd 4 x.queue 0 x.lid x.compl 0

/-- LAUNCH_COMPLETION: every node of the launch has completed, or the launch was rejected and its record still waits. -/
def execLaunchCompletion (launch : Nat) (s : State) : Host.Outcome State Fault Refusal :=
  match s.launch launch with
  | none => .next s
  | some x => if x.nodes.all fun n => n.complete then .next (finishLaunch s launch) else .next s

/-! LAUNCH_VALIDATE. -/

def State.queue (s : State) (vd q : Nat) : WorkQueue := SMap.get {} (s.vd vd).queues q
def State.setQueue (s : State) (vd q : Nat) (x : WorkQueue) : State :=
  s.modVd vd fun v => { v with queues := SMap.set {} v.queues q x }

/-- The number of slots of a ring. -/
def WorkQueue.slots (x : WorkQueue) : Nat := 2 ^ field x.base 3 0

/-- The record of a ring slot, by guest-physical address through stage 2: none when stage 2 fails, else the read. -/
def readSlot (s : State) (vd : Nat) (gpa : Nat) : Option (State × AgentEnd × Option (List Byte)) :=
  match guestPlace s vd gpa .load with
  | (.error (.wait _), s) => some (s, .waits, none)
  | (.error _, _) => none
  | (.ok h, s) => some (agentTry (do
      let cl := unitClient vd 0
      let v ← consume cl { line := h / 128, va := BitVec.ofNat 64 gpa, key := slotKey s vd 0, vd := vd } .load
      pure (bytesOfNat 128 v.data.toNat)) s)

/-- A record that has been read: rejected with a status, or live (R449). A rejected launch's completion record is written at once. -/
def takeRecord (s : State) (vd q st : Nat) (r : List Byte) (ns : List RawNode) : State :=
  let x := s.queue vd q
  let s := s.setQueue vd q { x with rd := (x.rd + 1) % (2 * x.slots) }
  let l := s.nextLaunch
  let s := { s with nextLaunch := l + 1 }
  if st = 0 then startLaunch (s.setLaunch l (some (newLaunch vd q x.vec 0 r (ns.map (·.node))))) l
  else finishLaunch (s.setLaunch l (some (newLaunch vd q x.vec st r []))) l

/-- LAUNCH_VALIDATE (R448): the next record of a queue is read, checked by Table 19.3, and made live or rejected. While 4,096
launches are in flight it waits; a slot that stage 2 does not give puts the queue in ERROR (Table 20.3); without a stage 2 there is no
record to read, and the launch is rejected with NO_VD (R29). -/
def execLaunchValidate (vd q : Nat) (s : State) : Host.Outcome State Fault Refusal :=
  let x := s.queue vd q
  if x.state ≠ 1 || x.rd = x.wr || decide (4096 ≤ s.launches.length) || (s.vd vd).rst then .next s
  else if !bit (s.vd vd).s2root 0 then .next (takeRecord s vd q 3 [] [])
  else
    let gpa := field x.base 51 7 * 128 + 128 * (x.rd % x.slots)
    match readSlot s vd gpa with
    | none => .next (errorRecord (s.setQueue vd q { x with state := 2 }) vd 1 q 0 0 (BitVec.ofNat 64 gpa) 0)
    | some (s', .waits, _) => .next s'
    | some (s', .faulted, _) => .next (takeRecord s' vd q 4 [] [])
    | some (s', .done, r) =>
      let r := r.getD []
      if !(s.vd vd).lock then .next (takeRecord s' vd q 3 r [])
      else match agentTry (readNodes r vd) s' with
        | (s', .waits, _) => .next s'
        | (s', .faulted, _) => .next (takeRecord s' vd q 4 r [])
        | (s', .done, ns) =>
          let ns := ns.getD []
          .next (takeRecord s' vd q (launchStatus s' vd r ns) r ns)

end Sys2Proof.Machine
end

