-- ==== Sys2Proof/Machine/Flue.lean ====
section
/-!
DEFINITION. Sys2Proof/Machine/Flue.lean: the flues (R450 to R455, R507): tasks made from ready nodes, released from their waits,
chosen and dispatched, alone or as gangs; what a task does before its first instruction (R234, R274, R506); tasks that leave,
end, or are asked to make room. A step that does not apply to the state changes nothing (log entry 24, DESIGN CHOICE).
-/

namespace Sys2Proof.Machine

open Sys2Proof

/-! Tasks of the machine. -/

/-- Every task that p selects, with its number. -/
def State.tasksWhere (s : State) (p : Task → Bool) : List (Nat × Task) :=
  s.tasks.filterMap fun x => match x.2 with
    | some t => if p t then some (x.1, t) else none
    | none => none

/-- The stokers a task needs (R235, R452). -/
def Task.need (x : Task) : Nat := if x.accessFlag then 2 else 1

/-! Creation (R451, R507). -/

/-- The lowest CR slot, and the lowest frame, that no task of a launch has (R242 asks for one of the pool's: log entry 63, DESIGN CHOICE). -/
def freeSlotOf (s : State) (l : Nat) (n : Nat) (f : Task → Nat) : Option Nat :=
  let used := (s.tasksWhere fun t => t.launch = l).map fun t => f t.2
  (List.range (used.length + 1)).find? fun j => decide (j < n) && !used.contains j

/-- A kiln can hold a whole gang of a node: stokers for every task of a KILN node, cores for every member of a cord, with those of
the kiln's partner for a cord of more than 24 (R246, R450). -/
def holdsGang (s : State) (vd kiln : Nat) (n : Node) : Bool :=
  let need := if n.apc = 0 then 1 else 2
  let cores := fun (k : Nat) => ((List.range 24).filter fun j => decide (need ≤ coreStokers s vd (24 * k + j))).length
  if n.bar = 2 then decide (need * n.count ≤ kilnStokers s vd kiln)
  else if n.csize ≤ 24 then decide (n.csize ≤ cores kiln)
  else cores kiln = 24 && decide (n.csize ≤ 24 + cores (kiln ^^^ 1))

/-- The index a flue makes next of a node, its ARG, and the runs left: from the kiln's own run; from a gang's that no kiln has yet
taken, which the kiln then takes whole; or the upper half of another kiln's (R450). -/
def takeIndex (s : State) (vd kiln : Nat) (n : Node) : Option (Nat × Word × List (Nat × Nat × Nat × Word)) :=
  match n.runs.find? fun r => r.1 = kiln with
  | some r => some (r.2.1, r.2.2.2, n.runs.flatMap fun x =>
      if x = r then (if x.2.1 + 1 < x.2.2.1 then [(kiln, x.2.1 + 1, x.2.2.1, x.2.2.2)] else []) else [x])
  | none =>
    match n.runs.find? fun r => r.1 = 8 with
    | some (_, lo, hi, arg) =>
      if !holdsGang s vd kiln n then none
      else
        let upto := if n.bar = 2 || n.csize = 0 then hi else min hi (lo + n.csize)
        let mine := if lo + 1 < upto then [(kiln, lo + 1, upto, arg)] else []
        let rest := if upto < hi then [(8, upto, hi, arg)] else []
        some (lo, arg, n.runs.flatMap fun x => if x = (8, lo, hi, arg) then mine ++ rest else [x])
    | none =>
      if n.whole || n.bar = 3 || ((s.kiln kiln).ready.any fun t => (s.task t).any fun y => y.vd = vd) then none
      else match n.runs.find? fun r => decide (r.2.1 + 2 ≤ r.2.2.1) && decide (0 < kilnStokers s vd kiln) with
        | some (k, lo, hi, arg) =>
          let mid := lo + (hi - lo + 1) / 2
          let mine := if mid + 1 < hi then [(kiln, mid + 1, hi, arg)] else []
          some (mid, arg, n.runs.flatMap fun x => if x = (k, lo, hi, arg) then (k, lo, mid, arg) :: mine else [x])
        | none => none

/-- The task of an index (R232, Tables 9.1 to 9.6). -/
def newTask (s : State) (l : Nat) (x : Launch) (j : Nat) (n : Node) (kiln i : Nat) (arg : Word) (slot fr : Nat) : Task :=
  { vd := x.vd, asn := x.asn, launch := l, node := j, lid := x.lid, index := i, rank := if n.csize = 0 then 0 else i % n.csize,
    kiln := kiln, core := 24 * kiln, xpc := n.xpc, apc := n.apc,
    arg := if arg ≠ 0 then arg else if n.arg ≠ 0 then n.arg else x.args,
    frame := x.frames + BitVec.ofNat 64 (0x5000 * fr), frameSlot := fr, cr := x.conts + BitVec.ofNat 64 (64 * slot), crSlot := slot,
    prio := n.prio, accessFlag := n.apc ≠ 0, cord := n.cords, cszm1 := n.csize - 1, energy := n.energy, readySince := s.now }

/-- TASK_CREATE (R451): one task of a node, when a CR slot and a frame are free. A fault of its CR write counts it as discarded and
ended (R507). -/
def execTaskCreate (kiln launch node : Nat) (s : State) : Host.Outcome State Fault Refusal :=
  match s.launch launch with
  | none => .next s
  | some x =>
    match x.nodes[node]?, freeSlotOf s launch x.nconts (·.crSlot), freeSlotOf s launch x.nframes (·.frameSlot) with
    | some n, some slot, some fr =>
      if !n.ready || n.complete || 8 ≤ kiln then .next s
      else match takeIndex s x.vd kiln n with
        | none => .next s
        | some (i, arg, runs) =>
          let t := newTask s launch x node n kiln i arg slot fr
          let taken := fun (s : State) => setNode s launch node { n with runs := runs }
          match flueCr s t with
          | (s', .waits) => .next s'
          | (s', .faulted) => .next (countEnd (taken s') launch node i true)
          | (s', .done) =>
            let s' := taken s'
            .next (({ s' with nextTask := s'.nextTask + 1 }.setTask s'.nextTask (some t)).modKiln kiln fun y =>
              { y with ready := y.ready ++ [s'.nextTask] })
    | _, _, _ => .next s

/-! Release from a wait (R241, R251, Table 9.9). -/

/-- The sync word a suspended task waits on, every credit for it counted, kept ones among them (R244). -/
def waitWord (s : State) (x : Task) (h : Nat) : Word :=
  if x.wspill then (SMap.get {} x.kept h).sync else (s.entry x.core (entryIndex x.win h)).sync

/-- The release condition of a suspended task holds. A pre-empted task waits for nothing but its place. -/
def released (s : State) (x : Task) : Bool :=
  let due := match x.waitUntil with | some d => decide (d ≤ s.now) | none => false
  x.status = .suspended && (match x.reason with
    | .swait => genReached (waitWord s x (field x.waitObj 53 48)) (field x.waitObj 7 0)
    | .mwait => due || (match x.monitor with | some m => m.fired | none => true)
    | .suspend => due
    | .preempted => true
    | .none => true | .yield => true | .energy => true)

/-- A task becomes READY, at the tail of its queue, once its CR says so (R233). Its REASON is none again, PREEMPTED while PRE is 1, and its wait
object 0 (log entry 64, DESIGN CHOICE). -/
def makeTaskReady (s : State) (t : Nat) : State :=
  match s.task t with
  | none => s
  | some x =>
    let x' := { x with status := .ready, reason := if x.pre then .preempted else .none, waitObj := 0, waitUntil := none, monitor := none,
                       readySince := s.now }
    match flueCr s x' with
    | (s, .waits) => s
    | (s, .done) | (s, .faulted) => (s.setTask t (some x')).modKiln x.kiln fun y => { y with ready := y.ready ++ [t] }

/-- SUSPEND_DEADLINE, MWAIT_TIMEOUT (R241, R304). -/
def wakeIf (s : State) (t : Nat) (r : Reason) : State :=
  match s.task t with
  | none => s
  | some x =>
    if x.status = .suspended && x.reason = r && (match x.waitUntil with | some d => decide (d ≤ s.now) | none => false) then makeTaskReady s t
    else s

def execSuspendDeadline (task : Nat) (s : State) : Host.Outcome State Fault Refusal := .next (wakeIf s task .suspend)
def execMwaitTimeout (task : Nat) (s : State) : Host.Outcome State Fault Refusal := .next (wakeIf s task .mwait)

/-! Places (R452). -/

/-- Stokers of a core: those a VD's applied records own. -/
def vdStokers (s : State) (vd core : Nat) : List Nat :=
  let x := s.core core
  (List.range 4).filter fun j =>
    (bit x.part0A 0 && field x.part0A 6 1 = vd && bit x.part0A (19 + j)) || (bit x.part1A 0 && field x.part1A 6 1 = vd && bit x.part1A (19 + j))

/-- A stoker is free of any stream. -/
def stokerFree (s : State) (core j : Nat) : Bool := (s.ctx (ctxId core j)).task.isNone

/-- A stoker is kept for a gang other than a task's own. -/
def stokerReserved (s : State) (core j : Nat) (mine : List Nat) : Bool :=
  (s.kiln (kilnOf core)).reserved.any fun r => r.1 = core && r.2.1 = j && !mine.contains r.2.2

/-- Two tasks are members of one cord. -/
def sameCord (x y : Task) : Bool :=
  x.cord && y.cord && y.launch = x.launch && y.node = x.node && y.index / (y.cszm1 + 1) == x.index / (x.cszm1 + 1)

/-- A core is not for a task: a member of a cord has it, or it is another cord's, whose cores of its VD stay reserved until every member's HALT has
retired (R247). -/
def cordBusy (s : State) (x : Task) (core : Nat) : Bool :=
  !(s.tasksWhere fun y => y.cord && y.vd = x.vd && !(y.launch = x.launch && y.node = x.node && y.index = x.index) &&
    ((y.ran && y.core = core) || (!sameCord x y && y.cordCores.contains core))).isEmpty

/-- The free stokers a task may take on a core, of one partition; those of record 0 first. -/
def freeStokers (s : State) (x : Task) (mine : List Nat) (core : Nat) : List Nat :=
  let js := (vdStokers s x.vd core).filter fun j => stokerFree s core j && !stokerReserved s core j mine
  let part := fun (p : Nat) => js.filter fun j => partOf s (ctxId core j) = p
  if x.need ≤ (part 0).length then part 0 else part 1

/-- Windows of a core that no task has. -/
def freeWindows (s : State) (core : Nat) : List Nat :=
  let used := (s.tasksWhere fun y => y.core = core && y.seated).map fun y => y.2.win
  (List.range 16).filter fun w => !used.contains w

/-- A task has affinity to a core on which its VD holds no stoker any more: it resumes on another of its kiln (R470). -/
def coreLost (s : State) (x : Task) : Bool := x.av && coreStokers s x.vd x.core = 0

/-- A task fits a core. -/
def fits (s : State) (x : Task) (mine : List Nat) (core : Nat) : Bool :=
  decide (x.need ≤ (freeStokers s x mine core).length) && (!x.av || x.core = core || coreLost s x) &&
    ((x.ran && !x.wspill) || !(freeWindows s core).isEmpty) && !cordBusy s x core

/-- The core of some that a task goes to: most free stokers, then the lowest number. -/
def bestCore (s : State) (x : Task) (mine cores : List Nat) : Option Nat :=
  (cores.filter (fits s x mine)).foldl (fun b c => match b with
    | none => some c
    | some d => if (freeStokers s x mine d).length < (freeStokers s x mine c).length then some c else some d) none

def kilnCores (kiln : Nat) : List Nat := (List.range 24).map fun j => 24 * kiln + j

/-! Taking a task up. -/

/-- A stream's state at task start (Table 9.8). -/
def startCtx (t : Nat) (x : Task) (access : Bool) : Ctx :=
  let c : Ctx := { live := true, task := some t, access := access, vd := x.vd, asn := x.asn, pc := if access then x.apc else x.xpc }
  (((c.setS 1 x.arg).setS 2 (BitVec.ofNat 64 x.index)).setS 3 (BitVec.ofNat 64 x.rank)).setS 4 x.frame

/-- A stream's state when its task resumes; s1 to s8 are read from the frame (R240, R506). -/
def resumeCtx (t : Nat) (x : Task) (access : Bool) : Ctx :=
  { live := true, task := some t, access := access, vd := x.vd, asn := x.asn, pc := if access then x.apc else x.xpc,
    markers := if access then [] else x.markers }

/-- Markers of a queue named by the contexts their streams now run in. -/
def renameMarkers (names : List (Nat × Nat)) (q : List QItem) : List QItem :=
  q.map fun i => match i with
    | .marker k => .marker ((names.find? fun n => n.1 = k).map (·.2) |>.getD k)
    | .entry e => .entry e
    | .mode m e => .mode m e

/-- A register file as a save area gives it back (R443): the registers of SAVED to their VLS columns, every other as at task
start. -/
def restoredRows (regs : Word) (vls : List Nat) (rows : SMap Row) : SMap Row :=
  rows.filterMap fun x =>
    let v := x.1 / 16
    if bit regs v then
      let n := vls.getD v 0
      some (x.1, { x.2 with data := Vector.ofFn fun (j : Fin 64) => if j.val < n then x.2.data[j] else 0 })
    else none

/-- Put a pre-empted task's streams and tiles back (R443). -/
def restoreTask (s : State) (t : Nat) (x : Task) (ks : List Nat) : State :=
  let names := (x.saved.map (·.1)).zip ks
  let put := fun (s : State) (y : ((Nat × Ctx) × Nat) × (Word × List Nat)) =>
    s.setCtx y.1.2 { y.1.1.2 with rows := SMap.set {} (restoredRows y.2.1 y.2.2 y.1.1.2.rows) (16 * 32) {}, vdirty := 0,
                                  vq := renameMarkers names y.1.1.2.vq, fetched := [] }
  let s := ((x.saved.zip ks).zip x.savedRegs).foldl put s
  s.setTask t (some { x with xctx := ks[0]?, actx := ks[1]?, pre := false, saved := [], mq := renameMarkers names x.mq })

/-- The CR of a task that has been dispatched shows RUNNING before the task does anything (R233, R507). -/
def writeRunning (s : State) (t : Nat) : State :=
  match s.task t with
  | none => s
  | some x =>
    match flueCr s { x with crDue := false } with
    | (s, .waits) => s.modTask t fun y => { y with crDue := true }
    | (s, .done) | (s, .faulted) => s.modTask t fun y => { y with crDue := false }

/-- A member of a cord has another core than before (R470): its mates know it. -/
def moveCord (s : State) (x : Task) (core : Nat) : State :=
  if x.core = core then s
  else (s.tasksWhere fun y => sameCord x y).foldl (fun s y => s.modTask y.1 fun z =>
    { z with cordCores := z.cordCores.map fun c => if c = x.core then core else c }) s

/-- Dispatch a task to a core (R452): its streams take the lowest free stokers, and it the lowest free window (R107, R234 say only that it
is free: log entry 50, DESIGN CHOICE); a new task's window is cleared and its handle list is still to be set, a resumed task's frame
still to be read. -/
def dispatch (s : State) (t core : Nat) (mine : List Nat) : State :=
  match s.task t with
  | none => s
  | some x =>
    let js := freeStokers s x mine core
    let live := x.accessFlag && x.apc ≠ 0
    let ks := ((js.take (if x.pre then x.saved.length else if live then 2 else 1)).map fun j => ctxId core j)
    let win := if x.ran && !x.wspill then x.win else (freeWindows s core).headD 0
    let fresh := !x.ran
    let x' := { x with status := .running, reason := .none, core := core, win := win, ran := true, runSince := s.now, energyWait := false,
                       preReq := false, preqReg := false }
    let s := s.modKiln x.kiln fun y => { y with ready := y.ready.filter (fun j => j ≠ t), reserved := y.reserved.filter fun r => r.2.2 ≠ t }
    let s := if x.pre then restoreTask s t x' ks
      else
        let x' := { x' with xctx := ks[0]?, actx := ks[1]?, boot := some (if fresh then .handles 0 else if coreLost s x then .moved else .frame) }
        let mk := fun (a : Bool) => if fresh then startCtx t x a else resumeCtx t x a
        let s := match ks[0]? with | some k => s.setCtx k (mk false) | none => s
        let s := match ks[1]? with | some k => s.setCtx k (mk true) | none => s
        let s := if x.ran && !x.wspill then s else (List.range 64).foldl (fun s h => s.setEntry core (entryIndex win h) {}) s
        s.setTask t (some x')
    writeRunning (unparkRequests (moveCord s x core) t ks) t

/-- Reserve a task's energy from its account; a task that goes on after pre-emption reserves none (R453, R476). -/
def reserveEnergy (s : State) (t : Nat) : Option State :=
  match s.task t with
  | none => none
  | some x =>
    if x.energy = 0 || x.pre then some s
    else if 0 < (s.vd x.vd).rem && (x.energy : Int) ≤ (s.vd x.vd).rem then
      some ((s.modVd x.vd fun v => { v with rem := v.rem - x.energy }).setTask t (some { x with ebud := x.energy }))
    else none

/-- A task that its account cannot take yet is set aside until the next refill (R453, R507). -/
def setAside (s : State) (t : Nat) : State :=
  match s.task t with
  | none => s
  | some x =>
    let x' := { x with reason := .energy, energyWait := true }
    match flueCr s x' with
    | (s, .waits) => s.setTask t (some { x' with crDue := true })
    | (s, .done) | (s, .faulted) => s.setTask t (some x')

/-! Gangs (R247, R248, R454). -/

/-- The tasks that are dispatched with a task: a cord's, a KILN or PACKAGE node's, when none of them has run; the members of a cord
that were pre-empted together; else the task alone. -/
def gangOf (s : State) (t : Nat) (x : Task) : List Nat :=
  match (s.launch x.launch).bind fun l => l.nodes[x.node]? with
  | none => [t]
  | some n =>
    let same := fun (y : Task) => y.launch = x.launch && y.node = x.node &&
      (2 ≤ n.bar || sameCord x y)
    if x.pre && x.cord then (s.tasksWhere fun y => same y && y.pre).map (·.1)
    else if x.ran || !(x.cord || decide (2 ≤ n.bar)) then [t]
    else (s.tasksWhere fun y => same y && !y.ran).map (·.1)

/-- The tasks a gang must have before it can start. -/
def gangSize (s : State) (t : Nat) (x : Task) : Nat :=
  match (s.launch x.launch).bind fun l => l.nodes[x.node]? with
  | none => 1
  | some n => if x.ran then (gangOf s t x).length else if 2 ≤ n.bar then n.count else if x.cord then x.cszm1 + 1 else 1

/-- A cord of 25 to 32 cores, which lies in two kilns (R246). -/
def Task.wide (x : Task) : Bool := x.cord && decide (24 ≤ x.cszm1)

/-- The cores a gang's member may go to: those reserved for the gang, if any; else its kiln's, with the partner's for a wide cord, or
for a PACKAGE node, the cores of the kiln it was made in. A member of a cord that has run has its own for life (R247). -/
def gangCores (s : State) (x : Task) (mine : List Nat) : List Nat :=
  let kept := ((s.kilns.flatMap fun k => k.2.reserved).filter fun r => mine.contains r.2.2).map (·.1)
  let all := if x.cord && x.ran then [x.core] else kilnCores x.kiln ++ (if x.wide then kilnCores (x.kiln ^^^ 1) else [])
  if kept.isEmpty then all else all.filter fun c => kept.contains c

/-- A placed cord's cores, known to each member for the cord's life (R246). -/
def joinCord (s : State) (t : Nat) : State :=
  match s.task t with
  | some x =>
    if x.cord && x.cordCores.isEmpty then s.modTask t fun y => { y with cordCores := (s.tasksWhere fun z => z.ran && sameCord x z).map fun z => z.2.core } else s
  | none => s

/-- Dispatch the members of a gang one after another; none when some member does not fit. A cord's members take a core each, a wide one's
all the cores of its home kiln first (R246). -/
def placeGang (mine : List Nat) : List Nat → List Nat → State → Option State
  | [], _, s => some (mine.foldl joinCord s)
  | t :: ts, used, s =>
    match s.task t with
    | none => none
    | some x =>
      if x.status ≠ .ready then none
      else
        let home := ((s.tasksWhere fun z => z.ran && sameCord x z).filter fun z => kilnOf z.2.core = x.kiln).length
        let cores := (gangCores s x mine).filter fun c => !(x.cord && used.contains c) &&
          (!x.wide || x.ran || (decide (kilnOf c = x.kiln) == decide (home < 24)))
        match bestCore s x mine cores with
        | none => none
        | some c =>
          let s := dispatch s t c mine
          placeGang mine ts (c :: used) s

/-- Reserve the energy of every member, or of none. -/
def reserveAll : List Nat → State → Option State
  | [], s => some s
  | t :: ts, s => (reserveEnergy s t).bind (reserveAll ts)

/-- The stokers a gang that does not fit keeps for itself (R454): those of its VD on the cores it will run on. -/
def reserveCores (s : State) (t : Nat) (x : Task) (n : Nat) : State :=
  let all := ((gangOf s t x).flatMap fun u => match s.task u with | some y => gangCores s y [] | none => []).eraseDups
  let cores := all.filter fun c => decide (x.need ≤ (vdStokers s x.vd c).length)
  let cores := if x.cord then cores.take n else cores
  let rs := cores.flatMap fun c => (vdStokers s x.vd c).map fun j => (c, j, t)
  cores.foldl (fun s c => s.modKiln (kilnOf c) fun y =>
    { y with reserved := y.reserved ++ rs.filter (fun r => r.1 = c), gangSince := some (y.gangSince.getD s.now) }) s

/-! A round (R452). -/

/-- PRIO raised by 1 for each 256 rounds of waiting. -/
def effectivePrio (s : State) (x : Task) : Nat := min 7 (x.prio + (s.now - x.readySince) / 4096)

/-- The READY tasks of a kiln, of a VD that may run, that are not set aside. -/
def readyTasks (s : State) (kiln : Nat) : List (Nat × Task) :=
  (s.kiln kiln).ready.filterMap fun t => match s.task t with
    | some x => if x.status = .ready && !x.energyWait && vdEnabled s x.vd then some (t, x) else none
    | none => none

/-- The cores that take a task by itself: its kiln's, or the own one of a cord's member that has run, wherever that lies (R247). -/
def soloCores (s : State) (kiln : Nat) (x : Task) : List Nat := if x.cord && x.ran && !coreLost s x then [x.core] else kilnCores kiln

/-- Whether a task, with its gang, could be placed now on cores that have had no dispatch in this round. -/
def placeable (s : State) (kiln : Nat) (done : List Nat) (t : Nat) (x : Task) : Bool :=
  let g := gangOf s t x
  if gangSize s t x ≤ 1 then (bestCore s x [t] ((soloCores s kiln x).filter fun c => !done.contains c)).isSome
  else g.length = gangSize s t x && (placeGang g g [] s).isSome

/-- 1 to 255 divide it, so that a share divides a round's stoker-cycles exactly. -/
def shareScale : Nat := (List.range 255).foldl (fun a j => Nat.lcm a (j + 1)) 1

def share (s : State) (vd : Nat) : Nat := max 1 (field (s.vd vd).cfg 63 56)

/-- Virtual times after one round: each VD's advances by the stoker-cycles its tasks hold over its share; a VD that has a READY task
again takes the least of those served (R452). -/
def advanceTimes (s : State) (kiln : Nat) : State :=
  let y := s.kiln kiln
  let held := fun (vd : Nat) => ((kilnCores kiln).flatMap fun c => (List.range 4).filter fun j =>
    (s.ctx (ctxId c j)).task.isSome && (s.ctx (ctxId c j)).vd = vd).length
  let t := (List.range 64).foldl (fun m vd =>
    if held vd = 0 then m else SMap.set 0 m vd (SMap.get 0 m vd + 16 * held vd * (shareScale / share s vd))) y.vtime
  let now := ((readyTasks s kiln).map fun x => x.2.vd).eraseDups
  let least := (y.served.map (SMap.get 0 t)).foldl (fun (b : Option Nat) v => match b with | some w => some (min v w) | none => some v) none
  let t := now.foldl (fun m vd => if y.served.contains vd then m else match least with | some v => SMap.set 0 m vd v | none => m) t
  s.modKiln kiln fun y => { y with vtime := t, served := now }

/-- The task chosen: of the VD with the least virtual time, one that waits for energy first, else the highest effective priority, the
oldest first. -/
def chooseTask (s : State) (kiln : Nat) (cands : List (Nat × Task)) : Option (Nat × Task) :=
  let vt := fun (x : Nat × Task) => SMap.get 0 (s.kiln kiln).vtime x.2.vd
  let before := fun (a b : Nat × Task) =>
    if vt a ≠ vt b then decide (vt a < vt b)
    else if a.2.vd ≠ b.2.vd then decide (a.2.vd < b.2.vd)
    else if (a.2.reason = .energy) ≠ (b.2.reason = .energy) then a.2.reason = .energy
    else if a.2.reason = .energy then decide (a.2.readySince < b.2.readySince)
    else if effectivePrio s a.2 ≠ effectivePrio s b.2 then decide (effectivePrio s b.2 < effectivePrio s a.2)
    else decide (a.2.readySince < b.2.readySince)
  cands.foldl (fun b x => match b with
    | none => some x
    | some y => if before x y then some x else some y) none

/-- The dispatches of a round: `done` holds the cores that have had theirs. -/
def dispatchAll (kiln : Nat) : Nat → List Nat → State → State
  | 0, _, s => s
  | fuel + 1, done, s =>
    let ready := readyTasks s kiln
    match chooseTask s kiln (ready.filter fun x => placeable s kiln done x.1 x.2) with
    | none => s
    | some (t, x) =>
      let g := gangOf s t x
      let mine := if gangSize s t x ≤ 1 then [t] else g
      match reserveAll mine s with
      | none => dispatchAll kiln fuel done (mine.foldl setAside s)
      | some s' =>
        if gangSize s t x ≤ 1 then
          match bestCore s' x [t] ((soloCores s' kiln x).filter fun c => !done.contains c) with
          | none => s
          | some c => dispatchAll kiln fuel (c :: done) (dispatch s' t c [t])
        else match placeGang g g [] s' with
          | none => s
          | some s' => dispatchAll kiln fuel done s'

/-- A gang that is complete and does not fit reserves the cores on which it will run, one gang at a time in a kiln (R454). -/
def reserveGang (s : State) (kiln : Nat) : State :=
  let live := fun (y : Kiln) => { y with reserved := y.reserved.filter fun r => match s.task r.2.2 with
    | some x => x.status = .ready | none => false }
  let s := s.modKiln kiln live
  let s := s.modKiln kiln fun y => if y.reserved.isEmpty then { y with gangSince := none } else y
  if !(s.kiln kiln).reserved.isEmpty then s
  else
    let gangs := (readyTasks s kiln).filter fun x => 1 < gangSize s x.1 x.2 && (gangOf s x.1 x.2).length = gangSize s x.1 x.2
    match chooseTask s kiln gangs with
    | none => s
    | some (t, x) => if placeable s kiln [] t x then s else reserveCores s t x (gangSize s t x)

/-- The CR of a task that does not run, which could not be written before, is written; a task that has ended is gone with it (R233, R457). -/
def writeDueCr (s : State) (t : Nat) : State :=
  match s.task t with
  | none => s
  | some x =>
    match flueCr s { x with crDue := false } with
    | (s, .waits) => s
    | (s, .done) | (s, .faulted) =>
      if x.status = .discarded then countEnd (s.setTask t none) x.launch x.node x.index true
      else s.modTask t fun y => { y with crDue := false }

/-- FLUE_ROUND (R452): CRs that wait for a line are written and tasks whose wait is over become READY; then dispatches, at most one to a core
but for gangs. -/
def execFlueRound (kiln : Nat) (s : State) : Host.Outcome State Fault Refusal :=
  let s := (s.tasksWhere fun x => x.kiln = kiln && x.crDue && x.status ≠ .running).foldl (fun s x => writeDueCr s x.1) s
  let wake := (s.tasksWhere fun x => x.kiln = kiln && released s x).map (·.1)
  let s := advanceTimes (wake.foldl makeTaskReady s) kiln
  let s := dispatchAll kiln (s.tasks.length + 1) [] s
  .next (reserveGang s kiln)

/-! What a dispatched task does first (R274, R506). -/

/-- One entry of the handle list, as HALLOC or HBIND would set it. -/
def bootHandle (k : Nat) (x : Task) (h : Nat × Bool × Word × Word × Word) : Op Unit := do
  let (n, ba, rs, ra, bind) := h
  let s ← get
  let cl := clientOf s k
  let i := entryIndex x.win n
  require (!(s.entry x.core i).valid) .handleInvalid (BitVec.ofNat 64 (64 + n))
  checkWords rs ra
  let bind ← if ba then (do return BitVec.ofNat 64 (← loadScalar cl ((x.arg + bind).toNat) 8)) else pure bind
  if field ra 8 6 ≤ 2 then
    let st ← hallocAt k x.core x.vd i rs ra
    require (st = 0) .handleInvalid (BitVec.ofNat 64 st)
  else hbindAt cl i bind rs ra

/-- A location names no bit beyond its level's fields, and granules enough for the footprint (R111, R112, R506). -/
def HEntry.locOk (e : HEntry) : Bool :=
  let grans := (e.footprint + 31) / 32
  if e.level = lvCore then decide (e.locv < 2 ^ 19) && decide (grans ≤ e.locv / 512)
  else if e.level = lvKiln then decide (e.locv < 2 ^ 34) && decide (grans ≤ e.locv / 2 ^ 17)
  else if e.level = lvPackage then decide (e.locv < 2 ^ 34) && decide ((grans + 7) / 8 ≤ e.locv / 2 ^ 17)
  else e.level = lvMem || decide (e.locv < 2 ^ 44)

/-- An entry as a frame's four words give it, with what the part keeps of it beside them; invalid when a reserved field or encoding,
or the record of its granules, refuses it (R506). -/
def frameEntry (s : State) (x : Task) (kept : HEntry) (w : List Word) (add : Nat) : HEntry :=
  let at' := fun (j : Nat) => w.getD j 0
  let same := kept.valid && kept.owner = field (at' 1) 47 32
  let e : HEntry := { (if same then kept else {}) with sync := creditWord (at' 0) add, info := at' 1, shape := at' 2, loc := at' 3 }
  let e := if same then e else { e with fmt0 := e.fmt }
  let bad := decide (4 < e.level) || (Fmt.ofCode e.fmt).isNone || field e.shape 3 0 ≠ 0 || e.res = 3 || bit e.loc 0 ||
    !(e.shp.ok e.rankM1) || !e.locOk || (granulesOf x.core e).any fun g => let o := s.owner x.core g; o.kiln ≠ kilnOf x.core || o.owner ≠ e.owner
  if e.valid && bad then { e with info := e.info &&& 0x7FFFFFFFFFFFFFFF } else e

/-- Words at an address of the part's reading. -/
def frameWords (cl : Client) (va n : Nat) : Op (List Word) := do
  let bs ← agentRead cl va (8 * n)
  pure ((List.range n).map fun j => wordAt bs (8 * j))

/-- The credit kept for an entry of a task whose window lies in its frame (R244). -/
def keptCredit (s : State) (t h owner : Nat) : Nat :=
  s.kilns.foldl (fun a y => let r := SMap.get { task := 0, h := 0 } y.2.redirect owner; if r.task = t && r.h = h then a + r.kept else a) 0

/-- Load the window from the frame, each kept credit applied, and end its redirects (R244, R506). -/
def loadWindow (t : Nat) (x : Task) (cl : Client) : Op Unit := do
  let ws ← frameWords cl (x.frame.toNat + 0x200) 256
  modify fun s =>
    let s := (List.range 64).foldl (fun s h =>
      let kept := SMap.get {} x.kept h
      s.setEntry x.core (entryIndex x.win h)
        (frameEntry s x kept ((ws.drop (4 * h)).take 4) (if kept.valid then keptCredit s t h kept.owner else 0))) s
    (clearRedirects s t).modTask t fun y => { y with kept := [], wspill := false }

/-- One tagged queue as its frame words and rows give it. -/
def loadQueue (cl : Client) (f q : Nat) (w : Word) : Op TagQueue := do
  let head := field w 3 0
  let rows ← (List.range (min (field w 8 4) 16)).mapM fun j => do
    let slot := (head + j) % 16
    let t ← agentRead cl (f + 0x100 + 0x40 * q + 4 * slot) 4
    let d ← agentRead cl (f + 0xA00 + 0x1000 * q + 0x100 * slot) 256
    pure ({ tag := readTag (wordOfBytes t), data := Vector.ofFn fun (c : Fin 64) =>
      BitVec.ofNat 32 (wordOfBytes ((d.drop (4 * c.val)).take 4)) } : Row)
  pure { head := head, rows := rows }

/-- Read a resumed task's frame. -/
def bootFrame (t : Nat) (x : Task) : Op Unit := do
  let cl := partClient x.core x.vd x.asn
  let f := x.frame.toNat
  let ws ← frameWords cl f 20
  let put := fun (off : Nat) (c : Ctx) => (List.range 8).foldl (fun (c : Ctx) j => c.setS (BitVec.ofNat 6 (j + 1)) (ws.getD (off + j) 0)) c
  let qs ← (List.range 4).mapM fun q => loadQueue cl f q (ws.getD (16 + q) 0)
  if x.wspill then loadWindow t x cl
  modify fun s =>
    let s := match x.xctx with | some k => s.modCtx k (put 0) | none => s
    let s := match x.actx with | some k => s.modCtx k (put 8) | none => s
    s.modTask t fun y => { y with queues := Vector.ofFn fun (q : Fin 4) => qs.getD q.val {}, boot := none }

/-- The next of what a task does before its first instruction; a fault is one of the instruction at XPC. A task that has moved from a lost
core takes HANDLE_INVALID of the handle it holds, of several the lowest-numbered (R470; log entry 67, DESIGN CHOICE). -/
def bootStep (k : Nat) : Op Flow := do
  let (t, x) ← myTask k
  if x.crDue then
    modify fun s => writeRunning s t
    return .stay
  match x.boot with
  | none => pure .stay
  | some .frame =>
    bootFrame t x
    pure .stay
  | some .moved =>
    bootFrame t x
    let s ← get
    match (List.range 64).find? fun h => (s.entry x.core (entryIndex x.win h)).valid with
    | some h => raiseKept .handleInvalid (BitVec.ofNat 64 h)
    | none => pure .stay
  | some (.handles n) =>
    let hs := match ((← get).launch x.launch).bind fun l => l.nodes[x.node]? with | some m => m.hlist | none => []
    match hs[n]? with
    | none => modify fun s => s.modTask t fun y => { y with boot := none }
    | some h =>
      bootHandle k x h
      modify fun s => s.modTask t fun y => { y with boot := some (.handles (n + 1)) }
    pure .stay

/-! Leaving and ending. -/

/-- TASK_LEAVE_STOKER (R241): a task that stands at a suspension point leaves once its queues have completed. -/
def execTaskLeaveStoker (task : Nat) (s : State) : Host.Outcome State Fault Refusal :=
  match s.task task with
  | none => .next s
  | some x =>
    match x.xctx with
    | none => .next s
    | some k =>
      if x.status = .running && x.reason ≠ .none && mayPass s x && !heldTask s k && (s.ctx k).lost.isNone then
        settle s k (notLeft task (do leaveStoker task x k x.reason x.waitObj x.waitUntil x.monitor; pure Flow.stay) s)
      else .next s

/-- HALT_RETIRE (R457): queues drained, every transfer retired, the access stream stopped, no fault unserved (R445). -/
def execHaltRetire (task : Nat) (s : State) : Host.Outcome State Fault Refusal :=
  match s.task task with
  | none => .next s
  | some x =>
    match x.xctx with
    | none => .next s
    | some k =>
      let fault := x.streams.any fun j => (s.ctx j).faulted
      if (s.ctx k).halted && queuesEmpty s x && !unretired s x.core task && !fault && !heldTask s k &&
          x.streams.all fun j => (s.ctx j).halted then
        match flueCr s { x with status := .done, apc := 0, ebud := 0 } with
        | (s', .waits) => .next s'
        | (_, .done) => .next (endTask s task x .done)
        | (_, .faulted) => .next (endTask s task x .done)
      else .next s

/-! Requests to make room (R454, R455). -/

/-- Ask for the pre-emption of running tasks (R439): every member of a cord with it; ignored while PEN is 0, and of a task that is leaving
its stoker anyway (R243). -/
def requestPreempt (s : State) (ts : List Nat) (reg : Bool) : State :=
  let named := ts.flatMap fun t => match s.task t with
    | some x => if !bit (s.vd x.vd).psbase 0 then []
        else if x.cord then (cordMembers s x).map (·.1) else [t]
    | none => []
  named.foldl (fun s t => s.modTask t fun x =>
    if x.status = .running && x.reason = .none then { x with preReq := true, preqReg := x.preqReg || reg } else x) s

/-- GANG_RESERVE_TIMEOUT (R454): a reservation has stood for 2^20 cycles. -/
def execGangReserveTimeout (kiln : Nat) (s : State) : Host.Outcome State Fault Refusal :=
  match (s.kiln kiln).gangSince with
  | some t =>
    if t + 2 ^ 20 ≤ s.now then
      .next (requestPreempt s (((s.kiln kiln).reserved.filterMap fun r => (s.ctx (ctxId r.1 r.2.1)).task).eraseDups) false)
    else .next s
  | none => .next s

/-- The task of a VD with a greater virtual time, one that may be pre-empted, that has run longest in a kiln. -/
def starvationVictim (s : State) (kiln : Nat) (x : Task) : Option Nat :=
  let vt := fun (vd : Nat) => SMap.get 0 (s.kiln kiln).vtime vd
  let victims := s.tasksWhere fun y => y.kiln = kiln && y.status = .running && bit (s.vd y.vd).psbase 0 && decide (vt x.vd < vt y.vd)
  (victims.foldl (fun (b : Option (Nat × Task)) y => match b with
    | none => some y
    | some z => if y.2.runSince < z.2.runSince then some y else some z) none).map (·.1)

/-- STARVATION_PREEMPT (R455): a READY task has waited 2^22 cycles without fitting. -/
def execStarvationPreempt (kiln : Nat) (s : State) : Host.Outcome State Fault Refusal :=
  let starved := (readyTasks s kiln).filter fun x => decide (x.2.readySince + 2 ^ 22 ≤ s.now) && !placeable s kiln [] x.1 x.2
  match starved.findSome? fun x => starvationVictim s kiln x.2 with
  | none => .next s
  | some t => .next (requestPreempt s [t] false)

end Sys2Proof.Machine
end

