-- ==== Sys2Proof/Machine/Debug.lean ====
section
/-!
DEFINITION. Sys2Proof/Machine/Debug.lean: energy accounts (R474 to R477), the snapshot trigger (R478), and DBGCTL (R481 to R483). A
step that does not apply to the state changes nothing (log entry 24, DESIGN CHOICE).
-/

namespace Sys2Proof.Machine

open Sys2Proof

/-! Energy. -/

/-- The refill of one account: REM := REFILL + Min(REM, 0), REFILL as last written, scaled by the factor in force (R476, R477). -/
def refillVd (s : State) (v : Vd) : Vd :=
  let r := field v.refillNext 31 0 * s.pkg.powerNum / s.pkg.powerDen
  { v with refill := v.refillNext, rem := (r : Int) + min v.rem 0 }

/-- ENERGY_REFILL (R476): the next refill not yet made whose `now`, a multiple of 1,600,000, has come. Tasks set aside for want of
energy may be dispatched again. -/
def execEnergyRefill (s : State) : Host.Outcome State Fault Refusal :=
  if s.now / 1600000 ≤ s.pkg.refills then .next s
  else
    let wake := fun (x : Nat × Option Task) => (x.1, x.2.map fun t => { t with energyWait := false })
    .next { s with pkg := { s.pkg with refills := s.pkg.refills + 1 }, tasks := s.tasks.map wake,
                   vds := s.vds.map fun x => (x.1, refillVd s x.2) }

/-- A task's charge: first from its run's ebud, the rest from its VD's account (R475). -/
def chargeTask (s : State) (t n : Nat) : State :=
  match s.task t with
  | none => s
  | some x =>
    let m := min n x.ebud
    (s.setTask t (some { x with ebud := x.ebud - m })).modVd x.vd fun v => { v with rem := v.rem - ((n - m : Nat) : Int) }

/-- ENERGY_METER (R474): the interval's energy in µJ, divided as measured among tasks and VDs. -/
def execEnergyMeter (tasks vds : List (Nat × Nat)) (s : State) : Host.Outcome State Fault Refusal :=
  let s := tasks.foldl (fun s x => chargeTask s x.1 x.2) s
  .next (vds.foldl (fun s x => s.modVd x.1 fun v => { v with rem := v.rem - (x.2 : Int) }) s)

/-- POWER_LIMIT (R477): the common factor of every REFILL in force. -/
def execPowerLimit (num den : Nat) (s : State) : Host.Outcome State Fault Refusal :=
  .next (if den = 0 then s else { s with pkg := { s.pkg with powerNum := num, powerDen := den } })

/-! Snapshots (R478). -/

/-- SNAPSHOT_LATCH: 64 cycles after its source fired, the trigger latches every block. -/
def execSnapshotLatch (s : State) : Host.Outcome State Fault Refusal :=
  match s.pkg.snapshot.armed with
  | some (source, tag, due) =>
    if due ≤ s.now then
      .next { s with pkg := { s.pkg with snapshot := { s.pkg.snapshot with armed := none, record := some (source, tag, due) } } }
    else .next s
  | none => .next s

def execSnapin (s : State) : Host.Outcome State Fault Refusal := .next (fireSnapshot s 2 0xFE)
def execSnapshotCommand (s : State) : Host.Outcome State Fault Refusal := .next (fireSnapshot s 3 0xFF)

/-- SNAPSHOT_READ: the physical function has the latched registers, and the trigger is armed again. -/
def execSnapshotRead (s : State) : Host.Outcome State Fault Refusal :=
  match s.pkg.snapshot.record with
  | none => .next s
  | some _ =>
    .next (({ s with pkg := { s.pkg with snapshot := { s.pkg.snapshot with record := none } } }).send
      (.pfLog 4 (Config.snapshotWord s.ticks)))

/-! Stopped stokers. -/

/-- RESUME (R482, R483). -/
def resumeVd (s : State) (vd : Nat) : State :=
  let free := fun (x : Nat × Ctx) => if x.2.vd = vd && x.2.stopped then (x.1, { x.2 with stopped := false, stepping := false }) else x
  ({ s with ctxs := s.ctxs.map free }).modVd vd fun v =>
    { v with stopinfo := putField v.stopinfo 63 63 0, skid := [], dbgWaiting := false }

/-- STEP of a stoker, numbered 4·coreid + stoker; one that is not stopped ignores it (R483). -/
def stepStoker (s : State) (vd stk : Nat) : State :=
  let k := ctxId (stk / 4) (stk % 4)
  let c := s.ctx k
  if decide (stk < 768) && c.vd = vd && c.stopped then
    (s.modCtx k fun c => { c with stepping := true }).modVd vd fun v => { v with dbgWaiting := false }
  else s

def execDbgctlResume (vd : Nat) (s : State) : Host.Outcome State Fault Refusal := .next (resumeVd s vd)
def execDbgctlStep (vd stk : Nat) (s : State) : Host.Outcome State Fault Refusal :=
  .next (stepStoker (s.modVd vd fun v => { v with dbgStk := stk % 1024 }) vd (stk % 1024))

/-- A write of DBGCTL: ignored with both RESUME and STEP set (Table 21.3). -/
def dbgctlWrite (s : State) (vd : Nat) (v : Word) : State :=
  if bit v 63 && bit v 62 then s
  else
    let s := s.modVd vd fun x => { x with dbgStk := field v 9 0 }
    if bit v 63 then resumeVd s vd else if bit v 62 then stepStoker s vd (field v 9 0) else s

end Sys2Proof.Machine
end

