-- ==== Sys2Proof/Machine/Preempt.lean ====
section
/-!
DEFINITION. Sys2Proof/Machine/Preempt.lean: pre-emption (R439 to R445): requests through PREQ, and the save of a task with its streams,
queues, registers and tiles (Tables 18.7 to 18.9). The flue restores it (Flue.lean). A step that does not apply to the state
changes nothing (log entry 24, DESIGN CHOICE).
-/

namespace Sys2Proof.Machine

open Sys2Proof

/-- PREQ_GO (R440): the tasks a write of PREQ names are asked to make room. -/
def preqWrite (s : State) (vd : Nat) (v : Word) : State :=
  let core := field v 55 48
  if !bit v 63 || field v 61 56 ≠ 0 || field v 43 33 ≠ 0 || 191 < core then s
  else
    let named := s.tasksWhere fun x => x.vd = vd && x.core = core && x.status = .running &&
      (bit v 62 || x.win = field v 47 44) && (field v 31 0 = 0 || x.lid % 2 ^ 32 = field v 31 0)
    requestPreempt s (named.map (·.1)) true

def execPreqGo (vd : Nat) (val : BitVec 64) (s : State) : Host.Outcome State Fault Refusal := .next (preqWrite s vd val)

/-! The save area. -/

/-- The open convoy in a stream header. -/
def convoyBits : Option Convoy → Nat
  | none => 0
  | some v => 2 ^ 6 + v.mad % 8 * 2 ^ 7 + v.ldp % 4 * 2 ^ 10 + v.stp % 2 * 2 ^ 12 + v.prm % 2 * 2 ^ 13 + v.sfu % 2 * 2 ^ 14

/-- The entries of a queue, RMODE's among them, each with the queue's mode at it. -/
def queueRecords (m : BitVec 3) : List QItem → List (QEntry × BitVec 3)
  | [] => []
  | .entry e :: q => (e, m) :: queueRecords m q
  | .mode n e :: q => (e, m) :: queueRecords n q
  | .marker _ :: q => queueRecords m q

/-- A queued-entry record (Table 18.9). -/
def recordBytes (x : QEntry × BitVec 3) : List Byte :=
  let e := x.1
  wordBytes [(encode e.instr).toNat, e.vl % 128 * 2 ^ 57 + field e.mshape 6 0 * 2 ^ 50 + field e.mshape 22 16 * 2 ^ 43 +
    field e.mshape 29 24 * 2 ^ 37 + x.2.toNat * 2 ^ 34 + e.vstart % 1024 * 2 ^ 24, e.op1.toNat, e.op2.toNat]

/-- SAVED and VLS after a save (R443). -/
def savedAfter (cur : Bool) (old : Word × List Nat) (c : Ctx) : Word × List Nat :=
  (if cur then old.1 ||| c.vdirty else c.vdirty,
   (List.range 32).map fun n => if bit c.vdirty n then c.vl.toNat else if cur then old.2.getD n 0 else 0)

/-- A stream header. -/
def headerBytes (c : Ctx) (r : Word × List Nat) (mqm : BitVec 3) : List Byte :=
  let m := match c.monitor with
    | none => 0
    | some m => 2 ^ 63 + (if m.fired then 2 ^ 62 else 0) + m.va.toNat / 128 % 2 ^ 49 * 2 ^ 7
  wordBytes [c.pc.toNat, c.vl.toNat, c.vstart.toNat, c.vdirty.toNat % 2 ^ 32 * 2 ^ 32 + r.1.toNat % 2 ^ 32] ++
    r.2.map (fun n => BitVec.ofNat 8 n) ++
    wordBytes [c.smpc.toNat, c.smprev.toNat, c.smcnt.toNat, c.fpmode.toNat, c.vstat.toNat, c.mshape.toNat,
      (queueRecords 0 c.vq).length * 2 ^ 15 + convoyBits c.convoy + mqm.toNat * 2 ^ 3 + c.vqMode.toNat, m]

/-- What the save area takes of stream number j (0 execute, 1 access): pieces of offset and bytes. -/
def streamPieces (j : Nat) (c : Ctx) (r : Word × List Nat) (mqm : BitVec 3) : List (Nat × List Byte) :=
  let preds := (List.range 8).foldl (fun a i => if i ≠ 0 && c.p (BitVec.ofNat 3 i) then a + 2 ^ i else a) 0
  [(0x80 + 0x80 * j, headerBytes c r mqm),
   (0x200 + 0x400 * j, wordBytes ((List.range 64).map fun i => (c.s (BitVec.ofNat 6 i)).toNat) ++ wordBytes [preds] ++
      wordBytes (c.brs.toList.map (·.toNat))),
   (0xA00 + 0x800 * j, (List.range 32).flatMap fun n => (List.range 16).flatMap fun i => bytesOfNat 4 (c.row n i).tag.toNat),
   (0x42000 + 0x800 * j, (List.range 16).flatMap fun n => bytesOfNat 128 (c.vp (BitVec.ofNat 4 n)).toNat),
   (0x48000 + 0x400 * j, (queueRecords c.vqMode c.vq).flatMap recordBytes)] ++
  (List.range 32).flatMap fun n => if bit c.vdirty n then (List.range 16).map fun i =>
      (0x2000 + 0x20000 * j + 0x1000 * n + 0x100 * i,
       ((List.range c.vl.toNat).flatMap fun col => bytesOfNat 4 ((c.row n i).elem col)))
    else []

/-- The tiles a task keeps: its partition's while it is holder, else those it kept before. -/
def keptTiles (s : State) (t : Nat) (x : Task) (k : Nat) : SMap (BitVec 32) :=
  let p := partOf s k
  if (s.core x.core).holder p = some t then ((s.core x.core).acc.filter fun y => y.1 / 2 ^ 20 = p).map fun y => (y.1 % 2 ^ 20, y.2)
  else x.savedAcc

/-- What the save area takes of the task itself. -/
def taskPieces (s : State) (t : Nat) (x : Task) (k : Nat) : List (Nat × List Byte) :=
  let holder := decide ((s.core x.core).holder (partOf s k) = some t) || !x.savedAcc.isEmpty
  let tiles := (List.range 4).filter fun j => holder && tileOwned s k j
  let acc := keptTiles s t x k
  let w0 := (queueRecords x.mqMode x.mq).length * 2 ^ 7 + tiles.foldl (fun a j => a + 2 ^ (3 + j)) 0 + (if holder then 4 else 0) + 2 +
      (if x.actx.isSome then 1 else 0)
  [(0, wordBytes (w0 :: List.replicate 15 0)),
   (0x43000, wordBytes ((windowOf s x.core x.win).flatMap HEntry.words)),
   (0x43800, wordBytes (x.queues.toList.map TagQueue.word)),
   (0x48800, (queueRecords x.mqMode x.mq).flatMap recordBytes)] ++
  (x.queues.toList.zipIdx.flatMap fun q => q.1.slots.flatMap fun r =>
    [(0x43900 + 0x40 * q.2 + 4 * r.1, bytesOfNat 4 r.2.tag.toNat), (0x44000 + 0x1000 * q.2 + 0x100 * r.1, rowBytes r.2)]) ++
  tiles.flatMap fun j => (List.range 128).map fun m =>
    (0x50000 + 0x10000 * j + 512 * m, (List.range 128).flatMap fun n => bytesOfNat 4 (SMap.get 0 acc (j * 2 ^ 14 + m * 128 + n)).toNat)

/-- The save area of a task (R441). -/
def saveBase (s : State) (x : Task) : Nat := field (s.vd x.vd).psbase 51 21 * 2 ^ 21 + 0x90000 * (16 * x.core + x.win)

/-- Why a save is not made: one of its lines is being switched, and it waits; or a page or a line does not take it, and it is abandoned. -/
inductive SaveStop where
  | wait | abandon
  deriving DecidableEq, Repr

/-- Write bytes by guest-physical address through stage 2, line by line (R441). -/
def gpaWrite (vd : Nat) : Nat → Nat → List Byte → State → Except SaveStop State
  | 0, _, _, s => .ok s
  | fuel + 1, a, bs, s =>
    if bs.isEmpty then .ok s
    else
      let j := 128 - a % 128
      match guestPlace s vd a .store with
      | (.error (.wait _), _) => .error .wait
      | (.error _, _) => .error .abandon
      | (.ok h, s) =>
        if tagVc (homeTag s (h / 128)) = vcRecode then .error .wait
        else match agentLand s (slotKey s vd 0) h (bs.take j) with
          | (s, true) => gpaWrite vd fuel (a + j) (bs.drop j) s
          | (_, false) => .error .abandon

/-! PREEMPT. -/

/-- The request of a task waits (R439, R441): a transfer pending, a fault, a hold, a stop, an entry under way, the start of the task. -/
def preemptWaits (s : State) (x : Task) : Bool :=
  let under := fun (q : List QItem) => match q with
    | .entry e :: _ => e.waiting && !(QItem.entry e).transfer
    | _ => false
  x.boot.isSome || x.crDue || under x.mq || x.streams.any fun k =>
    let c := s.ctx k
    c.pend.isSome || c.faulted || c.hold.isSome || c.stopped || under c.vq

/-- The request of a task is dropped: its source may make a new one. -/
def dropRequest (s : State) (t : Nat) : State := s.modTask t fun x => { x with preReq := false, preqReg := false }

/-- A task as it stands once it has been saved; an open convoy binds its pipes anew once it is restored (R268, R443). -/
def savedTask (s : State) (t : Nat) (x : Task) (k : Nat) (regs : List (Word × List Nat)) : Task :=
  { x with
    xpc := (s.ctx k).pc, apc := x.accessPc s,
    status := .suspended, reason := .preempted, pre := true, av := true, waitObj := 0, xctx := none, actx := none,
    saved := x.streams.map fun j => (j, { s.ctx j with fetched := [], bound := none, drained := true }), savedRegs := regs, savedAcc := keptTiles s t x k, cur := true,
    preReq := false, preqReg := false, readySince := s.now }

/-- Save one task (R441 to R443): all of it, or none when a page or line of the area, or the CR, does not take it. -/
def saveTask (t : Nat) (x : Task) (k : Nat) (s : State) : Except SaveStop State := do
  let ks := x.streams
  let regs := (ks.zipIdx).map fun y => savedAfter x.cur (x.savedRegs.getD y.2 (0, [])) (s.ctx y.1)
  let pieces := taskPieces s t x k ++ ((ks.zip regs).zipIdx).flatMap fun y =>
    streamPieces y.2 (s.ctx y.1.1) y.1.2 (if y.2 = 0 then x.mqMode else 0)
  let base := saveBase s x
  let x' := savedTask s t x k regs
  match placeAt (partClient x.core x.vd x.asn) x.cr.toNat .store s with
  | .ok (_, s) =>
    let s ← pieces.foldlM (fun s p => gpaWrite x.vd (p.2.length / 128 + 2) (base + p.1) p.2 s) s
    let s := clearOwnTiles (parkRequests s t ks) x.core t
    let s := ks.foldl (fun s j => s.setCtx j {}) s
    match flueCr s x' with
    | (_, .waits) => throw .wait
    | (s, _) => pure (s.setTask t (some x'))
  | .error (.hold (.recode _) _ _ _ _) | .error (.hold (.foreign _ _) _ _ _ _) => throw .wait
  | .error _ => throw .abandon

/-- PREEMPT (R441): a requested task, with the running members of its cord, is saved and gives up its stokers; dropped at a
suspension point (R243); abandoned, and logged to the physical function, when the save cannot be written. -/
def execPreempt (task : Nat) (s : State) : Host.Outcome State Fault Refusal :=
  match s.task task with
  | none => .next s
  | some x =>
    if !x.preReq then .next s
    else if x.status ≠ .running || x.reason ≠ .none then .next (dropRequest s task)
    else
      let group := if x.cord then (cordMembers s x).filter fun y => y.2.status = .running && y.2.reason = .none else [(task, x)]
      if group.any fun y => preemptWaits s y.2 then .next s
      else
        let save := fun (s : State) (y : Nat × Task) => match (s.task y.1).bind fun z => z.xctx.map fun k => (z, k) with
          | some (z, k) => saveTask y.1 z k s
          | none => .ok s
        match group.foldlM save s with
        | .ok s' => .next s'
        | .error .wait => .next s
        | .error .abandon => .next ((group.foldl (fun s y => dropRequest s y.1) s).send (.pfLog 3 (saveBase s x)))

end Sys2Proof.Machine
end

