-- ==== Sys2Proof/Machine/HostPort.lean ====
section
/-!
DEFINITION. Sys2Proof/Machine/HostPort.lean: what the host, the physical function, peers and firmware do to the module: work queues
(R461 to R464), partitions (R469, R470), resets (R57, R472, R473), accesses from outside (R223, R224, R467, R468), and writes of
the registers of Tables 20.1, 20.8 and 20.10. A step that does not apply to the state changes nothing (log entry 24, DESIGN CHOICE).
-/

namespace Sys2Proof.Machine

open Sys2Proof

/-! Work queues (Table 20.3, R463, R464). -/

/-- A queue's error: the state ERROR and its record. -/
def queueError (s : State) (vd q code cause : Nat) (w1 : Word) : State :=
  errorRecord (s.setQueue vd q { s.queue vd q with state := 2 }) vd code q cause 0 w1 0

/-- A VD's accepted features are offered, and bit 0 is among them. -/
def mayLock (v : Vd) : Bool := v.featacc &&& ~~~v.featoff = 0 && v.featacc.getLsbD 0

/-- The feature lock that a well-formed notify tries first (R464). The part then reads the VD's aperture (R43). -/
def tryLock (s : State) (vd : Nat) : State :=
  if (s.vd vd).lock then s
  else if mayLock (s.vd vd) then readAperture (s.modVd vd fun v => { v with lock := true }) vd
  else errorRecord s vd 5 0 0 0 0 0

/-- A notify's write index is one the ring takes. -/
def WorkQueue.takes (x : WorkQueue) (w : Nat) : Bool :=
  decide (w < 2 * x.slots) && decide ((w + 2 * x.slots - x.rd) % (2 * x.slots) ≤ x.slots)

def execQueueNotify (vd q off : Nat) (val : BitVec 32) (s : State) : Host.Outcome State Fault Refusal :=
  if off ≠ 0 || val.toNat / 2 ^ 16 ≠ 0 || 255 < q || 63 < vd || !vdEnabled s vd || (s.vd vd).rst then .next s
  else
    let s := tryLock s vd
    let x := s.queue vd q
    let w := val.toNat % 2 ^ 16
    if x.state ≠ 1 then .next s
    else if x.takes w then .next (s.setQueue vd q { x with wr := w })
    else .next (queueError s vd q 2 Cause.queueError.code.toNat (BitVec.ofNat 64 w))

/-- Every byte of a range of guest-physical addresses is mapped by stage 2 with R = W = 1, page by page (R462), and the state the walks
leave. -/
def rangeMapped (s : State) (vd base bytes : Nat) : Bool × State :=
  (List.range ((base + bytes - 1) / 4096 - base / 4096 + 1)).foldl (fun (ok, s) j =>
    if !ok then (ok, s)
    else match (stage2 vd ((base / 4096 + j) * 4096) .atomic).on s with
      | (.ok _, s) => (true, s)
      | (.error _, s) => (false, s)) (true, s)

/-- EN := 1 on a DISABLED queue. -/
def enableQueue (s : State) (vd q : Nat) : State :=
  let x := s.queue vd q
  if x.state ≠ 0 || x.en || 255 < q then s
  else
    let base := field x.base 51 7 * 128
    let (mapped, s) := if field x.base 3 0 ≠ 0 then rangeMapped s vd base (128 * x.slots) else (false, s)
    if mapped then
      s.setQueue vd q { x with state := 1, en := true, rd := 0, wr := 0 }
    else queueError (s.setQueue vd q { x with en := true }) vd q 1 0 (BitVec.ofNat 64 base)

/-- EN := 0. -/
def disableQueue (s : State) (vd q : Nat) : State :=
  s.setQueue vd q { s.queue vd q with state := 0, en := false }

def execQueueEnable (vd q : Nat) (s : State) : Host.Outcome State Fault Refusal :=
  .next (if (s.vd vd).rst then s else enableQueue s vd q)
def execQueueDisable (vd q : Nat) (s : State) : Host.Outcome State Fault Refusal := .next (disableQueue s vd q)

/-! Registers with behaviour of their own. -/

/-- SQRANGE (R41): ignored once a VD has locked, or when the range passes granule 386,047, the last below the carve-out. The region's
granules are the physical function's until an aperture takes them: what apertures held of the old region they hold no longer. -/
def sqrangeWrite (s : State) (val : Word) : State :=
  let locked := s.vds.any fun v => v.2.lock
  let tooLong := field val 63 32 ≠ 0 && decide (386048 < field val 18 0 + field val 63 32)
  if locked || tooLong then s
  else
    let s := { s with pkg := { s.pkg with sqrange := putField val 31 19 0 },
                      vds := s.vds.map fun (v : Nat × Vd) => (v.1, { v.2 with aperture := v.2.aperture.filter fun x => decide (x.1 < 4096) }) }
    s.hbm.granules.foldl (fun s g => if inSqRange s (g.1 * 2 ^ 21) && g.2.owner ≠ 64 then assignGranule s g.1 64 else s) s

def execSqrangeWrite (val : BitVec 64) (s : State) : Host.Outcome State Fault Refusal := .next (sqrangeWrite s val)

/-- Waiting page requests that a greater quota or allocation lets take entries do so, the oldest first (R52, R54, Table 2.14). -/
def drainPrq : Nat → State → State
  | 0, s => s
  | fuel + 1, s =>
    match s.pkg.prqWait.findSome? fun q => (prqTake s q).map fun s' => (q, s') with
    | none => s
    | some (q, s') => drainPrq fuel { s' with pkg := { s'.pkg with prqWait := s'.pkg.prqWait.erase q } }

/-- VDCFG (Table 20.9): a quota that the pool cannot give leaves PRQQ as it was (R52), and BSZ stands while LOCK = 1. -/
def vdcfgWrite (s : State) (vd : Nat) (val : Word) : State :=
  let v := s.vd vd
  let others := ((List.range 64).filter fun j => j ≠ vd).foldl (fun a j => a + prqQuota s j) 0
  let quota := if vd < 64 && decide (704 < others + max 4 (field val 55 46)) then field v.cfg 55 46 else field val 55 46
  let bsz := if v.lock then field v.cfg 24 23 else field val 24 23
  let cfg := putField (putField (putField val 55 46 quota) 24 23 bsz) 22 0 0
  drainPrq s.pkg.prqWait.length (s.modVd vd fun v => { v with cfg := cfg })

def execVdcfgWrite (vd : Nat) (val : BitVec 64) (s : State) : Host.Outcome State Fault Refusal :=
  .next (if vd ≤ 64 then vdcfgWrite s vd val else s)

/-- LATTICE_WRITE (R74): offsets from 0 in LATADD and from 4096 in LATMUL; held until LATTICE_APPLY. -/
def execLatticeWrite (vd : Nat) (data : List (Nat × BitVec 8)) (s : State) : Host.Outcome State Fault Refusal :=
  .next (s.modVd vd fun v => { v with latHeld := v.latHeld ++ data.filter fun x => decide (x.1 < 8192) })

/-- A launch of a VD is in flight (R74). -/
def launching (s : State) (vd : Nat) : Bool :=
  s.launches.any fun l => match l.2 with | some x => x.vd = vd | none => false

def execLatticeApply (vd : Nat) (s : State) : Host.Outcome State Fault Refusal :=
  if launching s vd then .next s
  else .next (s.modVd vd fun v => { v with lat := v.latHeld.foldl (fun m x => SMap.set (latByte x.1) m x.1 x.2) v.lat, latHeld := [] })

/-! Partitions (R469, R470). -/

/-- Granules of a record. -/
def recordBase (a : Word) : Nat := field a 35 27
def recordCount (a : Word) : Nat := field a 45 36

/-- What a record owns has weight 0. -/
def badWeights (a b : Word) : Bool :=
  bit a 0 && (List.range 4).any fun j =>
    (bit a (19 + j) && field b (4 * j + 3) (4 * j) = 0) || (bit a (23 + j) && field b (4 * j + 19) (4 * j + 16) = 0)

/-- The configurations that PCTL rejects. A record with EN = 0 holds nothing. -/
def badRecords (a0 b0 a1 b1 : Word) : Bool :=
  let tooLong := fun (a : Word) => bit a 0 && decide (512 < recordBase a + recordCount a)
  badWeights a0 b0 || badWeights a1 b1 || tooLong a0 || tooLong a1 ||
    (bit a0 0 && bit a1 0 &&
      (field (a0 &&& a1) 26 10 ≠ 0 ||
        (decide (recordBase a0 < recordBase a1 + recordCount a1) && decide (recordBase a1 < recordBase a0 + recordCount a0))))

/-- APPLY := 1. -/
def pctlApply (s : State) (core : Nat) : State :=
  s.modCore core fun c =>
    if badRecords c.rec0A c.rec0B c.rec1A c.rec1B then { c with pctlErr := true }
    else { c with pctlNext := some (c.rec0A, c.rec0B, c.rec1A, c.rec1B) }

def execPctlApply (core : Nat) (s : State) : Host.Outcome State Fault Refusal :=
  .next (if core < 192 then pctlApply s core else s)

/-- PARTITION_APPLY: no task of either old partition holds a stoker or a window on the core. -/
def execPartitionApply (core : Nat) (s : State) : Host.Outcome State Fault Refusal :=
  let c := s.core core
  let old := fun (vd : Nat) => (bit c.part0A 0 && field c.part0A 6 1 = vd) || (bit c.part1A 0 && field c.part1A 6 1 = vd)
  match c.pctlNext with
  | none => .next s
  | some (a0, b0, a1, b1) =>
    if !(s.tasksWhere fun x => x.core = core && x.seated && old x.vd).isEmpty then .next s
    else .next (s.setCore core { c with part0A := a0, part0B := b0, part1A := a1, part1B := b1, pctlNext := none })

/-! Resets. -/

/-- A VD's queues disabled, its tasks discarded, their launches ended as CANCELLED (steps 1 to 3 of Table 20.7). -/
def stopVd (s : State) (vd : Nat) : State :=
  let s := s.modVd vd fun v => { v with rst := true, queues := v.queues.map fun q => (q.1, { q.2 with state := 0, en := false }) }
  let s := (s.tasksWhere fun x => x.vd = vd).foldl (fun s t => discardTask s t.1) s
  (s.launches.filterMap fun l => match l.2 with | some x => if x.vd = vd then some l.1 else none | none => none).foldl (fun s l =>
    finishLaunch (s.modLaunch l fun x => { x with status := 9, nodes := [] }) l) s

/-- Retained lines of a VD's reset go home; what finds no frame is recorded and dropped, and a line being switched is waited for. -/
def resetFlush (s : State) (p : Retained → Bool) : Option State :=
  (flushWhere s p).map fun (s, left) =>
    let s := recordBlocked s left
    { s with pkg := { s.pkg with retained := s.pkg.retained.filter fun r => !p r } }

/-- The close of a window as WCLOSE.ZERO, by its owner's reset (step 5): flushes, the peer's slot, the job. -/
def closeWindow (s : State) (w : Nat) : State :=
  let y := s.window w
  match resetFlush s fun r => r.win = w with
  | none => s
  | some s =>
    let s := unbindSlot s y.peer y.pslot (.window w y.gen)
    let s := flushCopies s fun line => y.granules.contains (line / 16384)
    let s := y.granules.foldl (fun s g => s.setGranule g { s.granule g with rk := true, rdir := true, prog := 0 }) s
    let s := s.setWindow w { y with state := .closing, closer := none }
    s.modKiln 0 fun z => { z with jobs := z.jobs ++
      [{ kind := .rekeyOut w true, vd := y.owner, runs := sortRuns (y.granules.map fun g => (g * 16384, 16384, 0)) }] }

/-- A VD has its slot of a window in which it is the peer. -/
def peerBound (s : State) (vd : Nat) (w : Nat × Window) : Bool :=
  w.2.state ≠ .free && w.2.peer = vd && SMap.get none (s.vd vd).slots w.2.pslot = some (.window w.1 w.2.gen)

/-- The windows of a VD (step 5): those it owns close; of those in which it is the peer it loses the slot. -/
def leaveWindows (s : State) (vd : Nat) : State :=
  s.pkg.windows.foldl (fun s w =>
    if w.2.state = .openW && w.2.owner = vd then closeWindow s w.1
    else if peerBound s vd w then
      match resetFlush s fun r => r.win = w.1 && r.vd = vd with
      | none => s
      | some s => unbindSlot s vd w.2.pslot (.window w.1 w.2.gen)
    else s) s

/-- A granule of 4 KiB from an internal address is unwritten: {RAW, UNDEF, 127}. -/
def clearBytes (s : State) (lo n : Nat) : State :=
  { s with mem := s.mem.filter fun x => !(decide (lo ≤ x.1) && decide (x.1 < lo + n)),
           tags := s.tags.filter fun x => !(decide (lo / 128 ≤ x.1) && decide (x.1 < (lo + n) / 128)) }

/-- The granules of scratchpads and kiln stores that a VD still holds are cleared and free (step 7). -/
def clearStores (s : State) (vd : Nat) : State :=
  let s := (List.range 192).foldl (fun s c =>
    ((s.core c).granules.filter fun g => g.2.vd = vd && g.2.owner ≠ 0).foldl (fun s g =>
      (clearBytes s (scratchBase c + g.1 * 4096) 4096).setOwner c (none, g.1) {}) s) s
  (List.range 8).foldl (fun s k =>
    ((s.kiln k).granules.filter fun g => g.2.vd = vd && g.2.owner ≠ 0).foldl (fun s g =>
      (clearBytes s (kilnBase k + g.1 * 4096) 4096).setOwner 0 (some k, g.1) {}) s) s

/-- Steps 6 and 7: page requests, names and key slots; stores; the registers of Table 20.1. -/
def clearVd (s : State) (vd : Nat) : State :=
  let s := { s with pkg := { s.pkg with prqWait := s.pkg.prqWait.filter fun q => q.vd ≠ vd,
                                        agentReqs := s.pkg.agentReqs.filter fun r => r.1 ≠ vd } }
  let s := s.pkg.prq.foldl (fun s e => match e.2 with
    | some q => if q.vd = vd then freePrq s e.1 q else s
    | none => s) s
  let s := (s.pkg.names.filter fun x => x.1 / 2 ^ 44 = vd).foldl (fun s x => freeName s vd (x.1 % 2 ^ 44)) s
  let s := clearStores s vd
  let s := { s with coh := { s.coh with resident := s.coh.resident.filter fun r => r.vd ≠ vd },
                    creds := s.creds.filter fun x => x.vd ≠ vd }
  s.modVd vd fun v =>
    { v with slots := [], astbase := 0, tvec := 0, tscr := 0, psbase := 0, errbase := 0, erridx := 0, featacc := 0, pasid := [],
             btidx := 0, queues := [], lock := false, rst := false }

/-- VD_RESET (R472, Table 20.7). The last steps wait until the VD's completion records are written and its windows closed; the
event then ends the reset. -/
def vdReset (s : State) (vd : Nat) : State :=
  let s := leaveWindows (stopVd s vd) vd
  if launching s vd || s.pkg.windows.any fun w => (w.2.state ≠ .free && w.2.owner = vd) || peerBound s vd w then s else clearVd s vd

def execVdReset (vd : Nat) (s : State) : Host.Outcome State Fault Refusal := .next (if vd < 64 then vdReset s vd else s)

/-- MODULE_RESET (R57): the state after reset; memory beyond the module keeps its bytes, and what has been sent stays sent. -/
def execModuleReset (s : State) : Host.Outcome State Fault Refusal :=
  .next { State.reset with
    ticks := s.ticks, sched := s.sched, focus := s.focus, out := s.out,
    mem := s.mem.filter fun x => decide (0x4000000000000 ≤ x.1) && decide (x.1 < 2 ^ 52),
    tags := s.tags.filter fun x => decide (0x4000000000000 / 128 ≤ x.1) && decide (x.1 < 2 ^ 52 / 128) }

/-- FIRMWARE_LOAD (R473): every VD is reset, and the management core restarts with an image that verifies. -/
def execFirmwareLoad (ok : Bool) (s : State) : Host.Outcome State Fault Refusal :=
  let s := { s with pkg := { s.pkg with firmware := false } }
  let vds := (s.vds.map (·.1)).filter fun v => decide (v < 64)
  let s := vds.foldl vdReset s
  if vds.any fun v => (s.vd v).rst then .next s
  else .next (({ s with pkg := { s.pkg with firmware := ok } }).setCtx managementCtx
    (if ok then { mode := .m, live := true } else {}))

/-! Accesses from outside (R223, R224, R467, R468). -/

/-- The host and the peers, as requesters. -/
def busClient (vd : Nat) : Client := { who := 3999, core := 0, vd := vd, asn := 0, mode := none, task := none, inline := true }

/-- What an access does to the bytes of its line: the reply, if it has one. A write of a peer's whole line carries its tag. -/
def busPerform (cl : Client) (pl : Place) (off : Nat) (a : BusAccess) : Op (Option (List Byte × Tag)) := do
  let x := wordOfBytes a.data
  let n := min a.size (128 - off)
  match a.kind with
  | .read =>
    let v ← consume cl pl .load
    pure (some (bytesOfNat n (bytesAt v.data off n), v.tag))
  | .write =>
    let v ← reach cl pl .store (n = 128)
    if vcPoisoned (tagVc v.tag) && decide (n < 128) then raise .poisonConsumed pl.va
    performWrite cl pl (BitVec.ofNat 1024 (x % 2 ^ (8 * n) * 2 ^ (8 * off))) (byteMask off n) (untaggedTag v.tag 0) false
    pure none
  | .fullLine t =>
    let v ← reach cl pl .store true
    match taggedResult v 0 .rne (BitVec.ofNat 1024 x) (BitVec.allOnes 128) t with
    | .error c => raise c pl.va
    | .ok (d, m, t', _) => performWrite cl pl d m t' true; pure none
  | .atomic op =>
    flushOwn cl pl
    let v ← consume cl pl .atomic
    let old := bytesAt v.data off n
    let first := x % 2 ^ (8 * n)
    match (if op = .cas then atomicNew op (8 * n) old first (x / 2 ^ (8 * n) % 2 ^ (8 * n)) else atomicNew op (8 * n) old first 0) with
    | none => pure ()
    | some y => performWrite cl { pl with key := none } (BitVec.ofNat 1024 (y * 2 ^ (8 * off))) (byteMask off n) (untaggedTag v.tag 0) false
    pure (some (bytesOfNat n old, v.tag))

/-- An access to this module's HBM under a key: performed at the line's home, its bytes within one line; one that waits is offered
again; any fault ends in completer abort (Table 20.6, Table 7.6). The caches' copies of a line written are invalid. -/
def busAccess (s : State) (a : BusAccess) (vd : Nat) (key : Option KeyId) : State :=
  let off := a.addr % 128
  let line := a.addr / 128
  let whole := match a.kind with | .fullLine _ => a.size = 128 | .atomic _ => a.size = 4 || a.size = 8 | _ => true
  if region a.addr ≠ .hbm || a.size = 0 || 128 < off + a.size || !whole then s.send (.abort a.addr)
  else
    let pl : Place := { line := line, va := BitVec.ofNat 64 a.addr, key := key, vd := vd }
    match busPerform (busClient vd) pl off a s with
    | .ok (r, s') =>
      let s' := match a.kind with
        | .read => s'
        | _ => dropSectors s' fun k => k / 1024 = line
      match r with
      | some (bs, t) => s'.send (.reply bs t)
      | none => s'
    | .error (.fault _ s') => (s'.getD s).send (.abort a.addr)
    | .error (.wait _ s') => s'.getD s
    | .error (.hold _ _ _ _ s') => s'.getD s

/-- HOST_ACCESS: the host acts under the physical function's key, and carries no tag. -/
def execHostAccess (acc : BusAccess) (s : State) : Host.Outcome State Fault Refusal :=
  let a := match acc.kind with | .fullLine _ => { acc with kind := .write } | _ => acc
  .next (busAccess s a 64 (slotKey s 64 0))

/-- PEER_ACCESS: the access carries its VD and key slot, which this module's tables resolve. -/
def execPeerAccess (acc : BusAccess) (s : State) : Host.Outcome State Fault Refusal :=
  .next (busAccess s acc acc.vd (slotKey s acc.vd acc.slot))

/-- ATS_INVALIDATE (R467): pages of 4 KiB of host memory lose their translations; their accesses have completed. -/
def execAtsInvalidate (page size : Nat) (s : State) : Host.Outcome State Fault Refusal :=
  let lo := page * 4096
  let hi := (page + size) * 4096
  let s := dropTlb s fun t => decide (t.hpa < hi) && decide (lo < t.hpa + t.size)
  let absent := (List.range size).foldl (fun m j => SMap.set false m (page + j) true) s.pkg.hostAbsent
  .next (({ s with pkg := { s.pkg with hostAbsent := absent } }).send (.atsDone page size))

/-- CXL_CACHE_SNOOP: a line of a port's host memory, and its tag line, leave the part's caches, what was dirty written back. -/
def execCxlCacheSnoop (port line : Nat) (s : State) : Host.Outcome State Fault Refusal :=
  let n := 2 ^ 44 + port % 2 * 2 ^ 43 + line % 2 ^ 43
  let both := n :: (match shadowTagAddr s n with | some a => [a / 128] | none => [])
  let s := flushCopies s fun l => both.contains l
  .next (both.foldl fireMonitors (dropLines s (fun l => both.contains l) false))

/-! Register writes (Tables 20.1, 20.8 to 20.10). -/

/-- The bits hi to lo of a word, the rest zero. -/
def keep (w : Word) (hi lo : Nat) : Word := BitVec.ofNat 64 (field w hi lo * 2 ^ lo)

/-- ERRBASE and S2FBASE; ERRIDX and S2FIDX (Table 20.4). -/
def ringBaseWrite (v : Word) : Word := keep v 51 8 ||| keep v 0 0
def ringIdxWrite (old v : Word) : Word :=
  let x := putField old 31 16 (field v 31 16)
  if bit v 32 then putField x 32 32 0 else x

/-- A handler register (Table 18.1); PEN is held only when feature PRE is accepted (Table 20.5). -/
def handlerWrite (s : State) (vd off : Nat) (v : Word) : State :=
  if off = 0x100 then s.modVd vd fun x => { x with tvec := keep v 55 3 ||| keep v 0 0 }
  else if off = 0x108 then s.modVd vd fun x => { x with tscr := v }
  else if off = 0x110 then s.modVd vd fun x => { x with psbase := keep v 51 21 ||| (if x.featacc.getLsbD 3 then keep v 0 0 else 0) }
  else preqWrite s vd v

/-- A queue's register word (Table 20.2). -/
def queueWrite (s : State) (vd q word : Nat) (v : Word) : State :=
  let x := s.queue vd q
  if word = 0 then (if x.state = 0 then s.setQueue vd q { x with base := keep v 51 7 ||| keep v 3 0 } else s)
  else if word = 1 then
    let s := s.setQueue vd q { x with vec := field v 17 10 }
    if bit v 0 then enableQueue s vd q else if x.en then disableQueue s vd q else s
  else s

/-- FEATACC: a word of the accepted set, until it is locked (R464). -/
def featureWord (f : BitVec 256) (i : Nat) (v : Word) : BitVec 256 :=
  BitVec.ofNat 256 (f.toNat - f.toNat / 2 ^ (64 * i) % 2 ^ 64 * 2 ^ (64 * i) + v.toNat * 2 ^ (64 * i))

def feataccWrite (x : Vd) (i : Nat) (v : Word) : Vd :=
  if x.lock then x
  else
    let f := featureWord x.featacc i v
    { x with featacc := f, psbase := if f.getLsbD 3 then x.psbase else putField x.psbase 0 0 0 }

/-- A virtual function's BAR0 (Table 20.1). -/
def vfWrite (s : State) (vd off : Nat) (v : Word) : State :=
  if off = 0 then s.modVd vd fun x => { x with astbase := keep v 51 12 ||| keep v 0 0 }
  else if 0x100 ≤ off && off ≤ 0x118 && off % 8 = 0 then handlerWrite s vd off v
  else if off = 0x200 then s.modVd vd fun x => { x with errbase := ringBaseWrite v }
  else if off = 0x208 then s.modVd vd fun x => { x with erridx := ringIdxWrite x.erridx v }
  else if 0x420 ≤ off && off ≤ 0x438 && off % 8 = 0 then s.modVd vd fun x => feataccWrite x ((off - 0x420) / 8) v
  else if 0x1000 ≤ off && off < 0x3000 && off % 8 = 0 then queueWrite s vd ((off - 0x1000) / 32) ((off - 0x1000) / 8 % 4) v
  else if 0x3000 ≤ off && off < 0x3400 && off % 4 = 0 then
    s.modVd vd fun x => { x with pasid := SMap.set 0 x.pasid ((off - 0x3000) / 4) (((keep v 31 31) ||| (keep v 19 0)).setWidth 32) }
  else if off = 0x6000 then s.modVd vd fun x => { x with btidx := v }
  else s

/-- A watchpoint's word (Table 21.2). -/
def watchWrite (w : Watch) (word : Nat) (v : Word) : Watch :=
  match word with
  | 0 => { w with first := v }
  | 1 => { w with limit := v }
  | 2 => { w with ctrl := keep v 63 45 ||| keep v 7 0 }
  | _ => w

/-- A VD's block in the physical function's BAR0 (Table 20.8). -/
def blockWrite (s : State) (vd off : Nat) (v : Word) : State :=
  if off = 0 then s.modVd vd fun x => { x with s2root := keep v 51 12 ||| keep v 0 0 }
  else if off = 8 then vdcfgWrite s vd v
  else if off = 0x10 then s.modVd vd fun x => { x with peers := v }
  else if 0x100 ≤ off && off ≤ 0x118 && off % 8 = 0 then handlerWrite s vd off v
  else if off = 0x200 then s.modVd vd fun x => { x with refillNext := keep v 31 0 }
  else if off = 0x300 then s.modVd vd fun x => { x with dbgcfg := keep v 1 0 }
  else if off = 0x308 then dbgctlWrite s vd v
  else if 0x800 ≤ off && off < 0x900 && off % 8 = 0 then
    let i := (off - 0x800) / 32
    s.modVd vd fun x => { x with watch := SMap.set {} x.watch i (watchWrite (SMap.get {} x.watch i) ((off - 0x800) / 8 % 4) v) }
  else s

/-- A core's partition records and PCTL (Table 20.10). -/
def coreWrite (s : State) (core off : Nat) (v : Word) : State :=
  match off with
  | 0x00 => s.modCore core fun c => { c with rec0A := keep v 46 10 ||| keep v 6 0 }
  | 0x08 => s.modCore core fun c => { c with rec0B := keep v 31 0 }
  | 0x10 => s.modCore core fun c => { c with rec1A := keep v 45 10 ||| keep v 6 0 }
  | 0x18 => s.modCore core fun c => { c with rec1B := keep v 31 0 }
  | 0x20 =>
    let s := if bit v 1 then s.modCore core fun c => { c with pctlErr := false } else s
    if bit v 0 then pctlApply s core else s
  | _ => s

/-- S2RESP: the answer to a stage-2 page request (R55). -/
def s2respWrite (s : State) (v : Word) : State :=
  match pendingPrq s (field v 15 0) false with
  | some q => answer s (field v 15 0) q (!bit v 16)
  | none => s

/-- The module's registers (Table 20.10). -/
def moduleWrite (s : State) (off : Nat) (v : Word) : State :=
  match off with
  | 0x420000 => { s with pkg := { s.pkg with shtbase0 := keep v 49 12 ||| keep v 0 0 } }
  | 0x420008 => { s with pkg := { s.pkg with shtlim0 := keep v 49 7 } }
  | 0x420010 => { s with pkg := { s.pkg with shtbase1 := keep v 49 12 ||| keep v 0 0 } }
  | 0x420018 => { s with pkg := { s.pkg with shtlim1 := keep v 49 7 } }
  | 0x420100 => { s with pkg := { s.pkg with s2fbase := ringBaseWrite v } }
  | 0x420108 => { s with pkg := { s.pkg with s2fidx := ringIdxWrite s.pkg.s2fidx v } }
  | 0x420110 => s2respWrite s v
  | 0x420200 => sqrangeWrite s v
  | _ => s

/-- A word of the interrupt-remap table (R465). -/
def irtWrite (s : State) (i word : Nat) (v : Word) : State :=
  let old := SMap.get (0, 0) s.pkg.irt i
  let new := if word = 0 then (v, old.2) else (old.1, keep v 63 31 ||| keep v 5 0)
  { s with pkg := { s.pkg with irt := SMap.set (0, 0) s.pkg.irt i new } }

/-- The physical function's BAR0 (Table 20.8). -/
def pfWrite (s : State) (off : Nat) (v : Word) : State :=
  if off < 0x410000 then blockWrite s (off / 0x10000) (off % 0x10000) v
  else if off < 0x413000 then coreWrite s ((off - 0x410000) / 0x40) ((off - 0x410000) % 0x40) v
  else if 0x440000 ≤ off && off < 0x480000 && off % 8 = 0 then irtWrite s ((off - 0x440000) / 16) (off / 8 % 2) v
  else moduleWrite s off v

/-- A vector of a function's MSI-X table, its second word: data and mask; unmasking sends what is pending (R465). -/
def msixWrite (s : State) (vd vec : Nat) (v : Word) : State :=
  let m := SMap.get {} (s.vd vd).msix vec
  let put := fun (s : State) (m : Msix) => s.modVd vd fun x => { x with msix := SMap.set {} x.msix vec m }
  let m := { m with data := v.setWidth 32, masked := bit v 32 }
  if m.pending && !m.masked then signalVector (put s { m with pending := false }) vd vec else put s m

/-- REGISTER_WRITE (R7): spaces 0 to 63 are the virtual functions' BAR0, 64 the physical function's; 128 + v, the MSI-X table of
function v; 65, the enables of the SR-IOV capability; 66, the offered features; 67, the module's number; 68, the page requests that the
host allocates (log entry 26, DESIGN CHOICE). A function's registers take no write while its VD's RST is 1 (log entry 65, DESIGN CHOICE:
R472 says it of notifies). Reserved bits and registers that are read-only, or that no table lists, take nothing. -/
def execRegisterWrite (space off : Nat) (val : BitVec 64) (s : State) : Host.Outcome State Fault Refusal :=
  if space < 64 then .next (if (s.vd space).rst then s else vfWrite s space off val)
  else if space = 64 then .next (pfWrite s off val)
  else if space = 65 then
    .next (if off < 64 && (s.pkg.firmware || !bit val 0) then s.modVd off fun x => { x with enabled := bit val 0 } else s)
  else if space = 66 then
    .next (if off < 256 then s.modVd (off / 4) fun x => { x with featoff := featureWord x.featoff (off % 4) val } else s)
  else if space = 67 then .next { s with pkg := { s.pkg with module := field val 5 0 } }
  else if space = 68 then .next (drainPrq s.pkg.prqWait.length { s with pkg := { s.pkg with priAlloc := min val.toNat 704 } })
  else if 128 ≤ space && space < 192 && off % 16 = 8 && decide (off / 16 < 257) then .next (msixWrite s (space - 128) (off / 16) val)
  else .next s

/-! Register reads (R460, R471): what no table lists, and a reserved or write-only field, reads zero. -/

/-- The mapped names of a VD in ascending order, and an entry's two words (Table 5.10). -/
def nameEntries (s : State) (vd : Nat) : List (Nat × Nat) :=
  (s.pkg.names.filter fun x => x.1 / 2 ^ 44 = vd).map fun x => (x.1 % 2 ^ 44, x.2 - 1)
def btData (s : State) (vd word : Nat) : Word :=
  match (nameEntries s vd)[(s.vd vd).btidx.toNat]? with
  | some (n, f) => BitVec.ofNat 64 (if word = 0 then f % 2 ^ 40 else n * 2 ^ 20 + vd * 2 ^ 14 + 2 ^ 12)
  | none => 0

/-- Eight bytes of a table. -/
def bytesWord (f : Nat → Nat) (at_ : Nat) : Word :=
  BitVec.ofNat 64 ((List.range 8).foldl (fun a j => a + f (at_ + j) * 2 ^ (8 * j)) 0)

def bit2 (b : Bool) (i : Nat) : Nat := if b then 2 ^ i else 0

/-- Table 18.1; PEND of PREQ (R440). -/
def handlerRead (s : State) (vd off : Nat) : Word :=
  match off with
  | 0x100 => (s.vd vd).tvec
  | 0x108 => (s.vd vd).tscr
  | 0x110 => (s.vd vd).psbase
  | 0x118 => BitVec.ofNat 64 (bit2 (!(s.tasksWhere fun x => x.vd = vd && x.preReq && x.preqReg).isEmpty) 32)
  | _ => 0

/-- Table 20.2. -/
def queueRead (x : WorkQueue) (word : Nat) : Word :=
  match word with
  | 0 => x.base
  | 1 => BitVec.ofNat 64 (x.rd * 2 ^ 48 + x.wr * 2 ^ 32 + x.vec * 2 ^ 10 + x.state * 2 ^ 8 + bit2 x.en 0)
  | _ => 0

/-- Table 20.1. -/
def vfRead (s : State) (vd off : Nat) : Word :=
  let v := s.vd vd
  if off = 0 then v.astbase
  else if off = 8 then BitVec.ofNat 64 (bit2 v.rst 2 + bit2 v.lock 1 + bit2 (vdEnabled s vd) 0)
  else if 0x100 ≤ off && off ≤ 0x118 then handlerRead s vd off
  else if off = 0x200 then v.errbase
  else if off = 0x208 then v.erridx
  else if 0x400 ≤ off && off ≤ 0x418 && off % 8 = 0 then (v.featoff >>> (8 * (off - 0x400))).setWidth 64
  else if 0x420 ≤ off && off ≤ 0x438 && off % 8 = 0 then (v.featacc >>> (8 * (off - 0x420))).setWidth 64
  else if 0x1000 ≤ off && off < 0x3000 && off % 8 = 0 then queueRead (s.queue vd ((off - 0x1000) / 32)) ((off - 0x1000) / 8 % 4)
  else if 0x3000 ≤ off && off < 0x3400 && off % 4 = 0 then (SMap.get 0 v.pasid ((off - 0x3000) / 4)).setWidth 64
  else if 0x4000 ≤ off && off < 0x6000 then bytesWord (fun o => (SMap.get (latByte o) v.lat o).toNat) (off - 0x4000)
  else if off = 0x6000 then v.btidx
  else if off = 0x6008 then btData s vd 0
  else if off = 0x6010 then btData s vd 1
  else 0

/-- A VD's block (Table 20.8). -/
def blockRead (s : State) (vd off : Nat) : Word :=
  let v := s.vd vd
  if off = 0 then v.s2root
  else if off = 8 then v.cfg
  else if off = 0x10 then v.peers
  else if 0x100 ≤ off && off ≤ 0x118 then handlerRead s vd off
  else if off = 0x200 then v.refillNext
  else if off = 0x208 then BitVec.ofInt 64 v.rem
  else if off = 0x300 then v.dbgcfg
  else if off = 0x308 then
    BitVec.ofNat 64 (bit2 v.dbgWaiting 61 + bit2 (s.ctxs.any fun x => x.2.vd = vd && x.2.stopped) 60 + v.dbgStk)
  else if off = 0x310 then v.stopinfo
  else if 0x400 ≤ off && off < 0x460 then bytesWord (SMap.get 255 v.skid) (off - 0x400)
  else if 0x800 ≤ off && off < 0x900 && off % 8 = 0 then
    let w := SMap.get {} v.watch ((off - 0x800) / 32)
    match (off - 0x800) / 8 % 4 with | 0 => w.first | 1 => w.limit | 2 => w.ctrl | _ => 0
  else if 0x4000 ≤ off && off < 0x6000 then bytesWord (fun o => (SMap.get (latByte o) v.lat o).toNat) (off - 0x4000)
  else 0

/-- A core's partition records and PCTL; the module's registers (Table 20.10). -/
def coreRead (c : Core) (off : Nat) : Word :=
  match off with
  | 0x00 => c.rec0A
  | 0x08 => c.rec0B
  | 0x10 => c.rec1A
  | 0x18 => c.rec1B
  | 0x20 => BitVec.ofNat 64 (bit2 c.pctlNext.isSome 2 + bit2 c.pctlErr 1)
  | _ => 0
def moduleRead (p : Pkg) (off : Nat) : Word :=
  match off with
  | 0x420000 => p.shtbase0
  | 0x420008 => p.shtlim0
  | 0x420010 => p.shtbase1
  | 0x420018 => p.shtlim1
  | 0x420100 => p.s2fbase
  | 0x420108 => p.s2fidx
  | 0x420200 => p.sqrange
  | _ => 0

/-- What a read of a register gives; spaces 0 to 63 are the virtual functions' BAR0, 64 the physical function's. -/
def registerRead (s : State) (space off : Nat) : Word :=
  if space < 64 then vfRead s space off
  else if space = 64 then
    if off < 0x410000 then blockRead s (off / 0x10000) (off % 0x10000)
    else if off < 0x413000 then coreRead (s.core ((off - 0x410000) / 0x40)) ((off - 0x410000) % 0x40)
    else if 0x440000 ≤ off && off < 0x480000 && off % 8 = 0 then
      let e := SMap.get (0, 0) s.pkg.irt ((off - 0x440000) / 16)
      if off / 8 % 2 = 0 then e.1 else e.2
    else moduleRead s.pkg off
  else 0

end Sys2Proof.Machine
end

