-- ==== Sys2Proof/Machine/Retort.lean ====
section
/-!
DEFINITION. Sys2Proof/Machine/Retort.lean: the retorts' jobs line by line (R76 to R79, R182, R193, R198, R199), the scrubber
(R180), the calendar network (R117, R118), residency fills (R122), a write-back that crosses a forwarded read (R169). A step
that does not apply to the state changes nothing (log entry 24, DESIGN CHOICE).
-/

namespace Sys2Proof.Machine

open Sys2Proof

/-! Jobs. -/

/-- The lines of a job. -/
def Job.total (j : Job) : Nat := j.runs.foldl (fun a r => a + r.2.1) 0

/-- The line at a place in a job, and its number within the handle. -/
def nthLine : List (Nat × Nat × Nat) → Nat → Option (Nat × Nat)
  | [], _ => none
  | (a, c, n) :: rs, i => if i < c then some (a + i, n + i) else nthLine rs (i - c)

/-- Two jobs share a line. -/
def Job.meets (j k : Job) : Bool :=
  j.runs.any fun x => k.runs.any fun y => decide (x.1 < y.1 + y.2.1) && decide (y.1 < x.1 + x.2.1)

/-- A kiln's first job, when it may run: no job under way in another kiln shares a line with it until it ends (R77). -/
def activeJob (s : State) (kiln : Nat) : Option Job :=
  match (s.kiln kiln).jobs with
  | [] => none
  | j :: _ =>
    if s.kilns.any fun x => x.1 ≠ kiln && (match x.2.jobs with
        | k :: _ => decide (0 < k.taken) && j.meets k
        | [] => false) then none else some j

def setFirstJob (s : State) (kiln : Nat) (j : Job) : State :=
  s.modKiln kiln fun x => { x with jobs := j :: x.jobs.drop 1 }

/-- The key under which a demotion job reaches a line of its handle (R185). -/
def jobKey (s : State) (vd : Nat) (e : HEntry) (line : Nat) : Option KeyId :=
  if e.level = lvSeq then seqKey s vd (line / (blockBytes s vd / 128) * (blockBytes s vd / 128) / 128)
  else slotKey s vd (e.attrs / 64)

/-- A line of the handle lies in a cell that is SEALED or UNSEALING, or in a sealed frame (R155, R136). -/
def sealedLine (s : State) (core vd asn : Nat) (e : HEntry) (line n : Nat) : Bool :=
  (e.level = lvSeq && (s.frameWord (line / (blockBytes s vd / 128) * (blockBytes s vd / 128) / 128)).sealed) ||
  (match tensorId core vd asn e with
   | none => false
   | some id => (cellKeys s vd e (cellsOfLine e n)).any fun c =>
       let st := ((s.dir id).cell c).state
       st = .sealed || st = .unsealing)

/-- Saturations of a cached tensor's demotion count in each handle that binds it, and its new format is theirs (R113, R123, R125). -/
def eachBinder (s : State) (kiln vd asn : Nat) (e : HEntry) (f : HEntry → HEntry) : State :=
  match s.coh.resident.find? fun r => r.is kiln vd asn e with
  | none => s
  | some r => (binders s r).foldl (fun s x => modPlace s (capturePlace x.1 x.2.1 x.2.2) f) s

/-- The overflow counter of a demotion job counts its saturations: its handle's, or those of a cached tensor's handles. -/
def jobOvf (s : State) (kiln : Nat) (j : Job) (n : Nat) : State :=
  if n = 0 then s
  else match j.kind with
    | .demote _ _ core i _ e => (match placeEntry s (capturePlace core i e) with
      | some _ => modPlace s (capturePlace core i e) fun x => x.addOvf n
      | none => s)
    | .residency asn e => eachBinder s kiln j.vd asn e fun x => x.addOvf n
    | .rekeyIn _ | .rekeyOut _ _ => s

/-- A line after the demotion rule, at its home (R76), and its count of saturations; a line that reads as zeros changes its format
alone. -/
def demoteHome (s : State) (line : Nat) (tgt : Fmt) : State × Nat :=
  let t := homeTag s line
  let f : Fmt := if tagFmt t = Fmt.f16.toCode then .f16 else .bf16
  if readsZero t then (landTag s line (mkTag tgt.toCode (tagVc t) 127), 0)
  else
    let (d, k, n) := demoteLine f tgt (tagLxp t) .rne (lineData s line)
    (landHome s line d (BitVec.allOnes 128) (mkTag tgt.toCode vcValid k), n)

/-- Whether a demotion job recodes a line of its handle, or leaves it and counts it as skipped: another owner's, a sealed one, one of
another format or of class CODE_PENDING, POISON or 7 (R78, R155, R325, Table 3.5). -/
def demotes (s : State) (core vd asn : Nat) (e : HEntry) (line n : Nat) : Bool :=
  keyCheck s (jobKey s vd e line) line = .current && !sealedLine s core vd asn e line n && isHalfFloat (tagFmt (homeTag s line)) &&
    tagVc (homeTag s line) ≠ vcPending && !vcPoisoned (tagVc (homeTag s line))

/-- A re-key job's step over a granule: its progress, WK from the job's first line there to the last of the job back (R185). -/
def passLine (s : State) (line : Nat) : State :=
  let g := s.granule (line / 16384)
  s.setGranule (line / 16384) { g with prog := max g.prog (line % 16384 + 1), wk := g.wk && !(g.rdir && line % 16384 = 16383) }

/-- Step 1 of R77: what has been written to the line is at its home, no copy of it stays on the die, and its class is RECODE; the class it
had. None for a line that the job leaves as it is: a demotion's, or one that the error layers fail (R177, R192), which a re-key job
passes all the same. -/
def takeLine (s : State) (kiln : Nat) (j : Job) (line n : Nat) : State × Option Nat :=
  let s := flushCopies s fun l => l = line
  let mark := fun (s : State) =>
    let t := homeTag s line
    (setHomeTag (dropLines s (fun l => l = line) false) line (mkTag (tagFmt t) vcRecode (tagLxp t)), some (tagVc t))
  let g := s.granule (line / 16384)
  let (s, rekey) := match j.kind with
    | .rekeyIn _ => (s.setGranule (line / 16384) { g with wk := true }, true)
    | .rekeyOut _ _ => (s, true)
    | .demote _ _ _ _ _ _ | .residency _ _ => (s, false)
  match meetErrors s line with
  | (s, some _) => (if rekey then passLine s line else s, none)
  | (s, none) =>
    match j.kind with
    | .demote _ _ core _ asn e => if demotes s core j.vd asn e line n then mark s else (s, none)
    | .residency asn e => if demotes s (24 * kiln) j.vd asn e line n then mark s else (s, none)
    | .rekeyIn _ | .rekeyOut _ _ => mark s

/-- Steps 2 and 3: the switch, under the class the line had (R76, R79, R198, R199): a re-keyed line stands under the destination key with
its data and tag as they were, or ZERO. -/
def switchLine (s : State) (kiln : Nat) (j : Job) (line vc : Nat) : State :=
  let t := homeTag s line
  let t := mkTag (tagFmt t) vc (tagLxp t)
  let s := setHomeTag s line t
  let rekey := fun (zero : Bool) =>
    passLine (dropLines (if zero then landHome s line 0 (BitVec.allOnes 128) (mkTag (tagFmt t) vcZero 127) else landTag s line t)
      (fun l => l = line) true) line
  match j.kind with
  | .demote e5 _ _ _ _ _ => let (s, n) := demoteHome s line (if e5 then .e5m2 else .e4m3); jobOvf s kiln j n
  | .residency _ _ => let (s, n) := demoteHome s line .e4m3; jobOvf s kiln j n
  | .rekeyIn _ => rekey false
  | .rekeyOut _ zero => rekey zero

/-- A job takes lines on until 8 are in RECODE (R77). -/
def takeLines (kiln : Nat) : Nat → Job → State → State × Job
  | 0, j, s => (s, j)
  | fuel + 1, j, s =>
    if 8 ≤ j.recode.length then (s, j)
    else match nthLine j.runs j.taken with
      | none => (s, j)
      | some (line, n) =>
        match takeLine s kiln j line n with
        | (s, some vc) => takeLines kiln fuel { j with taken := j.taken + 1, recode := j.recode ++ [(line, n, vc)] } s
        | (s, none) => takeLines kiln fuel { j with taken := j.taken + 1, done := j.done + 1, skipped := j.skipped + 1 } s

/-- RETORT_LINE_SWITCH (R77): the line of a kiln's first job that has been longest in RECODE switches, and the job takes on lines in its
place. -/
def execRetortLineSwitch (kiln : Nat) (s : State) : Host.Outcome State Fault Refusal :=
  match activeJob s kiln with
  | none => .next s
  | some j =>
    let (s, j) := match j.recode with
      | [] => (s, j)
      | (line, _, vc) :: rest => (switchLine s kiln j line vc, { j with recode := rest, done := j.done + 1 })
    let (s, j) := takeLines kiln 8 j s
    .next (setFirstJob s kiln j)

/-- A job ends: a demoted handle takes its format, its job word and, with .SW, its credit (R113, R325, R327), a cached tensor's handles
their format; a window opens, or is free again (R193, R198). -/
def endJob (s : State) (kiln : Nat) (j : Job) : State :=
  match j.kind with
  | .demote e5 sw core i _ e =>
    let d := capturePlace core i e
    match placeEntry s d with
    | none => s
    | some _ =>
      let fmt := if e5 then Fmt.e5m2.toCode else Fmt.e4m3.toCode
      let s := modPlace s d fun x => { x.setFmt fmt with busy := x.busy - 1, skipped := min j.skipped (2 ^ 32 - 1) }
      if sw then creditPlace s d (128 * e.footprint) else s
  | .residency asn e =>
    let s := eachBinder s kiln j.vd asn e fun x => x.setFmt Fmt.e4m3.toCode
    let end_ := fun (r : Resident) => if r.is kiln j.vd asn e then { r with demoted := true } else r
    { s with coh := { s.coh with resident := s.coh.resident.map end_ } }
  | .rekeyIn w =>
    let y := s.window w
    let s := y.granules.foldl (fun s g => s.setGranule g { s.granule g with rk := false, prog := 0 }) s
    s.setWindow w { y with state := .openW }
  | .rekeyOut w _ =>
    let y := s.window w
    let s := y.granules.foldl (fun s g => s.setGranule g { s.granule g with rk := false, rdir := false, prog := 0, wk := false, win := 0 }) s
    let s := unbindSlot s y.owner y.oslot (.window w y.gen)
    s.setWindow w { closer := y.closer }

/-- RETORT_JOB_END. -/
def execRetortJobEnd (kiln : Nat) (s : State) : Host.Outcome State Fault Refusal :=
  match (s.kiln kiln).jobs with
  | [] => .next s
  | j :: js => if j.total ≤ j.done then .next (endJob (s.modKiln kiln fun x => { x with jobs := js }) kiln j) else .next s

/-- A job holds a line of a granule in RECODE. -/
def recoding (s : State) (g : Nat) : Bool := s.kilns.any fun k => k.2.jobs.any fun j => j.recode.any fun l => l.1 / 16384 = g

/-- GRANULE_ASSIGN (R182): an HBM granule below the carve-out to another owner, a VD or the physical function; one of the sequence store's
backing region only to a VD whose aperture maps it (R41). A job's line in RECODE there is waited for (R77). -/
def execGranuleAssign (g owner : Nat) (s : State) : Host.Outcome State Fault Refusal :=
  let mapped := !inSqRange s (g * 2 ^ 21) || owner = 64 || (s.vd owner).aperture.any fun x => decide (4096 ≤ x.1) && x.2 = g + 1
  if region (g * 2 ^ 21) = .hbm && decide (owner ≤ 64) && !(s.granule g).rk && !(s.granule g).wk && !recoding s g && mapped then .next (assignGranule s g owner) else .next s

/-- SCRUB_LINE (R180): a correctable line is rewritten as it was, an uncorrectable one is marked. An exhausted transfer is logged, with no
interrupt; a failing MAC or counter path is left to whoever consumes the line (log entry 61, DESIGN CHOICE). -/
def execScrubLine (line : Nat) (s : State) : Host.Outcome State Fault Refusal :=
  match health s line with
  | .good | .fault .integrity => .next s
  | .fault _ => .next ((clearError s line).send (.pfLog 6 (BitVec.ofNat 64 (line * 128))))
  | .retried => .next (clearError s line)
  | .corrected => .next (correctLine s line)
  | .mark => .next (logLine (markLine s line) 2 line)

/-! The calendar network. -/

/-- Of two requests for a slot of this cycle, whether the first goes before the second: one that has missed a slot of its pair, as one
issued 24 cycles ago or more has, before a fresh one, the older issue, then the fixed order (R118). -/
def CalReq.before (now : Nat) (a b : CalReq) : Bool :=
  let missed := fun (x : CalReq) => decide (x.issued + 24 ≤ now)
  if missed a ≠ missed b then missed a
  else if missed a && a.issued ≠ b.issued then decide (a.issued < b.issued)
  else decide (a.rank < b.rank)

/-- CALENDAR_SLOT (R117): on this cycle the core's slot serves one channel pair; the first request for it departs. -/
def execCalendarSlot (core : Nat) (s : State) : Host.Outcome State Fault Refusal :=
  let pair := (s.now + core % 24) % 24
  let xs := (s.core core).calendar.zipIdx.filter fun x => x.1.pair = pair && x.1.departs.isNone
  match xs.foldl (fun (b : Option (CalReq × Nat)) x => match b with
      | none => some x
      | some y => if x.1.before s.now y.1 then some x else some y) none with
  | none => .next s
  | some (r, j) => .next (s.modCore core fun c => { c with calendar := c.calendar.set j { r with departs := some s.now } })

/-- KILN_STORE_ACCESS_COMPLETE: an access is complete 48 cycles after its slot. -/
def execKilnStoreAccessComplete (core : Nat) (s : State) : Host.Outcome State Fault Refusal :=
  let passed := fun (r : CalReq) => match r.departs with | some d => decide (d + 48 ≤ s.now) | none => false
  match (s.core core).calendar.find? passed with
  | none => .next s
  | some r => .next (s.modCore core fun c => { c with calendar := c.calendar.erase r })

/-- RESIDENCY_FILL (R122): one more line of a tensor of the kiln has arrived. -/
def execResidencyFill (kiln tensor : Nat) (s : State) : Host.Outcome State Fault Refusal :=
  match s.coh.resident[tensor]? with
  | none => .next s
  | some r =>
    if r.kiln = kiln && decide (r.filled < r.lines) then
      .next { s with coh := { s.coh with resident := s.coh.resident.set tensor { r with filled := r.filled + 1 } } }
    else .next s

/-- LINE_WRITEBACK_CROSS (R169): a sector in its owner's write-back buffer meets a forwarded read of another core, which takes ownership, M for
an exclusive request, O otherwise, and the home discards the crossing write-back's data; without a reader the write-back reaches the home. Either
way it is acknowledged and leaves the buffer. `wb` is the sector and owner, as the state keys them. -/
def execLineWritebackCross (wb core : Nat) (excl : Bool) (s : State) : Host.Outcome State Fault Refusal :=
  if s.coh.writebacks.contains wb then
    let sec := wb / 256
    let s := { s with coh := { s.coh with writebacks := s.coh.writebacks.filter fun k => k ≠ wb } }
    if core = wb % 256 || Config.cores ≤ core then .next s
    else
      let s := if excl then dropSectors s fun k => k / 256 = sec && k % 256 ≠ core else s
      .next { s with coh := { s.coh with sectors := SMap.set .i s.coh.sectors (sec * 256 + core) (if excl then .m else .o) } }
  else .next s

end Sys2Proof.Machine
end

