-- ==== Sys2Proof/Machine/Scalar.lean ====
section
/-!
DEFINITION. Sys2Proof/Machine/Scalar.lean: the integer, constant and bit-field instructions (R277 to R279) and the
predicate instructions (R285, R286).
-/

namespace Sys2Proof.Machine

open Sys2Proof

/-- A three-register instruction: rd := f(a, b). -/
def opRRR (i : Instr) (rd ra rb : BitVec 6) (f : Word → Word → Word) (s : State) : Host.Outcome State Fault Refusal :=
  issue i s (onCtx fun c => c.setS rd (f (c.s ra) (c.s rb)))

/-- A two-register instruction: rd := f(a). -/
def opRR (i : Instr) (rd ra : BitVec 6) (f : Word → Word) (s : State) : Host.Outcome State Fault Refusal :=
  issue i s (onCtx fun c => c.setS rd (f (c.s ra)))

/-- The number of zero bits above the highest one bit (R277). -/
def clz (a : Word) : Word := if a = 0 then 64 else BitVec.ofNat 64 (63 - a.toNat.log2)

/-- Trailing zeros, counted upward. -/
def ctzFrom (a : Word) : Nat → Nat → Nat
  | 0, i => i
  | n + 1, i => if a.getLsbD i then i else ctzFrom a n (i + 1)

def ctz (a : Word) : Word := BitVec.ofNat 64 (ctzFrom a 64 0)

/-- One bits among the lowest n. -/
def popFrom (a : Nat) : Nat → Nat
  | 0 => 0
  | n + 1 => a % 2 + popFrom (a / 2) n

def popc (a : Word) : Word := BitVec.ofNat 64 (popFrom a.toNat 64)

/-- The amount of a shift or rotate by a register: its low six bits (R277). -/
def amt (b : Word) : Nat := b.toNat % 64

def execAdd (c : Ctl) (rd ra rb : BitVec 6) (s : State) : Host.Outcome State Fault Refusal :=
  opRRR (.add c rd ra rb) rd ra rb (fun a b => a + b) s
def execAddi (c : Ctl) (rd ra : BitVec 6) (imm : BitVec 20) (s : State) : Host.Outcome State Fault Refusal :=
  opRR (.addi c rd ra imm) rd ra (fun a => a + imm.signExtend 64) s
def execSub (c : Ctl) (rd ra rb : BitVec 6) (s : State) : Host.Outcome State Fault Refusal :=
  opRRR (.sub c rd ra rb) rd ra rb (fun a b => a - b) s
def execMul (c : Ctl) (rd ra rb : BitVec 6) (s : State) : Host.Outcome State Fault Refusal :=
  opRRR (.mul c rd ra rb) rd ra rb (fun a b => a * b) s
def execMulh (c : Ctl) (rd ra rb : BitVec 6) (s : State) : Host.Outcome State Fault Refusal :=
  opRRR (.mulh c rd ra rb) rd ra rb (fun a b => BitVec.ofInt 64 (a.toInt * b.toInt / 2 ^ 64)) s
def execMulhu (c : Ctl) (rd ra rb : BitVec 6) (s : State) : Host.Outcome State Fault Refusal :=
  opRRR (.mulhu c rd ra rb) rd ra rb (fun a b => BitVec.ofNat 64 (a.toNat * b.toNat / 2 ^ 64)) s

/-- A division or remainder: a zero divisor gives the stated result and sets IDZ (R278). -/
def opDiv (i : Instr) (rd ra rb : BitVec 6) (zero : Word → Word) (f : Word → Word → Word) (s : State) :
    Host.Outcome State Fault Refusal :=
  issue i s (onCtx fun c =>
    if c.s rb = 0 then (c.setS rd (zero (c.s ra))).setIdz else c.setS rd (f (c.s ra) (c.s rb)))

def execDiv (c : Ctl) (rd ra rb : BitVec 6) (s : State) : Host.Outcome State Fault Refusal :=
  opDiv (.div c rd ra rb) rd ra rb (fun _ => BitVec.allOnes 64) (fun a b => BitVec.ofInt 64 (a.toInt.tdiv b.toInt)) s
def execDivu (c : Ctl) (rd ra rb : BitVec 6) (s : State) : Host.Outcome State Fault Refusal :=
  opDiv (.divu c rd ra rb) rd ra rb (fun _ => BitVec.allOnes 64) (fun a b => BitVec.ofNat 64 (a.toNat / b.toNat)) s
def execRem (c : Ctl) (rd ra rb : BitVec 6) (s : State) : Host.Outcome State Fault Refusal :=
  opDiv (.rem c rd ra rb) rd ra rb (fun a => a) (fun a b => BitVec.ofInt 64 (a.toInt.tmod b.toInt)) s
def execRemu (c : Ctl) (rd ra rb : BitVec 6) (s : State) : Host.Outcome State Fault Refusal :=
  opDiv (.remu c rd ra rb) rd ra rb (fun a => a) (fun a b => BitVec.ofNat 64 (a.toNat % b.toNat)) s
def execAnd (c : Ctl) (rd ra rb : BitVec 6) (s : State) : Host.Outcome State Fault Refusal :=
  opRRR (.and c rd ra rb) rd ra rb (fun a b => a &&& b) s
def execAndi (c : Ctl) (rd ra : BitVec 6) (imm : BitVec 20) (s : State) : Host.Outcome State Fault Refusal :=
  opRR (.andi c rd ra imm) rd ra (fun a => a &&& imm.signExtend 64) s
def execOr (c : Ctl) (rd ra rb : BitVec 6) (s : State) : Host.Outcome State Fault Refusal :=
  opRRR (.or c rd ra rb) rd ra rb (fun a b => a ||| b) s
def execOri (c : Ctl) (rd ra : BitVec 6) (imm : BitVec 20) (s : State) : Host.Outcome State Fault Refusal :=
  opRR (.ori c rd ra imm) rd ra (fun a => a ||| imm.signExtend 64) s
def execXor (c : Ctl) (rd ra rb : BitVec 6) (s : State) : Host.Outcome State Fault Refusal :=
  opRRR (.xor c rd ra rb) rd ra rb (fun a b => a ^^^ b) s
def execXori (c : Ctl) (rd ra : BitVec 6) (imm : BitVec 20) (s : State) : Host.Outcome State Fault Refusal :=
  opRR (.xori c rd ra imm) rd ra (fun a => a ^^^ imm.signExtend 64) s
def execAndn (c : Ctl) (rd ra rb : BitVec 6) (s : State) : Host.Outcome State Fault Refusal :=
  opRRR (.andn c rd ra rb) rd ra rb (fun a b => a &&& ~~~b) s
def execShl (c : Ctl) (rd ra rb : BitVec 6) (s : State) : Host.Outcome State Fault Refusal :=
  opRRR (.shl c rd ra rb) rd ra rb (fun a b => a <<< amt b) s
def execShli (c : Ctl) (rd ra imm : BitVec 6) (s : State) : Host.Outcome State Fault Refusal :=
  opRR (.shli c rd ra imm) rd ra (fun a => a <<< imm.toNat) s
def execShr (c : Ctl) (rd ra rb : BitVec 6) (s : State) : Host.Outcome State Fault Refusal :=
  opRRR (.shr c rd ra rb) rd ra rb (fun a b => a >>> amt b) s
def execShri (c : Ctl) (rd ra imm : BitVec 6) (s : State) : Host.Outcome State Fault Refusal :=
  opRR (.shri c rd ra imm) rd ra (fun a => a >>> imm.toNat) s
def execSra (c : Ctl) (rd ra rb : BitVec 6) (s : State) : Host.Outcome State Fault Refusal :=
  opRRR (.sra c rd ra rb) rd ra rb (fun a b => a.sshiftRight (amt b)) s
def execSrai (c : Ctl) (rd ra imm : BitVec 6) (s : State) : Host.Outcome State Fault Refusal :=
  opRR (.srai c rd ra imm) rd ra (fun a => a.sshiftRight imm.toNat) s
def execRot (c : Ctl) (rd ra rb : BitVec 6) (s : State) : Host.Outcome State Fault Refusal :=
  opRRR (.rot c rd ra rb) rd ra rb (fun a b => a.rotateRight (amt b)) s
def execClz (c : Ctl) (rd ra : BitVec 6) (s : State) : Host.Outcome State Fault Refusal :=
  opRR (.clz c rd ra) rd ra clz s
def execCtz (c : Ctl) (rd ra : BitVec 6) (s : State) : Host.Outcome State Fault Refusal :=
  opRR (.ctz c rd ra) rd ra ctz s
def execPopc (c : Ctl) (rd ra : BitVec 6) (s : State) : Host.Outcome State Fault Refusal :=
  opRR (.popc c rd ra) rd ra popc s
def execMin (c : Ctl) (rd ra rb : BitVec 6) (s : State) : Host.Outcome State Fault Refusal :=
  opRRR (.min c rd ra rb) rd ra rb (fun a b => if b.slt a then b else a) s
def execMinu (c : Ctl) (rd ra rb : BitVec 6) (s : State) : Host.Outcome State Fault Refusal :=
  opRRR (.minu c rd ra rb) rd ra rb (fun a b => if b.ult a then b else a) s
def execMax (c : Ctl) (rd ra rb : BitVec 6) (s : State) : Host.Outcome State Fault Refusal :=
  opRRR (.max c rd ra rb) rd ra rb (fun a b => if a.slt b then b else a) s
def execMaxu (c : Ctl) (rd ra rb : BitVec 6) (s : State) : Host.Outcome State Fault Refusal :=
  opRRR (.maxu c rd ra rb) rd ra rb (fun a b => if a.ult b then b else a) s
def execSel (c : Ctl) (rd ra rb : BitVec 6) (pc : BitVec 3) (s : State) : Host.Outcome State Fault Refusal :=
  issue (.sel c rd ra rb pc) s (onCtx fun x => x.setS rd (if x.p pc then x.s ra else x.s rb))
def execLi (c : Ctl) (rd : BitVec 6) (imm : BitVec 26) (s : State) : Host.Outcome State Fault Refusal :=
  issue (.li c rd imm) s (onCtx fun x => x.setS rd (imm.signExtend 64))

/-- A word with bits [16k+15:16k] replaced (R279). -/
def putHalf (w : Word) (imm : BitVec 16) (k : BitVec 2) : Word :=
  (w &&& ~~~((0xFFFF : Word) <<< (16 * k.toNat))) ||| (imm.setWidth 64 <<< (16 * k.toNat))

def execLih (c : Ctl) (rd : BitVec 6) (imm : BitVec 16) (k : BitVec 2) (s : State) : Host.Outcome State Fault Refusal :=
  issue (.lih c rd imm k) s (onCtx fun x => x.setS rd (putHalf (x.s rd) imm k))

/-- A mask of the n lowest bits. -/
def lowMask (n : Nat) : Word := BitVec.ofNat 64 (2 ^ n - 1)

/-- a[pos+len−1:pos], zero- or sign-extended (Table 11.3). -/
def extract (a : Word) (pos len : Nat) (sgn : Bool) : Word :=
  let v := (a >>> pos) &&& lowMask len
  if sgn && v.getLsbD (len - 1) then v ||| ~~~(lowMask len) else v

/-- w with bits [pos+len−1:pos] replaced by a[len−1:0] (Table 11.3). -/
def insert (w a : Word) (pos len : Nat) : Word :=
  (w &&& ~~~(lowMask len <<< pos)) ||| ((a &&& lowMask len) <<< pos)

def execExt (c : Ctl) (rd ra pos lenM1 : BitVec 6) (sgn : Bool) (s : State) : Host.Outcome State Fault Refusal :=
  opRR (.ext c rd ra pos lenM1 sgn) rd ra (fun a => extract a pos.toNat (lenM1.toNat + 1) sgn) s
def execIns (c : Ctl) (rd ra pos lenM1 : BitVec 6) (s : State) : Host.Outcome State Fault Refusal :=
  issue (.ins c rd ra pos lenM1) s (onCtx fun x => x.setS rd (insert (x.s rd) (x.s ra) pos.toNat (lenM1.toNat + 1)))
def execAddx (c : Ctl) (rd ra rb : BitVec 6) (sh : BitVec 3) (s : State) : Host.Outcome State Fault Refusal :=
  opRRR (.addx c rd ra rb sh) rd ra rb (fun a b => a + (b <<< sh.toNat)) s

/-- The conditions of CMP (Table 11.6). -/
def cmpHolds (cc : BitVec 4) (a b : Word) : Bool :=
  match cc.toNat with
  | 0 => a == b
  | 1 => a != b
  | 2 => a.slt b
  | 3 => a.sle b
  | 4 => b.slt a
  | 5 => b.sle a
  | 6 => a.ult b
  | 7 => a.ule b
  | 8 => b.ult a
  | _ => b.ule a

def execCmp (c : Ctl) (pd : BitVec 3) (ra rb : BitVec 6) (cc : BitVec 4) (s : State) :
    Host.Outcome State Fault Refusal :=
  issue (.cmp c pd ra rb cc) s (onCtx fun x => x.setP pd (cmpHolds cc (x.s ra) (x.s rb)))
def execPand (c : Ctl) (pd pa pb : BitVec 3) (s : State) : Host.Outcome State Fault Refusal :=
  issue (.pand c pd pa pb) s (onCtx fun x => x.setP pd (x.p pa && x.p pb))
def execPor (c : Ctl) (pd pa pb : BitVec 3) (s : State) : Host.Outcome State Fault Refusal :=
  issue (.por c pd pa pb) s (onCtx fun x => x.setP pd (x.p pa || x.p pb))
def execPxor (c : Ctl) (pd pa pb : BitVec 3) (s : State) : Host.Outcome State Fault Refusal :=
  issue (.pxor c pd pa pb) s (onCtx fun x => x.setP pd (x.p pa ^^ x.p pb))
def execPnot (c : Ctl) (pd pa : BitVec 3) (s : State) : Host.Outcome State Fault Refusal :=
  issue (.pnot c pd pa) s (onCtx fun x => x.setP pd (!x.p pa))
def execPmov (c : Ctl) (pd pa : BitVec 3) (s : State) : Host.Outcome State Fault Refusal :=
  issue (.pmov c pd pa) s (onCtx fun x => x.setP pd (x.p pa))

/-- The predicates as the bits {p7, …, p1, 1} (Table 11.7). -/
def Ctx.predWord (x : Ctx) : Word :=
  BitVec.ofBool (x.p 7) ++ BitVec.ofBool (x.p 6) ++ BitVec.ofBool (x.p 5) ++ BitVec.ofBool (x.p 4) ++
    BitVec.ofBool (x.p 3) ++ BitVec.ofBool (x.p 2) ++ BitVec.ofBool (x.p 1) ++ 1#1 |>.setWidth 64

/-- p1 to p7 from bits [7:1] of a word (Table 11.7). -/
def Ctx.setPreds (x : Ctx) (a : Word) : Ctx :=
  { x with preds := Vector.ofFn fun (j : Fin 8) => if j.val = 0 then x.preds[0] else a.getLsbD j.val }

def execPmovGet (c : Ctl) (rd : BitVec 6) (s : State) : Host.Outcome State Fault Refusal :=
  issue (.pmovGet c rd) s (onCtx fun x => x.setS rd x.predWord)
def execPmovSet (c : Ctl) (ra : BitVec 6) (s : State) : Host.Outcome State Fault Refusal :=
  issue (.pmovSet c ra) s (onCtx fun x => x.setPreds (x.s ra))

end Sys2Proof.Machine
end

