-- ==== Sys2Proof/Machine/Dispatch.lean ====
section
/-!
DEFINITION. Sys2Proof/Machine/Dispatch.lean: one arm for each constructor of Instr, each a direct call of its meaning.
-/

namespace Sys2Proof.Machine

open Sys2Proof

def exec (i : Instr) (s : State) : Host.Outcome State Fault Refusal :=
  match i with
  | .add c rd ra rb => Sys2Proof.Machine.execAdd c rd ra rb s
  | .addi c rd ra imm => Sys2Proof.Machine.execAddi c rd ra imm s
  | .sub c rd ra rb => Sys2Proof.Machine.execSub c rd ra rb s
  | .mul c rd ra rb => Sys2Proof.Machine.execMul c rd ra rb s
  | .mulh c rd ra rb => Sys2Proof.Machine.execMulh c rd ra rb s
  | .mulhu c rd ra rb => Sys2Proof.Machine.execMulhu c rd ra rb s
  | .div c rd ra rb => Sys2Proof.Machine.execDiv c rd ra rb s
  | .divu c rd ra rb => Sys2Proof.Machine.execDivu c rd ra rb s
  | .rem c rd ra rb => Sys2Proof.Machine.execRem c rd ra rb s
  | .remu c rd ra rb => Sys2Proof.Machine.execRemu c rd ra rb s
  | .and c rd ra rb => Sys2Proof.Machine.execAnd c rd ra rb s
  | .andi c rd ra imm => Sys2Proof.Machine.execAndi c rd ra imm s
  | .or c rd ra rb => Sys2Proof.Machine.execOr c rd ra rb s
  | .ori c rd ra imm => Sys2Proof.Machine.execOri c rd ra imm s
  | .xor c rd ra rb => Sys2Proof.Machine.execXor c rd ra rb s
  | .xori c rd ra imm => Sys2Proof.Machine.execXori c rd ra imm s
  | .andn c rd ra rb => Sys2Proof.Machine.execAndn c rd ra rb s
  | .shl c rd ra rb => Sys2Proof.Machine.execShl c rd ra rb s
  | .shli c rd ra imm => Sys2Proof.Machine.execShli c rd ra imm s
  | .shr c rd ra rb => Sys2Proof.Machine.execShr c rd ra rb s
  | .shri c rd ra imm => Sys2Proof.Machine.execShri c rd ra imm s
  | .sra c rd ra rb => Sys2Proof.Machine.execSra c rd ra rb s
  | .srai c rd ra imm => Sys2Proof.Machine.execSrai c rd ra imm s
  | .rot c rd ra rb => Sys2Proof.Machine.execRot c rd ra rb s
  | .clz c rd ra => Sys2Proof.Machine.execClz c rd ra s
  | .ctz c rd ra => Sys2Proof.Machine.execCtz c rd ra s
  | .popc c rd ra => Sys2Proof.Machine.execPopc c rd ra s
  | .min c rd ra rb => Sys2Proof.Machine.execMin c rd ra rb s
  | .minu c rd ra rb => Sys2Proof.Machine.execMinu c rd ra rb s
  | .max c rd ra rb => Sys2Proof.Machine.execMax c rd ra rb s
  | .maxu c rd ra rb => Sys2Proof.Machine.execMaxu c rd ra rb s
  | .sel c rd ra rb pc => Sys2Proof.Machine.execSel c rd ra rb pc s
  | .li c rd imm => Sys2Proof.Machine.execLi c rd imm s
  | .lih c rd imm k => Sys2Proof.Machine.execLih c rd imm k s
  | .ext c rd ra pos lenM1 sgn => Sys2Proof.Machine.execExt c rd ra pos lenM1 sgn s
  | .ins c rd ra pos lenM1 => Sys2Proof.Machine.execIns c rd ra pos lenM1 s
  | .addx c rd ra rb sh => Sys2Proof.Machine.execAddx c rd ra rb sh s
  | .fadd c rd ra rb rm => Sys2Proof.Machine.execFadd c rd ra rb rm s
  | .fsub c rd ra rb rm => Sys2Proof.Machine.execFsub c rd ra rb rm s
  | .fmul c rd ra rb rm => Sys2Proof.Machine.execFmul c rd ra rb rm s
  | .ffma c rd ra rb rc rm => Sys2Proof.Machine.execFfma c rd ra rb rc rm s
  | .fmin c rd ra rb => Sys2Proof.Machine.execFmin c rd ra rb s
  | .fmax c rd ra rb => Sys2Proof.Machine.execFmax c rd ra rb s
  | .fcvt c rd ra dst src rm => Sys2Proof.Machine.execFcvt c rd ra dst src rm s
  | .fcmp c pd ra rb cc => Sys2Proof.Machine.execFcmp c pd ra rb cc s
  | .cmp c pd ra rb cc => Sys2Proof.Machine.execCmp c pd ra rb cc s
  | .pand c pd pa pb => Sys2Proof.Machine.execPand c pd pa pb s
  | .por c pd pa pb => Sys2Proof.Machine.execPor c pd pa pb s
  | .pxor c pd pa pb => Sys2Proof.Machine.execPxor c pd pa pb s
  | .pnot c pd pa => Sys2Proof.Machine.execPnot c pd pa s
  | .pmov c pd pa => Sys2Proof.Machine.execPmov c pd pa s
  | .pmovGet c rd => Sys2Proof.Machine.execPmovGet c rd s
  | .pmovSet c ra => Sys2Proof.Machine.execPmovSet c ra s
  | .pbr c bt tgt => Sys2Proof.Machine.execPbr c bt tgt s
  | .br c bt d => Sys2Proof.Machine.execBr c bt d s
  | .call c rd bt d => Sys2Proof.Machine.execCall c rd bt d s
  | .ret c ra d => Sys2Proof.Machine.execRet c ra d s
  | .bsm c ra imm => Sys2Proof.Machine.execBsm c ra imm s
  | .bsmT c ra imm => Sys2Proof.Machine.execBsmT c ra imm s
  | .vany c pd vpa vpm => Sys2Proof.Machine.execVany c pd vpa vpm s
  | .vall c pd vpa vpm => Sys2Proof.Machine.execVall c pd vpa vpm s
  | .halt c => Sys2Proof.Machine.execHalt c s
  | .yield c => Sys2Proof.Machine.execYield c s
  | .suspend c ra => Sys2Proof.Machine.execSuspend c ra s
  | .suspendRel c ra => Sys2Proof.Machine.execSuspendRel c ra s
  | .nop c => Sys2Proof.Machine.execNop c s
  | .ldb c rd ra sgn ord imm sc => Sys2Proof.Machine.execLdb c rd ra sgn ord imm sc s
  | .ldh c rd ra sgn ord imm sc => Sys2Proof.Machine.execLdh c rd ra sgn ord imm sc s
  | .ldw c rd ra sgn ord imm sc => Sys2Proof.Machine.execLdw c rd ra sgn ord imm sc s
  | .ldd c rd ra ord imm sc => Sys2Proof.Machine.execLdd c rd ra ord imm sc s
  | .stb c ra imm rb ord sc => Sys2Proof.Machine.execStb c ra imm rb ord sc s
  | .sth c ra imm rb ord sc => Sys2Proof.Machine.execSth c ra imm rb ord sc s
  | .stw c ra imm rb ord sc => Sys2Proof.Machine.execStw c ra imm rb ord sc s
  | .std c ra imm rb ord sc => Sys2Proof.Machine.execStd c ra imm rb ord sc s
  | .pref c ra imm wr => Sys2Proof.Machine.execPref c ra imm wr s
  | .aadd c rd ra rb dbl ord sc => Sys2Proof.Machine.execAadd c rd ra rb dbl ord sc s
  | .aand c rd ra rb dbl ord sc => Sys2Proof.Machine.execAand c rd ra rb dbl ord sc s
  | .aor c rd ra rb dbl ord sc => Sys2Proof.Machine.execAor c rd ra rb dbl ord sc s
  | .axor c rd ra rb dbl ord sc => Sys2Proof.Machine.execAxor c rd ra rb dbl ord sc s
  | .amin c rd ra rb uns dbl ord sc => Sys2Proof.Machine.execAmin c rd ra rb uns dbl ord sc s
  | .amax c rd ra rb uns dbl ord sc => Sys2Proof.Machine.execAmax c rd ra rb uns dbl ord sc s
  | .aswp c rd ra rb dbl ord sc => Sys2Proof.Machine.execAswp c rd ra rb dbl ord sc s
  | .acas c rd ra rb rc dbl ord sc => Sys2Proof.Machine.execAcas c rd ra rb rc dbl ord sc s
  | .monitor c ra imm => Sys2Proof.Machine.execMonitor c ra imm s
  | .mwait c ra => Sys2Proof.Machine.execMwait c ra s
  | .fence c ord sc => Sys2Proof.Machine.execFence c ord sc s
  | .mfence c qs sc => Sys2Proof.Machine.execMfence c qs sc s
  | .join c => Sys2Proof.Machine.execJoin c s
  | .xfence c ord => Sys2Proof.Machine.execXfence c ord s
  | .publish c ra rb sc => Sys2Proof.Machine.execPublish c ra rb sc s
  | .wfence c sc => Sys2Proof.Machine.execWfence c sc s
  | .bara c rd sc => Sys2Proof.Machine.execBara c rd sc s
  | .barw c ra sc => Sys2Proof.Machine.execBarw c ra sc s
  | .swset c h ra => Sys2Proof.Machine.execSwset c h ra s
  | .swadd c h ra ord sc => Sys2Proof.Machine.execSwadd c h ra ord sc s
  | .swait c h ra sc => Sys2Proof.Machine.execSwait c h ra sc s
  | .swread c rd h ord sc => Sys2Proof.Machine.execSwread c rd h ord sc s
  | .halloc c h rd rs ra => Sys2Proof.Machine.execHalloc c h rd rs ra s
  | .hbind c h rv rs ra => Sys2Proof.Machine.execHbind c h rv rs ra s
  | .hfree c h => Sys2Proof.Machine.execHfree c h s
  | .hshape c h rs => Sys2Proof.Machine.execHshape c h rs s
  | .htenRead c h rw rx => Sys2Proof.Machine.execHtenRead c h rw rx s
  | .htenWrite c h rw rx => Sys2Proof.Machine.execHtenWrite c h rw rx s
  | .hrel c h rw rx => Sys2Proof.Machine.execHrel c h rw rx s
  | .hseal c h rw rx => Sys2Proof.Machine.execHseal c h rw rx s
  | .hunseal c h rw rx => Sys2Proof.Machine.execHunseal c h rw rx s
  | .hsplit c h rw rx => Sys2Proof.Machine.execHsplit c h rw rx s
  | .hprio c h ra => Sys2Proof.Machine.execHprio c h ra s
  | .hevict c h => Sys2Proof.Machine.execHevict c h s
  | .hdemote c h e5 sw => Sys2Proof.Machine.execHdemote c h e5 sw s
  | .hzero c h => Sys2Proof.Machine.execHzero c h s
  | .hq c rd h w => Sys2Proof.Machine.execHq c rd h w s
  | .sqmap c rd rn rc rg => Sys2Proof.Machine.execSqmap c rd rn rc rg s
  | .sqshare c rd rn rm rc rw => Sys2Proof.Machine.execSqshare c rd rn rm rc rw s
  | .sqfree c rn rc => Sys2Proof.Machine.execSqfree c rn rc s
  | .wopen c rd ra rb rp sq => Sys2Proof.Machine.execWopen c rd ra rb rp sq s
  | .wclose c rw zero => Sys2Proof.Machine.execWclose c rw zero s
  | .vadd c vd va vb n m => Sys2Proof.Machine.execVadd c vd va vb n m s
  | .vsub c vd va vb n m => Sys2Proof.Machine.execVsub c vd va vb n m s
  | .vmul c vd va vb n m => Sys2Proof.Machine.execVmul c vd va vb n m s
  | .vfma c vd va vb vc n m => Sys2Proof.Machine.execVfma c vd va vb vc n m s
  | .vfms c vd va vb vc n m => Sys2Proof.Machine.execVfms c vd va vb vc n m s
  | .vmin c vd va vb n m => Sys2Proof.Machine.execVmin c vd va vb n m s
  | .vmax c vd va vb n m => Sys2Proof.Machine.execVmax c vd va vb n m s
  | .vabs c vd va n m => Sys2Proof.Machine.execVabs c vd va n m s
  | .vneg c vd va n m => Sys2Proof.Machine.execVneg c vd va n m s
  | .vand c vd va vb n m => Sys2Proof.Machine.execVand c vd va vb n m s
  | .vor c vd va vb n m => Sys2Proof.Machine.execVor c vd va vb n m s
  | .vxor c vd va vb n m => Sys2Proof.Machine.execVxor c vd va vb n m s
  | .vshl c vd va vb n m => Sys2Proof.Machine.execVshl c vd va vb n m s
  | .vshr c vd va vb n m => Sys2Proof.Machine.execVshr c vd va vb n m s
  | .vsra c vd va vb n m => Sys2Proof.Machine.execVsra c vd va vb n m s
  | .vcmp c vpd va vb n m cc => Sys2Proof.Machine.execVcmp c vpd va vb n m cc s
  | .vsel c vd va vb vps n m => Sys2Proof.Machine.execVsel c vd va vb vps n m s
  | .vcvt c vd va fmt h n m lx => Sys2Proof.Machine.execVcvt c vd va fmt h n m lx s
  | .vqblk c vd vs va h n tgt => Sys2Proof.Machine.execVqblk c vd vs va h n tgt s
  | .vdeq c vd va vs f32 n m => Sys2Proof.Machine.execVdeq c vd va vs f32 n m s
  | .vtagGet c rd va r => Sys2Proof.Machine.execVtagGet c rd va r s
  | .vtagSet c vd ra r => Sys2Proof.Machine.execVtagSet c vd ra r s
  | .vtagSetAll c vd ra => Sys2Proof.Machine.execVtagSetAll c vd ra s
  | .vretag c vd va fmt n => Sys2Proof.Machine.execVretag c vd va fmt n s
  | .vsplat c vd ra fmt n m => Sys2Proof.Machine.execVsplat c vd ra fmt n m s
  | .vmovsGet c rd va rb => Sys2Proof.Machine.execVmovsGet c rd va rb s
  | .vmovsPut c vd ra rb => Sys2Proof.Machine.execVmovsPut c vd ra rb s
  | .vsetvl c rd ra => Sys2Proof.Machine.execVsetvl c rd ra s
  | .vpand c vpd vpa vpb n m => Sys2Proof.Machine.execVpand c vpd vpa vpb n m s
  | .vpor c vpd vpa vpb n m => Sys2Proof.Machine.execVpor c vpd vpa vpb n m s
  | .vpnot c vpd vpa n m => Sys2Proof.Machine.execVpnot c vpd vpa n m s
  | .vpcnt c rd vpa n m => Sys2Proof.Machine.execVpcnt c rd vpa n m s
  | .vld c vd h ra rb n m o => Sys2Proof.Machine.execVld c vd h ra rb n m o s
  | .vst c h ra rb vs n m o => Sys2Proof.Machine.execVst c h ra rb vs n m o s
  | .vgth c vd ra vi sh n m o => Sys2Proof.Machine.execVgth c vd ra vi sh n m o s
  | .vsct c ra vi vs sh n m o => Sys2Proof.Machine.execVsct c ra vi vs sh n m o s
  | .vrot c vd va rb n m ax => Sys2Proof.Machine.execVrot c vd va rb n m ax s
  | .vbc c vd va rb n m ax => Sys2Proof.Machine.execVbc c vd va rb n m ax s
  | .vred c vd va n m ax rop => Sys2Proof.Machine.execVred c vd va n m ax rop s
  | .vscan c vd va n m ax rop => Sys2Proof.Machine.execVscan c vd va n m ax rop s
  | .vtrn c vd va m => Sys2Proof.Machine.execVtrn c vd va m s
  | .vshuf c vd va vi n m => Sys2Proof.Machine.execVshuf c vd va vi n m s
  | .vcmpr c vd va vps n => Sys2Proof.Machine.execVcmpr c vd va vps n s
  | .vexp2 c vd va n m => Sys2Proof.Machine.execVexp2 c vd va n m s
  | .vlog2 c vd va n m => Sys2Proof.Machine.execVlog2 c vd va n m s
  | .vrcp c vd va n m => Sys2Proof.Machine.execVrcp c vd va n m s
  | .vrsq c vd va n m => Sys2Proof.Machine.execVrsq c vd va n m s
  | .vsqrt c vd va n m => Sys2Proof.Machine.execVsqrt c vd va n m s
  | .vtanh c vd va n m => Sys2Proof.Machine.execVtanh c vd va n m s
  | .vsin c vd va n m => Sys2Proof.Machine.execVsin c vd va n m s
  | .vqpush c q va n => Sys2Proof.Machine.execVqpush c q va n s
  | .vqpop c vd q n => Sys2Proof.Machine.execVqpop c vd q n s
  | .vqstat c rd q => Sys2Proof.Machine.execVqstat c rd q s
  | .mshape c ra rb i32 => Sys2Proof.Machine.execMshape c ra rb i32 s
  | .mzero c t => Sys2Proof.Machine.execMzero c t s
  | .mma c t va vb vsa vsb g => Sys2Proof.Machine.execMma c t va vb vsa vsb g s
  | .mmag c t va vb vsa vsb g prM1 pcM1 => Sys2Proof.Machine.execMmag c t va vb vsa vsb g prM1 pcM1 s
  | .mlda c t h ra => Sys2Proof.Machine.execMlda c t h ra s
  | .msta c h t ra band o => Sys2Proof.Machine.execMsta c h t ra band o s
  | .mdrain c => Sys2Proof.Machine.execMdrain c s
  | .movcG c vd t b => Sys2Proof.Machine.execMovcG c vd t b s
  | .movcP c t va b => Sys2Proof.Machine.execMovcP c t va b s
  | .rmode c qs mode => Sys2Proof.Machine.execRmode c qs mode s
  | .cpy c rd hd hs rp rn ch nc => Sys2Proof.Machine.execCpy c rd hd hs rp rn ch nc s
  | .cpyX c rd hd hs rp rn ch nc => Sys2Proof.Machine.execCpyX c rd hd hs rp rn ch nc s
  | .cpyt c rt hd hs rp rn ch x nc => Sys2Proof.Machine.execCpyt c rt hd hs rp rn ch x nc s
  | .cmcast c rd hd hs rp rn ch nc => Sys2Proof.Machine.execCmcast c rd hd hs rp rn ch nc s
  | .gath c rd hd ra vi vpd k ch nc => Sys2Proof.Machine.execGath c rd hd ra vi vpd k ch nc s
  | .scat c rd hs ra vi vpm k ch => Sys2Proof.Machine.execScat c rd hs ra vi vpm k ch s
  | .cred c rd hd hs rg rn rop root nc => Sys2Proof.Machine.execCred c rd hd hs rg rn rop root nc s
  | .cwait c ra => Sys2Proof.Machine.execCwait c ra s
  | .cstat c rd ra => Sys2Proof.Machine.execCstat c rd ra s
  | .csrr c rd csr => Sys2Proof.Machine.execCsrr c rd csr s
  | .csrrX c rd n => Sys2Proof.Machine.execCsrrX c rd n s
  | .csrrF c rd w => Sys2Proof.Machine.execCsrrF c rd w s
  | .csrw c csr ra => Sys2Proof.Machine.execCsrw c csr ra s
  | .csrwX c n ra => Sys2Proof.Machine.execCsrwX c n ra s
  | .trap c imm => Sys2Proof.Machine.execTrap c imm s
  | .trapBrk c imm => Sys2Proof.Machine.execTrapBrk c imm s
  | .eret c => Sys2Proof.Machine.execEret c s
  | .eretDiscard c => Sys2Proof.Machine.execEretDiscard c s
  | .spawn c rd ra rb => Sys2Proof.Machine.execSpawn c rd ra rb s
  | .gsig c ra => Sys2Proof.Machine.execGsig c ra s
  | .tlbiVa c ra rb => Sys2Proof.Machine.execTlbiVa c ra rb s
  | .tlbiAsn c ra rb => Sys2Proof.Machine.execTlbiAsn c ra rb s
  | .tlbiVd c => Sys2Proof.Machine.execTlbiVd c s
  | .tlbiGpa c ra rb => Sys2Proof.Machine.execTlbiGpa c ra rb s
  | .tlbiS2 c ra rb => Sys2Proof.Machine.execTlbiS2 c ra rb s
  | .snap c tag => Sys2Proof.Machine.execSnap c tag s
  | .ebudQ c rd => Sys2Proof.Machine.execEbudQ c rd s
  | .ebudR c rd ra => Sys2Proof.Machine.execEbudR c rd ra s
  | .ebudF c rd ra => Sys2Proof.Machine.execEbudF c rd ra s
  | .keyld c rd ra rb => Sys2Proof.Machine.execKeyld c rd ra rb s
  | .faultDelivery core => Sys2Proof.Machine.execFaultDelivery core s
  | .holdConvert ctx => Sys2Proof.Machine.execHoldConvert ctx s
  | .holdRestart ctx => Sys2Proof.Machine.execHoldRestart ctx s
  | .walkComplete ctx => Sys2Proof.Machine.execWalkComplete ctx s
  | .s2respSuccess entry => Sys2Proof.Machine.execS2respSuccess entry s
  | .s2respFail entry => Sys2Proof.Machine.execS2respFail entry s
  | .prgResponse entry ok => Sys2Proof.Machine.execPrgResponse entry ok s
  | .retortLineSwitch kiln => Sys2Proof.Machine.execRetortLineSwitch kiln s
  | .granuleAssign g owner => Sys2Proof.Machine.execGranuleAssign g owner s
  | .copyBeat core ch n beat => Sys2Proof.Machine.execCopyBeat core ch n beat s
  | .vectorArbiterCycle core => Sys2Proof.Machine.execVectorArbiterCycle core s
  | .taskLeaveStoker task => Sys2Proof.Machine.execTaskLeaveStoker task s
  | .launchCompletion launch => Sys2Proof.Machine.execLaunchCompletion launch s
  | .queueNotify vd q off val => Sys2Proof.Machine.execQueueNotify vd q off val s
  | .queueEnable vd q => Sys2Proof.Machine.execQueueEnable vd q s
  | .queueDisable vd q => Sys2Proof.Machine.execQueueDisable vd q s
  | .launchValidate vd q => Sys2Proof.Machine.execLaunchValidate vd q s
  | .taskCreate kiln launch node => Sys2Proof.Machine.execTaskCreate kiln launch node s
  | .flueRound kiln => Sys2Proof.Machine.execFlueRound kiln s
  | .preqGo vd val => Sys2Proof.Machine.execPreqGo vd val s
  | .preempt task => Sys2Proof.Machine.execPreempt task s
  | .dbgctlResume vd => Sys2Proof.Machine.execDbgctlResume vd s
  | .dbgctlStep vd stk => Sys2Proof.Machine.execDbgctlStep vd stk s
  | .pctlApply core => Sys2Proof.Machine.execPctlApply core s
  | .sqrangeWrite val => Sys2Proof.Machine.execSqrangeWrite val s
  | .vdcfgWrite vd val => Sys2Proof.Machine.execVdcfgWrite vd val s
  | .latticeWrite vd data => Sys2Proof.Machine.execLatticeWrite vd data s
  | .vdReset vd => Sys2Proof.Machine.execVdReset vd s
  | .hostAccess acc => Sys2Proof.Machine.execHostAccess acc s
  | .peerAccess acc => Sys2Proof.Machine.execPeerAccess acc s
  | .registerWrite space off val => Sys2Proof.Machine.execRegisterWrite space off val s
  | .matrixEntryComplete task => Sys2Proof.Machine.execMatrixEntryComplete task s
  | .energyMeter tasks vds => Sys2Proof.Machine.execEnergyMeter tasks vds s
  | .powerLimit num den => Sys2Proof.Machine.execPowerLimit num den s
  | .calendarSlot core => Sys2Proof.Machine.execCalendarSlot core s
  | .kilnStoreAccessComplete core => Sys2Proof.Machine.execKilnStoreAccessComplete core s
  | .residencyFill kiln tensor => Sys2Proof.Machine.execResidencyFill kiln tensor s
  | .leaseExpiry cell => Sys2Proof.Machine.execLeaseExpiry cell s
  | .tenureWaitTimeout req => Sys2Proof.Machine.execTenureWaitTimeout req s
  | .lineWritebackCross wb core excl => Sys2Proof.Machine.execLineWritebackCross wb core excl s
  | .scrubLine line => Sys2Proof.Machine.execScrubLine line s
  | .credTimeout vd group => Sys2Proof.Machine.execCredTimeout vd group s
  | .cpytRelease core => Sys2Proof.Machine.execCpytRelease core s
  | .mmagMeet task => Sys2Proof.Machine.execMmagMeet task s
  | .matrixHolderAcquire task => Sys2Proof.Machine.execMatrixHolderAcquire task s
  | .gangReserveTimeout kiln => Sys2Proof.Machine.execGangReserveTimeout kiln s
  | .starvationPreempt kiln => Sys2Proof.Machine.execStarvationPreempt kiln s
  | .recodeWaitTimeout ctx => Sys2Proof.Machine.execRecodeWaitTimeout ctx s
  | .firmwareLoad ok => Sys2Proof.Machine.execFirmwareLoad ok s
  | .atsInvalidate page size => Sys2Proof.Machine.execAtsInvalidate page size s
  | .cxlCacheSnoop port line => Sys2Proof.Machine.execCxlCacheSnoop port line s
  | .latticeApply vd => Sys2Proof.Machine.execLatticeApply vd s
  | .partitionApply core => Sys2Proof.Machine.execPartitionApply core s
  | .markerAtHead ctx => Sys2Proof.Machine.execMarkerAtHead ctx s
  | .suspendDeadline task => Sys2Proof.Machine.execSuspendDeadline task s
  | .mwaitTimeout task => Sys2Proof.Machine.execMwaitTimeout task s
  | .convoyDrain ctx => Sys2Proof.Machine.execConvoyDrain ctx s
  | .credInstanceStart vd group => Sys2Proof.Machine.execCredInstanceStart vd group s
  | .retortJobEnd kiln => Sys2Proof.Machine.execRetortJobEnd kiln s
  | .haltRetire task => Sys2Proof.Machine.execHaltRetire task s
  | .energyRefill => Sys2Proof.Machine.execEnergyRefill s
  | .snapshotLatch => Sys2Proof.Machine.execSnapshotLatch s
  | .snapin => Sys2Proof.Machine.execSnapin s
  | .snapshotCommand => Sys2Proof.Machine.execSnapshotCommand s
  | .snapshotRead => Sys2Proof.Machine.execSnapshotRead s
  | .moduleReset => Sys2Proof.Machine.execModuleReset s

end Sys2Proof.Machine
end

