-- ==== Sys2Proof/Machine/Fetch.lean ====
section
/-!
DEFINITION. Sys2Proof/Machine/Fetch.lean: fetching an instruction word (R219, R256, Table 10.11 order 1, Table 3.6), and placing one
where a stream fetches it.
-/

namespace Sys2Proof.Machine

open Sys2Proof

/-- The word at a byte offset of a line's bytes. -/
def wordIn (bs : List Byte) (off : Nat) : Word := BitVec.ofNat 64 (wordOfBytes ((bs.drop off).take 8))

/-- A line that may be executed: VALID and CODE (Table 3.6, order 5). -/
def fetchFault (t : Tag) : Option Cause :=
  if tagVc t = vcPending then some .halfPublished
  else if tagFmt t ≠ Fmt.code.toCode || tagVc t ≠ vcValid then some .fetchTag
  else none

/-- The core's instruction cache holds 512 lines for its fetch agents (R14): a full one gives up the oldest line of the agent that fetches,
or, if it holds none, of the lowest that does (log entry 49, DESIGN CHOICE). -/
def evictFetched (s : State) (k : Nat) : State :=
  let cs := k :: (List.range 5).map (ctxId (coreOf k))
  if (cs.drop 1).foldl (fun a j => a + (s.ctx j).fetched.length) 0 < 512 then s
  else match cs.find? fun j => !(s.ctx j).fetched.isEmpty with
    | some j => s.modCtx j fun c => { c with fetched := c.fetched.dropLast }
    | none => s

/-- A fetch agent takes a line, the newest first. -/
def takeFetched (s : State) (k : Nat) (f : Fetched) : State :=
  (evictFetched s k).modCtx k fun c => { c with fetched := f :: c.fetched.filter fun x => x.line ≠ f.line }

/-- Fetch the word at the PC of stream k: from a line its fetch agent holds under the fetch's key (R184), else from memory, whose line
the agent then holds. -/
def fetchWord (k : Nat) : Op Word := do
  let s ← get
  let c := s.ctx k
  let cl := clientOf s k
  let pc := c.pc.toNat
  let pl ← placeAt cl pc .fetch
  match c.fetched.find? fun f => f.line = pl.line && f.key = pl.key with
  | none =>
    let v ← reach cl pl .fetch
    if vcPoisoned (tagVc v.tag) then raiseKept .poisonConsumed c.pc
    match fetchFault v.tag with
    | some f => raiseKept f c.pc
    | none =>
      watch cl 2 pc (pc + 8) none
      let bs := bytesOfNat 128 v.data.toNat
      modify fun s => takeFetched s k { line := pl.line, key := pl.key, bytes := bs }
      pure (wordIn bs (pc % 128))
  | some f =>
    watch cl 2 pc (pc + 8) none
    pure (wordIn f.bytes (pc % 128))

/-! Placing a word for the next step: a program loaded from outside the machine (log entry 27, DESIGN CHOICE). -/

/-- The context that runs an instruction of a mode: the first stoker, the first core's shadow context, the management core. -/
def ctxFor : ModeSet → Nat
  | .s => 4
  | .m => managementCtx
  | .u => 0
  | .any => 0

/-- A partition record that gives a core to a VD, every weight 1. -/
def wholeCoreA (vd : Nat) : Word := BitVec.ofNat 64 (1 + vd * 2 + 511 * 2 ^ 10 + 15 * 2 ^ 19 + 15 * 2 ^ 23 + 512 * 2 ^ 36)
def wholeCoreB : Word := 0x11111111

/-- The VD, the firmware and the first core's partition stand so that the VD's tasks run. -/
def enableVd (s : State) (vd : Nat) : State :=
  let s := s.modVd vd fun v => { v with enabled := true, s2root := v.s2root ||| 1 }
  let s := { s with pkg := { s.pkg with firmware := true } }
  s.modCore 0 fun c => { c with part0A := wholeCoreA vd, part0B := wholeCoreB }

/-- A stream ready to issue: live and neither halted, faulted, stopped nor held. -/
def Ctx.ready (c : Ctx) (md : Mode) (vd : Nat) (t : Option Nat) (line : Nat) : Ctx :=
  { c with mode := md, live := true, vd := vd, task := t, halted := false, faulted := false, stopped := false, hold := none,
           fetched := c.fetched.filter fun f => f.line ≠ line }

/-- A task that runs on the first stoker of the first core. -/
def runningTask (vd : Nat) : Task :=
  { vd := vd, asn := 0, launch := 0, node := 0, lid := 0, index := 0, status := .running, ran := true, xctx := some 0 }

/-- The leaf through which the placed word is fetched: one page, executable, readable; for U mode a U page. -/
def placedLeaf (vd page hpa : Nat) (u : Bool) : TlbEntry :=
  { vd := vd, asn := none, base := page * 4096, size := 4096, hpa := hpa, gpa := hpa, s2base := hpa, s2size := 4096, leaf := 0,
    attrs := { key := 0, tagpol := 0, grain := 0, trk := false, strict := false, u := u, x := true, w := false, r := true,
               s2x := true, s2w := false, s2r := true, dirty := true } }

/-- Write a word at a host-physical address as published code of an owner. -/
def placeCode (s : State) (hpa owner : Nat) (w : Nat) : State :=
  let s := s.setGranule (hpa / 2 ^ 21) { owner := owner, gen := (s.vd owner).keyGen }
  let s := { s with hbm := { s.hbm with errors := SMap.set none s.hbm.errors (hpa / 128) none,
                                        marked := SMap.set false s.hbm.marked (hpa / 128) false,
                                        poison := s.hbm.poison.filter fun l => l ≠ hpa / 128 } }
  (s.setBytes hpa (bytesOfNat 8 w)).setTag (hpa / 128) (mkTag Fmt.code.toCode vcValid 127)

/-- Place a word where the context of a mode fetches its next instruction. -/
def placeWord (s : State) (md : ModeSet) (w : Nat) : State :=
  let k := ctxFor md
  let pc := (s.ctx k).pc.toNat
  match md with
  | .m => (placeCode s pc 64 w).modCtx k fun c => c.ready .m 64 none (pc / 128)
  | _ =>
    let hpa := 0x200000 + pc % 4096
    let u : Bool := md ≠ .s
    let s := placeCode (enableVd s 1) hpa 1 w
    let s := s.modCore 0 fun c => { c with tlb := placedLeaf 1 (pc / 4096) 0x200000 u :: c.tlb }
    let t := (s.ctx 0).task.getD s.nextTask
    let s := { (s.setTask t (some (runningTask 1))) with nextTask := max s.nextTask (t + 1) }
    if u then s.modCtx 0 fun c => c.ready .u 1 (some t) (hpa / 128)
    else
      let s := (s.modCtx 0 fun c => { c.ready .u 1 (some t) 0 with faulted := true }).modCtx 4 fun c => c.ready .s 1 (some t) (hpa / 128)
      s.modCore 0 fun c => { c with serving := some { ctx := 0, info := { cause := .trapInstr, etval := 0 }, since := s.now } }

end Sys2Proof.Machine
end

