-- ==== Sys2Proof/Machine/Turn.lean ====
section
/-!
DEFINITION. Sys2Proof/Machine/Turn.lean: one turn of a stream: what it fetches is decoded and performed, or raises the fault of Table
10.11; and the turns the machine takes when the schedule names none (log entry 1, DESIGN CHOICE).
-/

namespace Sys2Proof.Machine

open Sys2Proof

/-! A stream's turn. -/

/-- A stream may issue: it lives, has not halted or stopped for a fault, neither it nor its task is held or stopped, its VD is
enabled (R460), and a STEP has not already issued its instruction. -/
def mayIssue (s : State) (k : Nat) : Bool :=
  let c := s.ctx k
  c.live && !c.halted && !c.faulted && !(c.stepping && c.stepped) && (c.mode = .m || vdEnabled s c.vd) &&
    !(if c.mode = .u then heldTask s k else c.hold.isSome)

/-- What stands before a task's first instruction, or the first after it has been dispatched again (R233, R274, R506). -/
def bootOf (s : State) (k : Nat) : Option Task :=
  if (s.ctx k).mode = .u then ((s.ctx k).task.bind s.task).filter fun x => x.boot.isSome || x.crDue else none

/-- Perform a fetched word (Table 10.11): orders 2 to 4 for one that is no instruction, else its meaning. -/
def performWord (k : Nat) (w : Word) (s : State) : Host.Outcome State Fault Refusal :=
  let bad := fun (c : Cause) => settle s k (.error (.fault { cause := c, etval := w } none))
  match decodeWord w with
  | .ok i => exec i s
  | .unassigned => bad .illegalOp
  | .illegal i => bad (if privFault (s.ctx k).mode i then .privOp else .illegalOp)

/-- The word is the instruction register's from now on, its stream the one in focus. -/
def latch (s : State) (k : Nat) (w : Word) : State := { (s.modCtx k fun c => { c with ir := w }) with focus := k }

/-- Fetch and perform. -/
def fetchTurn (k : Nat) (s : State) : Host.Outcome State Fault Refusal :=
  match fetchWord k s with
  | .error e => settle s k (.error e)
  | .ok (w, s') => performWord k w (latch s' k w)

/-- After the turn of a stoker under STEP: a waiting instruction ends the step; a held or stalled one goes on; else the instruction
has been issued, and the queues drain (R482). -/
def noteStep (before : State) (k : Nat) (o : Host.Outcome State Fault Refusal) : Host.Outcome State Fault Refusal :=
  match o with
  | .next s =>
    let c := s.ctx k
    if !(before.ctx k).stepping || !c.stopped then .next s
    else if c.waitSince.isSome then
      .next ((s.modCtx k fun c => { c with stepping := false }).modVd c.vd fun v => { v with dbgWaiting := true })
    else if c.hold.isSome || (c.pc = (before.ctx k).pc && c.stalls (match decodeWord c.ir with | .ok i => i | .illegal i => i | .unassigned => .nop {}))
      then .next s
    else .next (s.modCtx k fun c => { c with stepped := true })
  | o => o

/-- A turn of stream k. -/
def runTurn (k : Nat) (s : State) : Host.Outcome State Fault Refusal :=
  if !mayIssue s k then .next s
  else match bootOf s k with
    | some x => if x.xctx = some k then settle s k (bootStep k s) else .next s
    | none => noteStep s k (fetchTurn k s)

/-- A STEP whose instruction has been issued ends when the stoker's queues are empty: it is stopped again (R482). -/
def endSteps (s : State) : State :=
  let finished := fun (c : Ctx) => c.stepping && c.stepped && c.vq.isEmpty &&
    (match c.task.bind s.task with | some x => c.access || x.mq.isEmpty | none => true)
  if s.ctxs.any fun x => finished x.2 then
    { s with ctxs := s.ctxs.map fun x => if finished x.2 then (x.1, { x.2 with stepping := false, stepped := false }) else x }
  else s

/-! The turns of a machine whose schedule is empty. Each event stands as its meaning. -/

/-- A step that an agent may take. -/
abbrev Event := State → Host.Outcome State Fault Refusal

/-- An outcome that changes something besides the focus. -/
def changes (s : State) (o : Host.Outcome State Fault Refusal) : Option (Host.Outcome State Fault Refusal) :=
  match o with
  | .next s' => if { s' with focus := s.focus } = s then none else some o
  | o => some o

/-- Faults that a shadow context may take. -/
def deliveries (s : State) : List Event :=
  s.cores.filterMap fun c =>
    if c.2.faults.isEmpty then none
    else if c.2.serving.isNone || c.2.faults.any fun w => w.ctx = shadowOf c.1 then some (execFaultDelivery c.1) else none

/-- What a context's hold and vector queue may do next. -/
def ctxEvents (x : Nat × Ctx) : List Event :=
  (if x.2.hold.isSome then [execWalkComplete x.1, execHoldRestart x.1, execRecodeWaitTimeout x.1, execHoldConvert x.1] else []) ++
  (if x.2.vq.isEmpty && x.2.markers.isEmpty then [] else [execVectorArbiterCycle (coreOf x.1), execMarkerAtHead x.1]) ++
  (if x.2.bound.isSome || (x.2.access && x.2.halted) then [execConvoyDrain x.1] else [])

/-- What a task's matrix queue may do next. -/
def matrixEvents (x : Nat × Option Task) : List Event :=
  match x.2 with
  | some t => if t.mq.isEmpty then [] else [execMatrixHolderAcquire x.1, execMatrixEntryComplete x.1, execMmagMeet x.1]
  | none => []

/-- What holds and queues may do next. -/
def engineEvents (s : State) : List Event := s.ctxs.flatMap ctxEvents ++ s.tasks.flatMap matrixEvents

/-- The beats of pending transfers. -/
def beatEvents (s : State) : List Event :=
  s.cores.flatMap fun c => (List.range 4).flatMap fun ch => (s.chan c.1 ch).transfers.flatMap fun x =>
    if x.state ≠ .pending then []
    else if x.timed.isSome then [execCpytRelease c.1]
    else (List.range x.beats).map fun b => execCopyBeat c.1 ch x.num b

/-- What a task that runs or waits may do next. -/
def taskEvents (x : Nat × Option Task) : List Event :=
  match x.2 with
  | some t =>
    (if t.status = .running then [execTaskLeaveStoker x.1, execHaltRetire x.1] else [execSuspendDeadline x.1, execMwaitTimeout x.1]) ++
      (if t.preReq then [execPreempt x.1] else [])
  | none => []

/-- What the launch unit and the flues may do next for a launch. -/
def launchEvents (l : Nat × Option Launch) : List Event :=
  match l.2 with
  | some x => execLaunchCompletion l.1 :: x.nodes.zipIdx.flatMap fun n =>
      if n.1.ready && !n.1.runs.isEmpty then (List.range 8).map fun k => execTaskCreate k l.1 n.2 else []
  | none => []

/-- What the tile level may do next: collectives, retorts, residency, tenure. -/
def tileEvents (s : State) : List Event :=
  (s.creds.flatMap fun x => [execCredInstanceStart x.vd x.group, execCredTimeout x.vd x.group]) ++
  (s.kilns.flatMap fun k => if k.2.jobs.isEmpty then [] else [execRetortLineSwitch k.1, execRetortJobEnd k.1]) ++
  (s.coh.resident.zipIdx.flatMap fun r => if r.1.filled < r.1.lines then [execResidencyFill r.1.kiln r.2] else []) ++
  (s.coh.writebacks.map fun k => execLineWritebackCross k (k % 256) false) ++
  (s.coh.dirs.flatMap fun d => d.queue.map fun r => execTenureWaitTimeout r.who) ++
  ((List.range (s.coh.dirs.foldl (fun a d => a + d.cells.length) 0)).map execLeaseExpiry)

/-- What a core and a VD may do next. -/
def coreEvents (c : Nat × Core) : List Event :=
  (if c.2.calendar.isEmpty then [] else [execCalendarSlot c.1, execKilnStoreAccessComplete c.1]) ++
    (if c.2.pctlNext.isSome then [execPartitionApply c.1] else [])
def vdEvents (v : Nat × Vd) : List Event :=
  (v.2.queues.flatMap fun q => if q.2.state = 1 && q.2.rd ≠ q.2.wr then [execLaunchValidate v.1 q.1] else []) ++
    (if v.2.latHeld.isEmpty then [] else [execLatticeApply v.1]) ++ (if v.2.rst then [execVdReset v.1] else [])

/-- What tasks, cores, VDs, launches and flues may do next, the kilns in turn. -/
def taskLevelEvents (s : State) : List Event :=
  s.tasks.flatMap taskEvents ++ s.cores.flatMap coreEvents ++ s.vds.flatMap vdEvents ++ s.launches.flatMap launchEvents ++
    [execSnapshotLatch, execEnergyRefill] ++
    (if s.tasks.isEmpty then [] else (List.range 8).flatMap fun j =>
      let k := (j + s.ticks / 4) % 8
      [execGangReserveTimeout k, execStarvationPreempt k, execFlueRound k])

/-- What the rest of the module may do next: the tile level and the tasks come first in turn. -/
def moduleEvents (s : State) : List Event :=
  if s.ticks / 4 % 2 = 0 then tileEvents s ++ taskLevelEvents s else taskLevelEvents s ++ tileEvents s

/-- The streams, in turn: those after the one in focus first. -/
def streamOrder (s : State) : List Nat :=
  let ks := s.ctxs.map (·.1)
  ks.filter (fun k => decide (s.focus < k)) ++ ks.filter fun k => decide (k ≤ s.focus)

def firstEvent (s : State) (es : List Event) : Option (Host.Outcome State Fault Refusal) := es.findSome? fun e => changes s (e s)
def firstStream (s : State) : Option (Host.Outcome State Fault Refusal) := (streamOrder s).findSome? fun k => changes s (runTurn k s)
def firstOther (s : State) : Option (Host.Outcome State Fault Refusal) := (firstEvent s (beatEvents s)).or (firstEvent s (moduleEvents s))

/-- The turn the machine takes by itself: a fault is delivered, else a hold or a queue goes on, else a stream issues, else any other
agent acts; at one tick of four the other agents come before the streams. -/
def defaultTurn (s : State) : Host.Outcome State Fault Refusal :=
  (((firstEvent s (deliveries s)).or (firstEvent s (engineEvents s))).or
    (if s.ticks % 4 = 3 then (firstOther s).or (firstStream s) else (firstStream s).or (firstOther s))).getD (.next s)

/-- One turn of the schedule. -/
def takeTurn (t : Turn) (s : State) : Host.Outcome State Fault Refusal :=
  match t with
  | .run k => runTurn k s
  | .occur i => exec i s
  | .pass n => .next { s with now := s.now + n }

/-- A step has taken its cycles (log entry 2, DESIGN CHOICE). -/
def tick (o : Host.Outcome State Fault Refusal) : Host.Outcome State Fault Refusal :=
  match o with
  | .next s => .next { endSteps s with now := s.now + 1 + Config.stepCycles s.ticks, ticks := s.ticks + 1 }
  | o => o

/-- The turn a step takes: the first of the schedule, or the machine's own. -/
def nextTurn (s : State) : Host.Outcome State Fault Refusal :=
  match s.sched with
  | t :: rest => takeTurn t { s with sched := rest }
  | [] => defaultTurn s

end Sys2Proof.Machine
end

