-- ==== Sys2Proof/Machine/Step.lean ====
section
/-!
DEFINITION. Sys2Proof/Machine/Step.lean: one step of the machine, and a word placed where the next step fetches.
-/

namespace Sys2Proof.Machine

open Sys2Proof

/-- One step: one turn (a stream's instruction, or an event of another agent), after which its cycles have passed. -/
def step (s : State) : Host.Outcome State Fault Refusal := tick (nextTurn s)

/-- The state with an instruction stored where the next step fetches, and that stream's turn next (log entry 27, DESIGN CHOICE): a stoker's, the
shadow context's for an S-mode instruction, the management core's for an M-mode one. -/
def State.withFetchWord (s : State) (nbits w : Nat) : State :=
  let x := w % 2 ^ min nbits 64
  let md : ModeSet := match Sys2Proof.candidate (unpack (BitVec.ofNat 64 x)) with | some i => i.traits.modes | none => .any
  let s := placeWord s md x
  { s with sched := .run (ctxFor md) :: s.sched }

end Sys2Proof.Machine
end

