-- ==== Sys2Proof/Safety.lean ====
section
/-!
DEFINITION. Sys2Proof/Safety.lean: the terms the statements use: when a stream issues an instruction, what a performed
instruction leaves, and what counts as a safe state and a safe step.
-/

namespace Sys2Proof.Machine

open Sys2Proof

/-- Stream k issues and performs i: no check of Table 10.11 or of delay slots stands against it, no register it names is
pending (R264), both its guards hold (R259), and it has not waited on a handle that has been freed meanwhile (R318). -/
def IssuesAt (k : Nat) (i : Instr) (s : State) : Prop :=
  issueFault i (s.ctx k) = none ∧ (s.ctx k).stalls i = false ∧ (s.ctx k).guards i.ctl = true ∧ (s.ctx k).lost = none

/-- The stream in focus issues and performs i. -/
def Issues (i : Instr) (s : State) : Prop := IssuesAt s.focus i s

/-- The stream in focus has changed its own context by f and moved past its instruction; nothing else has changed. -/
def Done (s : State) (f : Ctx → Ctx) : Host.Outcome State Fault Refusal :=
  .next ((s.modCtx s.focus f).modCtx s.focus Ctx.advance)

/-- The stream in focus has changed its own context by f and continues at a target; nothing else has changed. -/
def Jumped (s : State) (f : Ctx → Ctx) (target : Word) : Host.Outcome State Fault Refusal :=
  .next ((s.modCtx s.focus f).modCtx s.focus fun c => { c.anew with pc := target })

/-- The stream in focus has made a transfer to a target after d delay slots (R289), its own context changed by f. -/
def Transferred (s : State) (f : Ctx → Ctx) (target : Word) (d : BitVec 2) : Host.Outcome State Fault Refusal :=
  if d = 0 then Jumped s f target
  else Jumped (s.modCtx s.focus f) (fun c => { c with pend := some { target := target, slots := d.toNat } })
    ((s.ctx s.focus).pc + 8)

/-- Whenever its stream performs i, it writes the value f computes to scalar register rd (s0 discards it), moves on and
changes nothing else. -/
def Writes (i : Instr) (rd : BitVec 6) (f : Ctx → Word) : Prop := ∀ s, Issues i s → exec i s = Done s fun x => x.setS rd (f x)

/-- The same for scalar predicate pd (p0 discards it). -/
def WritesPred (i : Instr) (pd : BitVec 3) (f : Ctx → Bool) : Prop := ∀ s, Issues i s → exec i s = Done s fun x => x.setP pd (f x)

/-- The stream in focus has moved past its instruction in a state that the instruction's effect has left. -/
def Passed (k : Nat) (s : State) : Host.Outcome State Fault Refusal := .next (s.modCtx k Ctx.advance)

/-- The stream in focus has raised a fault of its own instruction: it waits at the stream's core with FPC and epc as R424
gives them; nothing else has changed. -/
def Faulted (s : State) (c : Cause) (etval : Word) : Host.Outcome State Fault Refusal :=
  .next (raiseFault s s.focus ((s.ctx s.focus).ownFault { cause := c, etval := etval }))

/-! Terms for accesses to memory, for handles and for suspension points. -/

/-- The n bytes at va of an access of stream k lie in one line, where the core's TLBs map them to host-physical address h in HBM
through an entry on an untracked page; the line is VALID data under the access's key, without an error; no tensor's tenure, no watchpoint and no
cross-path beat concerns it, and no kiln caches a tensor of the stream's VD. -/
structure PlainBytes (s : State) (k : Nat) (a : Access) (va n h : Nat) (t : TlbEntry) : Prop where
  mode : (s.ctx k).mode ≠ .m
  inLine : va % 128 + n ≤ 128
  found : tlbFind s (coreOf k) (s.ctx k).vd (s.ctx k).asn va (some (s.ctx k).mode) a = some t
  hpa : (t.hpa + (va - t.base)) / 128 = h / 128 ∧ h % 128 = va % 128
  untracked : t.attrs.trk = false ∧ t.attrs.tagpol ≠ 4 ∧ t.attrs.dirty = true
  hbm : region (h / 128 * 128) = .hbm
  key : keyCheck s (slotKey s (s.ctx k).vd t.attrs.key) (h / 128) = .current ∧
    ∀ w g, slotKey s (s.ctx k).vd t.attrs.key ≠ some (.window w g)
  good : health s (h / 128) = .good ∧ SMap.get false s.hbm.marked (h / 128) = false
  tag : ∃ f l, homeTag s (h / 128) = mkTag f vcValid l ∧ f ≠ Fmt.code.toCode
  quiet : s.coh.layer = [] ∧ s.coh.dirs = [] ∧ (∀ r ∈ s.coh.resident, r.vd ≠ (s.ctx k).vd) ∧ bit (s.vd (s.ctx k).vd).dbgcfg 0 = false

/-- v is s with the bytes bs stored at h and no tag changed; of the rest, only what follows a write (armed monitors, HBM's write counters) may
differ. -/
structure Stored (s v : State) (h : Nat) (bs : List Byte) : Prop where
  mem : v.mem = (s.setBytes h bs).mem
  tags : ∀ l, homeTag v l = homeTag s l
  streams : ∀ j, { v.ctx j with monitor := none } = { s.ctx j with monitor := none }
  rest : v.cores = s.cores ∧ v.kilns = s.kilns ∧ v.vds = s.vds ∧ v.pkg = s.pkg ∧ v.coh = s.coh ∧ v.launches = s.launches ∧
    v.creds = s.creds ∧ v.out = s.out ∧ v.now = s.now

/-- Handle h of stream k names entry i of its core's tile table, e, which is valid. -/
structure HandleAt (s : State) (k : Nat) (h : BitVec 6) (t : Nat) (x : Task) (i : Nat) (e : HEntry) : Prop where
  task : (s.ctx k).task = some t ∧ s.task t = some x
  entry : i = 64 * x.win + h.toNat ∧ s.entry (coreOf k) i = e
  valid : e.valid = true ∧ e.level ≤ 4

/-- Handle h of stream k names entry i, e, which is not valid. -/
structure FreeHandleAt (s : State) (k : Nat) (h : BitVec 6) (t : Nat) (x : Task) (i : Nat) (e : HEntry) : Prop where
  task : (s.ctx k).task = some t ∧ s.task t = some x
  entry : i = 64 * x.win + h.toNat ∧ s.entry (coreOf k) i = e
  free : e.valid = false

/-- A line of HBM is without an error, not being switched, under a key that is no window's and is current for it. -/
structure SoundLine (s : State) (key : Option KeyId) (line : Nat) : Prop where
  hbm : region (line * 128) = .hbm
  key : keyCheck s key line = .current ∧ ∀ w g, key ≠ some (.window w g)
  good : health s line = .good ∧ SMap.get false s.hbm.marked line = false ∧ onPoison s line = false
  still : tagVc (homeTag s line) ≠ vcRecode

/-- Such a line that holds VALID data, not code. -/
structure GoodLine (s : State) (key : Option KeyId) (line : Nat) : Prop extends SoundLine s key line where
  tag : ∃ f l, homeTag s line = mkTag f vcValid l ∧ f ≠ Fmt.code.toCode

/-- The core's TLBs map the address that stream k, of U or S mode, stores to by an entry through which it reaches a sound line. -/
def StoresSoundly (s : State) (k va line : Nat) : Prop :=
  (s.ctx k).mode ≠ .m ∧ ∃ t, tlbFind s (coreOf k) (s.ctx k).vd (s.ctx k).asn va (some (s.ctx k).mode) .store = some t ∧
    line = normalise s (t.out va) / 128 ∧ SoundLine s (slotKey s (s.ctx k).vd t.attrs.key) line

/-- The n bytes at va lie where the part itself, from a core and in an address space, reaches sound lines that hold no poison, through untracked pages. -/
def PartReaches (s : State) (core vd asn : Nat) (a : Access) (va n : Nat) : Prop :=
  ∀ x, va ≤ x → x < va + n → ∃ t, tlbFind s core vd asn x none a = some t ∧ t.attrs.trk = false ∧ t.attrs.dirty = true ∧
    SoundLine s (slotKey s vd t.attrs.key) (normalise s (t.out x) / 128) ∧ vcPoisoned (tagVc (homeTag s (normalise s (t.out x) / 128))) = false

/-- The bytes that the part, from a core and in an address space, finds at va, within one line. -/
def FoundAt (s : State) (core vd asn va : Nat) (bs : List Byte) : Prop :=
  ∀ t, tlbFind s core vd asn va none .store = some t → s.bytes (normalise s (t.out va) / 128 * 128 + va % 128) bs.length = bs

/-- A task's continuation record, aligned as Table 9.1 has it, reads as task x' is (Tables 9.1 to 9.6). -/
def CrReads (s : State) (x x' : Task) : Prop :=
  x.cr.toNat % 64 = 0 → FoundAt s x.core x.vd x.asn x.cr.toNat (wordBytes x'.crWords)

/-- A task's continuation record, and its frame and continuation record, lie where the part reaches them. -/
def CrReached (s : State) (x : Task) : Prop := PartReaches s x.core x.vd x.asn .store x.cr.toNat 64
def FrameReached (s : State) (x : Task) : Prop :=
  PartReaches s x.core x.vd x.asn .store x.frame.toNat 0x4A00 ∧ CrReached s x

/-- The part, from a core and in an address space, reads these bytes at va: every line of them is a good one on an untracked page. -/
def PartReads (s : State) (core vd asn va : Nat) (bs : List Byte) : Prop :=
  ∀ x, va ≤ x → x < va + bs.length → ∃ t, tlbFind s core vd asn (max va (x / 128 * 128)) none .load = some t ∧ t.attrs.trk = false ∧
    let line := normalise s (t.out (max va (x / 128 * 128))) / 128
    GoodLine s (slotKey s vd t.attrs.key) line ∧ s.byte (line * 128 + x % 128) = bs.getD (x - va) 0

/-- A node's entry stands at va, with its template, successors and handle list where it names them (R446, Tables 19.1, 19.2). -/
structure NodeAt (s : State) (vd asn va : Nat) (n : RawNode) : Prop where
  entry : n.entry.length = 32 ∧ PartReads s 0 vd asn va n.entry
  templ : n.templ.length = 64 ∧ PartReads s 0 vd asn n.tmplVa.toNat n.templ
  succ : ∃ bs, bs.length = 2 * min n.nsucc 4096 ∧ PartReads s 0 vd asn (wordAt n.entry 0x10).toNat bs ∧ n.succ = indices bs
  hlist : n.hlist.length = 32 * min n.nh 64 ∧ PartReads s 0 vd asn (wordAt n.templ 0x20).toNat n.hlist

/-- The nodes that a launch record names. -/
def NodesAt (s : State) (vd : Nat) (rec : List Byte) (ns : List RawNode) : Prop :=
  ns.length = min (recNodes rec) 4096 ∧
    ∀ j n, ns[j]? = some n → NodeAt s vd (field (wordAt rec 0) 31 24) (((wordAt rec 8).toNat + 32 * j) % 2 ^ 64) n

/-- A ring slot's guest-physical address, where stage 2 maps it to a good line under its VD's key, holds this record. -/
def SlotAt (s : State) (vd gpa : Nat) (rec : List Byte) : Prop :=
  ∃ h, guestPlace s vd gpa .load = (.ok h, s) ∧ GoodLine s (slotKey s vd 0) (h / 128) ∧ rec = s.bytes (h / 128 * 128) 128

/-- v is s after writes of HBM lines of an area: no table and no key has changed, nor any other line. -/
structure AreaWritten (s v : State) (area : Nat → Prop) : Prop where
  vds : v.vds = s.vds
  pkg : v.pkg = s.pkg
  kept : ∀ l, region (l * 128) = .hbm → ¬ area l → v.bytes (l * 128) 128 = s.bytes (l * 128) 128 ∧ homeTag v l = homeTag s l
  sound : ∀ l key, SoundLine s key l → SoundLine v key l

/-- The bytes of a task's save area (R441). -/
def InSave (s : State) (x : Task) (a : Nat) : Prop := saveBase s x ≤ a ∧ a < saveBase s x + 0x90000

/-- Stage 2 maps every byte of a task's save area to a sound line under its VD's key, none of which holds poison or one of the tables that map it; its
continuation record is reached; its queues are within their bounds (R441). -/
structure SaveReached (s : State) (x : Task) : Prop where
  area : x.vd < 64 ∧ ∃ place : Nat → Nat, ∀ a, InSave s x a →
    SoundLine s (slotKey s x.vd 0) (place a / 128) ∧ vcPoisoned (tagVc (homeTag s (place a / 128))) = false ∧
      ∀ v, AreaWritten s v (fun l => ∃ b, InSave s x b ∧ l = place b / 128) → guestPlace v x.vd a .store = (.ok (place a), v)
  cr : CrReached s x
  queues : x.mq.length ≤ 64 ∧ ∀ j ∈ x.streams, (s.ctx j).vq.length ≤ 64

/-- A task but for its watches, which any write may fire. -/
def unwatched (x : Task) : Task :=
  { x with monitor := none, saved := x.saved.map fun y => (y.1, { y.2 with monitor := none }) }

/-- Stream k, the execute stream of task t, which has not begun to leave it, stands where it may pass a suspension point, v being the state
in which it does: a queue transfer of the access stream that waits has been abandoned there (Table 15.7), every queue is empty, and no fault of
the task is unserved. -/
structure MayPassAt (s : State) (k t : Nat) (x : Task) (v : State) : Prop where
  task : (s.ctx k).task = some t ∧ s.task t = some x
  fresh : x.reason = .none
  state : v = abandonTransfer s x
  clear : mayPass v x = true

/-- Task t leaves stoker k from v (R241 to R245): its frame and CR have been written, giving w, and what remains is leftState. -/
structure LeavesAt (k t : Nat) (x : Task) (reason : Reason) (obj : Word) (until_ : Option Nat) (m : Option Monitor) (v w : State) : Prop where
  written : writeLeaving x (leavingTask v t x k reason obj until_ m) (v.ctx k) ((x.actx.map v.ctx).filter fun c => !c.halted)
    (!keepsWindow (windowOf v x.core x.win)) v = .ok ((), w)

/-- Stream k has passed a suspension point of its task without leaving its stoker (R240): every piece of both streams' state but what R240
keeps is dead. -/
def PassedPoint (k t : Nat) (x : Task) (v : State) : Host.Outcome State Fault Refusal :=
  Passed k ((deadState v t x).modTask t fun y => { y with reason := .none, monitor := none })

/-- The stream in focus waits at its instruction; nothing else has changed. -/
def WaitsHere (s : State) : Host.Outcome State Fault Refusal :=
  .next (s.modCtx s.focus fun c => { c with waitSince := some (c.waitSince.getD s.now) })

/-! Terms for the vector queue and its registers. -/

/-- A stream's context once it has issued a convoy member, or an instruction that is none: past the instruction, with the convoy as it
then stands. -/
def issued (x : Ctx) (v : Option Convoy) (begins : Bool) : Ctx :=
  { x.advance with convoy := v, convoyMarker := x.convoyMarker && !begins }

/-- The same with a pipe bound to the member, among those its convoy holds (R267). -/
def bound (s : State) (i : Instr) (p : Pipe) (n : Nat) (v : Convoy) (begins : Bool) : Ctx :=
  { issued (s.ctx s.focus) (some v) begins with
    bound := some { (heldPipes s s.focus begins n).add p with yld := i.ctl.yld }, drained := true }

/-- The stream in focus issues vector instruction i, of a pipe and a number of rows, into an empty queue that nothing holds up, a pipe of the class
free for it, where it is performed at once (R263 to R267); y is the stream's context once it is issued. -/
structure VecIssues (i : Instr) (p : Option Pipe) (n : Nat) (s : State) (y : Ctx) : Prop where
  issues : Issues i s
  queue : (s.ctx s.focus).vq = [] ∧ (s.ctx s.focus).hold = none ∧ (s.ctx s.focus).faulted = false ∧ (s.ctx s.focus).mode ≠ .m
  matrix : ∀ t x, (s.ctx s.focus).task = some t → s.task t = some x → x.mq = []
  convoy : match p with
    | none => i.ctl.cb = false ∧ y = issued (s.ctx s.focus) (s.ctx s.focus).convoy false
    | some p => ∃ v b, joinConvoy s s.focus i.ctl.cb p n = .ok (v, b) ∧ pipeAtOnce s s.focus p b = true ∧ y = bound s i p n v b

/-- The step answers a next state that differs from s in the focused stream's context alone, which is z. -/
def OnlyCtx (s : State) (o : Host.Outcome State Fault Refusal) (z : Ctx) : Prop :=
  ∃ w : State, o = .next w ∧ { w with ctxs := s.ctxs } = s ∧ (∀ j, j ≠ s.focus → w.ctx j = s.ctx j) ∧ w.ctx s.focus = z

/-- Lane (r, c) is active (R333). -/
def active (x : Ctx) (n : BitVec 4) (m : Option (BitVec 4)) (r c : Nat) : Bool :=
  decide (r ≤ n.toNat) && decide (c < 64) && decide (c < x.vl.toNat) && decide (x.vstart.toNat ≤ 64 * r + c) &&
    (match m with | none => true | some p => (x.vp p).getLsbD (64 * r + c))

/-- Row r has an active lane. -/
def activeRow (x : Ctx) (n : BitVec 4) (m : Option (BitVec 4)) (r : Nat) : Bool := (List.range 64).any (active x n m r)

/-- Element c of row r of a register, and the row's tag. -/
def elemAt (x : Ctx) (v : BitVec 5) (r c : Nat) : BitVec 32 := vecGet 0 (x.row v.toNat r).data c
def tagAt (x : Ctx) (v : BitVec 5) (r : Nat) : Tag := (x.row v.toNat r).tag

/-- Nothing of z differs from y but the rows of a register, vdirty, vstat and vstart. -/
def OnlyRows (y z : Ctx) : Prop := { z with rows := y.rows, vdirty := y.vdirty, vstat := y.vstat, vstart := y.vstart } = y

/-- Bit b of z's vstat is y's, or raised by a lane of a set: raised gives each lane's flags as the bits of Table 10.4 (R336). -/
def FlagsOf (y z : Ctx) (lane : Nat → Nat → Bool) (raised : Nat → Nat → Nat) : Prop :=
  ∀ b < 64, bit z.vstat b = (bit y.vstat b ||
    (List.range 16).any fun r => (List.range 64).any fun c => lane r c && (raised r c).testBit b)

/-- R334: the rows of vd with an active lane hold the results under their tags; inactive lanes keep their element under an equal FMT
and LXP, else read zero; every other row stands. vdirty names vd if a row was written, vstart is 0. -/
structure LanesWritten (x y z : Ctx) (vd : BitVec 5) (lane : Nat → Nat → Bool) (tag : Nat → Tag) (res : Nat → Nat → Nat) : Prop where
  frame : OnlyRows y z
  start : z.vstart = 0
  dirty : ∀ b < 64, bit z.vdirty b = (bit y.vdirty b ||
    (decide (b = vd.toNat) && (List.range 16).any fun r => (List.range 64).any (lane r)))
  rows : ∀ (v : BitVec 5) (r : Nat), r < 16 →
    if v = vd ∧ (List.range 64).any (lane r) then
      tagAt z v r = tag r ∧ ∀ c < 64, elemAt z v r c =
        if lane r c then BitVec.ofNat 32 (res r c)
        else if tagFmt (tagAt x v r) = tagFmt (tag r) ∧ tagLxp (tagAt x v r) = tagLxp (tag r) then elemAt x v r c else 0
    else z.row v.toNat r = x.row v.toNat r

/-- R335: the format of a row that an arithmetic instruction may read: VALID, of an arithmetic format, with LXP 127 unless a float. -/
def arithAt (x : Ctx) (v : BitVec 5) (r : Nat) : Option Fmt :=
  match Fmt.ofCode (tagFmt (tagAt x v r)) with
  | some f => if f.isArith && tagVc (tagAt x v r) = vcValid && (f.isFloat || tagLxp (tagAt x v r) = 127) then some f else none
  | none => none

/-- The exact value of an element of a row of format f (R335). -/
def valAt (x : Ctx) (v : BitVec 5) (f : Fmt) (r c : Nat) : FNum := readElem f (tagLxp (tagAt x v r)) (elemAt x v r c).toNat

/-- The vector queue's rounding mode (R336). -/
def queueMode (x : Ctx) : RMode := RMode.ofCode x.vqMode.toNat

/-- Whenever it is issued and performed at once, the element-wise arithmetic instruction i writes the lanes of vd: on rows of arithmetic formats
fs for which the rule of the result format gives g, each active lane is the exact result f of its operands, rounded once or wrapped (R337, R338). -/
def ArithLanes (i : Instr) (vd : BitVec 5) (srcs : List (BitVec 5)) (n : BitVec 4) (m : Option (BitVec 4))
    (res : (Fmt → Fmt → Option Fmt) → (Fmt → Fmt → Option Fmt) → List Fmt → Option Fmt) (f : RMode → List FNum → FNum × Bool) : Prop :=
  ∀ (s : State) (y : Ctx) (fs : Nat → List Fmt) (g : Nat → Fmt), VecIssues i (some .mad) (n.toNat + 1) s y →
    let x := s.ctx s.focus
    let out := fun (r c : Nat) =>
      let e := f (queueMode x) ((srcs.zip (fs r)).map fun v => valAt x v.1 v.2 r c)
      let q := finishLane (g r) (queueMode x) ((fs r).all fun a => !a.isFloat) e.1
      (q.1, { q.2 with nv := q.2.nv || e.2 })
    (∀ r, activeRow x n m r → srcs.map (fun v => arithAt x v r) = (fs r).map some ∧
      res (lattice s x.vd false) (lattice s x.vd true) (fs r) = some (g r)) →
    ∃ z, OnlyCtx s (exec i s) z ∧
      LanesWritten x y z vd (active x n m) (fun r => mkTag (g r).toCode vcValid 127) (fun r c => (out r c).1) ∧
      FlagsOf y z (active x n m) (fun r c => (out r c).2.bits)

/-- The entry of a vector instruction's queue, as the stream issues it into a queue whose pipe is free, and that entry's fault: the entry stays at
its queue's head from element el, the stream stops at its next instruction, its pipes given up (R424, R266). -/
def VecFaulted (s : State) (i : Instr) (p : Option Pipe) (n : Nat) (ra rb : BitVec 6) (b : Bool) (y : Ctx) (w : State) (c : Cause) (etval : Word)
    (el : Nat) : Host.Outcome State Fault Refusal :=
  .next ((raiseFault (parkEntry w s.focus { capture (s.ctx s.focus) s.ticks ra rb i b p n with piped := true } el false) s.focus
    { cause := c, etval := etval, src := .vector, elem := el, fpc := (s.ctx s.focus).pc, epc := y.pc }).modCtx s.focus fun z =>
      { z with bound := none, drained := true })

/-- Line n of a CORE handle's tensor in its core's scratchpad. -/
def coreLine (k : Nat) (e : HEntry) (n : Nat) : Nat := scratchBase (coreOf k) / 128 + e.locv % 512 * 32 + n

/-- A number above those of every grid cell that the lines of an entry's tensor meet. -/
def cellBound (e : HEntry) : Nat := (1024 / e.width * e.footprint / (e.shp.p0 * 4) + 1) * (e.shp.p0 / 64)

/-- Handle h of stream k is of level CORE, within the scratchpad, of a format a row may hold; no tenure of its tensor is held or asked for, and
its core's directory has room for its cells; no LAYER beat and no watchpoint concerns it, no line of it is being switched or marked in error. -/
structure CoreTensor (s : State) (k : Nat) (h : BitVec 6) (t : Nat) (x : Task) (i : Nat) (e : HEntry) : Prop where
  handle : HandleAt s k h t x i e
  level : e.level = 0 ∧ coreOf k < 192 ∧ e.locv % 512 * 32 + e.footprint ≤ 16384
  format : ∃ f, Fmt.ofCode e.fmt0 = some f ∧ f ≠ .i64
  quiet : (∀ id, tensorId (coreOf k) (s.ctx k).vd (s.ctx k).asn e = some id → (s.dir id).cells = [] ∧ (s.dir id).queue = []) ∧
    s.coh.layer = [] ∧ (∀ r ∈ s.coh.resident, r.e.level ≠ 0) ∧ bit (s.vd (s.ctx k).vd).dbgcfg 0 = false
  room : dirEntries s (8 + coreOf k) + cellBound e ≤ 1024
  lines : ∀ n < e.footprint, tagVc (homeTag s (coreLine k e n)) ≠ vcRecode ∧
    SMap.get false s.hbm.marked (coreLine k e n) = false

/-- Memory, tags and what lies beneath them are as they were, and every context but k. -/
def MemoryKept (s w : State) (k : Nat) : Prop :=
  w.mem = s.mem ∧ w.tags = s.tags ∧ w.hbm = s.hbm ∧ ∀ j, j ≠ k → w.ctx j = s.ctx j

/-- The state after a conversion: the focused context z, and, with a handle named, its entry's OVF risen by the overflows (R94, R343). -/
def CountedIn (s : State) (o : Host.Outcome State Fault Refusal) (h : Option (BitVec 6)) (total : Nat) (z : Ctx) : Prop :=
  match h with
  | none => OnlyCtx s o z
  | some g => ∃ (w : State) (t : Nat) (x : Task) (i : Nat) (e : HEntry), HandleAt s s.focus g t x i e ∧ o = .next w ∧
      { w with ctxs := s.ctxs, cores := s.cores } = s ∧ (∀ j, j ≠ s.focus → w.ctx j = s.ctx j) ∧ w.ctx s.focus = z ∧
      (∀ j, j ≠ coreOf s.focus → w.core j = s.core j) ∧
      ∀ j, w.entry (coreOf s.focus) j = if j = i then e.addOvf total else s.entry (coreOf s.focus) j

/-- What a special function gives for the inputs that Table 15.6 names, with the NV and DZ it raises; none for any other input. -/
def specialInput (g : SpecialFn) (x : FNum) : Option (FNum × Flags) :=
  let zero := fun (n : Bool) => FNum.fin n 0 0
  let invalid : Option (FNum × Flags) := some (.nan false, { nv := true })
  match g, x with
  | _, .nan signalling => some (.nan false, { nv := signalling })
  | .exp2, .inf n => some (if n then zero false else .inf false, {})
  | .log2, .inf n | .sqrt, .inf n => if n then invalid else some (.inf false, {})
  | .rcp, .inf n => some (zero n, {})
  | .rsq, .inf n => if n then invalid else some (zero false, {})
  | .tanh, .inf n => some (.fin n 1 0, {})
  | .sin, .inf _ => invalid
  | g, .fin n m _ =>
    if m = 0 then
      match g with
      | .exp2 => some (.fin false 1 0, {})
      | .log2 => some (.inf true, { dz := true })
      | .rcp | .rsq => some (.inf n, { dz := true })
      | .sqrt | .tanh | .sin => some (zero n, {})
    else if n && (g = .log2 || g = .rsq || g = .sqrt) then invalid
    else if g = .log2 && FNum.cmp x (.fin false 1 0) = some .eq then some (zero false, {})
    else none

/-! Terms for the matrix engine. -/

/-- The execute stream of task t in focus issues matrix instruction i into its task's empty queue, where it is performed at once: its
partition's engine is the task's already, or free and nothing of the task kept aside; the vector queue is empty, no hold or fault stands, and the
CR shows the task running. -/
structure MatIssues (i : Instr) (tile : Option (BitVec 2)) (s : State) (t : Nat) (x : Task) : Prop where
  issues : Issues i s
  task : (s.ctx s.focus).task = some t ∧ s.task t = some x ∧ x.mq = [] ∧ x.xctx = some s.focus
  owned : ∀ j, tile = some j → tileOwned s s.focus j.toNat = true
  clear : (s.ctx s.focus).vq = [] ∧ queueStopped s s.focus .matrix = false ∧ heldTask s s.focus = false ∧ x.crDue = false
  engine : (s.core (coreOf s.focus)).holder (partOf s s.focus) = some t ∨
    (s.core (coreOf s.focus)).holder (partOf s s.focus) = none ∧ x.savedAcc = []

/-- The step answers a next state w in which the task holds its partition's engine and the focused stream has moved past its
instruction, its vstat z's; nothing else differs from s but tile elements and, where allowed, the registers of z. -/
def MatDone (s : State) (o : Host.Outcome State Fault Refusal) (t : Nat) (w : State) (z : Ctx) : Prop :=
  o = .next w ∧ { w with ctxs := s.ctxs, tasks := s.tasks, cores := s.cores } = s ∧ (∀ j, w.task j = s.task j) ∧
    (∀ j, j ≠ s.focus → w.ctx j = s.ctx j) ∧ w.ctx s.focus = z ∧ (∀ j, j ≠ coreOf s.focus → w.core j = s.core j) ∧
    (w.core (coreOf s.focus)).holder (partOf s s.focus) = some t ∧
    { w.core (coreOf s.focus) with acc := (s.core (coreOf s.focus)).acc, holder0 := (s.core (coreOf s.focus)).holder0,
                                   holder1 := (s.core (coreOf s.focus)).holder1 } = s.core (coreOf s.focus)

/-- The elements of the named tile are as new says; every other tile element of the core is as it was. -/
def TileIs (s w : State) (tile : BitVec 2) (new : Nat → Nat → Nat) : Prop :=
  ∀ p j m n, p < 2 → j < 4 → m < 128 → n < 128 → w.acc (coreOf s.focus) p j m n =
    if p = partOf s s.focus ∧ j = tile.toNat then new m n % 2 ^ 32 else s.acc (coreOf s.focus) p j m n

/-- The exact value of lane l of row m of a register group under its companion register (R381, Table 16.3); none where the companion byte does
not read. -/
def operandAt (x : Ctx) (v : BitVec 5) (vs : Option (BitVec 5)) (f : Fmt) (m l : Nat) : Option FNum :=
  let val := valAt x (v + BitVec.ofNat 5 (m / 16)) f (m % 16) l
  match vs with
  | none => some val
  | some q =>
    match companion f with
    | none => none
    | some (pf, bs) =>
      let j := 64 / bs * m + l / bs
      match planeByte (tagAt x q (j / 64)) pf (elemAt x q (j / 64) (j % 64)).toNat with
      | .ok b => some (withPlane f val b)
      | .error _ => none

/-- The chunk of a pair of rows (Table 16.4). -/
def chunk (fa fb : Fmt) : Nat := if max fa.width fb.width ≤ 4 then 64 else if max fa.width fb.width ≤ 8 then 32 else 16

/-- R382: one tile element after a product: for each chunk of k lanes in order, the exact sum of the exact products, rounded, then added and
rounded, under F32; added and clamped under I32. With the flags raised. -/
def productCell (acc : Fmt) (md : RMode) (sz k : Nat) (a b : Nat → FNum) (old : Nat) : Nat × Flags :=
  (List.range ((k + sz - 1) / sz)).foldl (fun (c : Nat × Flags) j =>
    let ps := (List.range (min sz (k - sz * j))).map fun i => FNum.mul (a (sz * j + i)) (b (sz * j + i))
    let p := sumNums md (ps.map (·.1))
    let nv := p.2 || ps.any (·.2)
    if acc = .f32 then
      let r := finish .f32 md p.1
      let v := FNum.add md (decode .f32 c.1) (decode .f32 r.1)
      let q := finish .f32 md v.1
      (q.1, ((c.2.or r.2).or q.2).or { nv := nv || v.2 })
    else
      let v := (BitVec.ofNat 32 c.1).toInt + p.1.toInt
      let q := max (-2 ^ 31) (min (2 ^ 31 - 1) v)
      ((BitVec.ofInt 32 q).toNat, c.2.or { of := decide (q ≠ v), nv := nv })) (old, {})

/-- Every row of an operand group that the product reads is readable: an arithmetic row of format f, an integer one under I32, with a companion
that its format has and whose bytes read, giving the values vals. -/
def OperandRows (x : Ctx) (v : BitVec 5) (vs : Option (BitVec 5)) (acc : Fmt) (rows k : Nat) (f : Nat → Fmt) (vals : Nat → Nat → FNum) : Prop :=
  ∀ m < rows, arithAt x (v + BitVec.ofNat 5 (m / 16)) (m % 16) = some (f m) ∧ (acc = .i32 → (f m).isFloat = false) ∧
    (vs.isSome → (companion (f m)).isSome) ∧ ∀ l < k, operandAt x v vs (f m) m l = some (vals m l)

/-- A product as MMA leaves it: the M × N elements of the tile accumulate, each from its own two rows. -/
def ProductDone (s : State) (o : Host.Outcome State Fault Refusal) (t : Nat) (x : Task) (tile : BitVec 2) (acc : Fmt) (fa fb : Nat → Fmt)
    (a b : Nat → Nat → FNum) : Prop :=
  let y := s.ctx s.focus
  let (mm, nn, k) := (shapeM y.mshape, shapeN y.mshape, y.vl.toNat)
  let cell := fun (m n : Nat) => productCell acc (RMode.ofCode x.mqMode.toNat) (chunk (fa m) (fb n)) k (a m) (b n)
    (s.acc (coreOf s.focus) (partOf s s.focus) tile.toNat m n)
  ∃ (w : State) (z : Ctx), MatDone s o t w z ∧ { z with vstat := y.vstat } = y.advance ∧
    (∀ j < 64, bit z.vstat j = (bit y.vstat j ||
      (List.range mm).any fun m => (List.range nn).any fun n => (cell m n).2.bits.testBit j)) ∧
    TileIs s w tile fun m n => if m < mm ∧ n < nn then (cell m n).1 else s.acc (coreOf s.focus) (partOf s s.focus) tile.toNat m n

/-! Terms for the copy engines. -/

/-- The focused stream's core has taken transfer x on a channel under the channel's next number n, which the stream finds as an ID in
rd; the stream, z but for that, has moved on. The watermark is the least number not retired (R395). Nothing else has changed but, for a
collective reduction, the instances. -/
structure Took (s w : State) (ch : Nat) (rd : BitVec 6) (x : Transfer) (z : Ctx) : Prop where
  next : (w.chan (coreOf s.focus) ch).next = (s.chan (coreOf s.focus) ch).next + 1
  taken : { x with num := (s.chan (coreOf s.focus) ch).next, pc := (s.ctx s.focus).pc, issued := s.ticks } ∈ (w.chan (coreOf s.focus) ch).transfers
  kept : ∀ y ∈ (s.chan (coreOf s.focus) ch).transfers, y.state = .pending → y ∈ (w.chan (coreOf s.focus) ch).transfers
  mark : (∃ y ∈ (w.chan (coreOf s.focus) ch).transfers, y.state = .pending ∧ y.num = (w.chan (coreOf s.focus) ch).done) ∧
    ∀ y ∈ (w.chan (coreOf s.focus) ch).transfers, y.state = .pending → (w.chan (coreOf s.focus) ch).done ≤ y.num
  stream : w.ctx s.focus = (z.setS rd (copyId ch (s.chan (coreOf s.focus) ch).next)).advance
  others : (∀ j, j ≠ s.focus → w.ctx j = s.ctx j) ∧ ∀ j, j ≠ coreOf s.focus → w.core j = s.core j
  channels : { w.core (coreOf s.focus) with chans := (s.core (coreOf s.focus)).chans } = s.core (coreOf s.focus) ∧
    ∀ j < 4, j ≠ ch → w.chan (coreOf s.focus) j = s.chan (coreOf s.focus) j
  rest : { w with ctxs := s.ctxs, cores := s.cores, creds := s.creds } = s

/-- The stream in focus issues copy instruction i on a channel that its partition owns and that has room. -/
def CopyIssues (i : Instr) (ch : Nat) (s : State) : Prop :=
  Issues i s ∧ (s.ctx s.focus).mode ≠ .m ∧ channelOwned s s.focus ch = true ∧ (s.chan (coreOf s.focus) ch).queued < 64

/-- A byte count and two offsets that pass orders 2 and 3 of Table 17.2 for a destination and a source. -/
def RangesFit (ed es : HEntry) (dOff sOff bytes : Nat) : Prop :=
  bytes % 128 = 0 ∧ 0 < bytes ∧ bytes ≤ 2 ^ 28 - 128 ∧ dOff % 128 = 0 ∧ sOff % 128 = 0 ∧
    dOff + bytes ≤ 128 * ed.footprint ∧ sOff + bytes ≤ 128 * es.footprint

/-- Two ranges of one entry that meet (Table 17.2, order 4). -/
def Overlaps (i j dOff sOff bytes : Nat) : Prop := i = j ∧ dOff < sOff + bytes ∧ sOff < dOff + bytes

/-- A transfer that a stream of task t issues, before it has a number. -/
def transferOf (c : Ctx) (t : Nat) (kind : CopyKind) : Transfer :=
  { num := 0, kind := kind, task := t, access := c.access, pc := c.pc, vd := c.vd, asn := c.asn }

/-- The address of a lane of GATH or SCAT (R409). -/
def copyLane (c : Ctx) (ra : BitVec 6) (vi : BitVec 5) (e : HEntry) (g : Nat → Fmt) (l : Nat) : Nat :=
  (BitVec.ofInt 64 ((c.s ra).toInt + (BitVec.ofNat (g (l / 64)).width (elemAt c vi (l / 64) (l % 64)).toNat).toInt *
    (widthOf e.fmt / 8 : Nat))).toNat

/-- What GATH and SCAT check at issue holds of every active lane (R409). -/
def LanesFit (c : Ctx) (ra : BitVec 6) (vi : BitVec 5) (e : HEntry) (g : Nat → Fmt) (k : Nat) (ls : List Nat) : Prop :=
  widthOf e.fmt ≠ 4 ∧ ∀ l ∈ ls, Fmt.ofCode (tagFmt (tagAt c vi (l / 64))) = some (g (l / 64)) ∧
    g (l / 64) ∈ ([.i8, .i16, .i32] : List Fmt) ∧ vcPoisoned (tagVc (tagAt c vi (l / 64))) = false ∧
    copyLane c ra vi e g l % (widthOf e.fmt / 8) = 0 ∧ 64 * k + l < 1024 / e.width * e.footprint

/-- A captured place names a CORE tensor's entry in its tile table, with line n at a line of the scratchpad that the entry still owns and that
is neither being switched nor marked (R130). -/
structure CorePlace (s : State) (d : Dest) (e : HEntry) (n line : Nat) : Prop where
  entry : s.entry d.core d.entry = e ∧ e.valid = true ∧ e.owner = d.owner
  level : e.level = 0 ∧ d.core < 192 ∧ line = scratchBase d.core / 128 + e.locv % 512 * 32 + n ∧ e.locv % 512 * 32 + n < 16384
  owner : (s.owner d.core (none, e.locv % 512 + n / 32)).kiln = d.kiln ∧ (s.owner d.core (none, e.locv % 512 + n / 32)).owner = d.owner
  good : tagVc (homeTag s line) ≠ vcRecode ∧ SMap.get false s.hbm.marked line = false

/-- No tenure, LAYER beat or watchpoint of a VD concerns any line. -/
def Quiet (s : State) (vd : Nat) : Prop := s.coh.dirs = [] ∧ s.coh.layer = [] ∧ bit (s.vd vd).dbgcfg 0 = false

/-! Terms for fetching. -/

/-- The core's TLBs map the program counter of stream k, which is not the management core, to host-physical address h under a key, through an
entry that lets it fetch; a multiple of 8 like every program counter a transfer gives; no watchpoint of its VD is armed. -/
structure FetchesAt (s : State) (k h : Nat) (key : Option KeyId) : Prop where
  mode : (s.ctx k).mode ≠ .m
  aligned : h % 8 = 0 ∧ (s.ctx k).pc.toNat % 128 = h % 128
  found : ∃ t, tlbFind s (coreOf k) (s.ctx k).vd (s.ctx k).asn (s.ctx k).pc.toNat (some (s.ctx k).mode) .fetch = some t ∧
    normalise s (t.out (s.ctx k).pc.toNat) = h ∧ slotKey s (s.ctx k).vd t.attrs.key = key
  quiet : bit (s.vd (s.ctx k).vd).dbgcfg 0 = false

/-- Published code stands there, in a sound line, and no LAYER beat concerns any. -/
structure CodeAt (s : State) (k h : Nat) (key : Option KeyId) : Prop extends FetchesAt s k h key, SoundLine s key (h / 128) where
  code : ∃ l, homeTag s (h / 128) = mkTag Fmt.code.toCode vcValid l
  layer : s.coh.layer = []

/-! Terms for faults and holds. -/

/-- A stream's context once a fault waits: it is stopped, has lost no handle, and goes on later from where its instruction has come only after
a fault of a queue or a held one (R427). -/
def FaultStops (c : Ctx) (src : FaultSrc) (held : Bool) : Ctx :=
  { c with faulted := true, lost := none, progress := if held ∨ src ≠ .stream then c.progress else none }

/-- The step answers a state that differs from s in stream k's context, which is c stopped by a fault, and in its core's waiting faults,
which end in f. -/
def FaultWaits (s : State) (o : Host.Outcome State Fault Refusal) (k : Nat) (f : FaultInfo) (c : Ctx) : Prop :=
  ∃ w : State, o = .next w ∧ { w with ctxs := s.ctxs, cores := s.cores } = s ∧ w.ctx k = FaultStops c f.src f.held ∧ (∀ j, j ≠ k → w.ctx j = s.ctx j) ∧
    (∀ j, j ≠ coreOf k → w.core j = s.core j) ∧
    w.core (coreOf k) = { s.core (coreOf k) with faults := (s.core (coreOf k)).faults ++ [{ ctx := k, info := f, since := s.now }] }

/-- The precise fault that ends a hold, and the held fault of one (R426, R427). -/
def PreciseOf (s : State) (k : Nat) (h : Hold) (c : Cause) : FaultInfo :=
  { cause := c, etval := h.va, fpc := heldPc s k h.src, epc := (s.ctx k).pc, src := h.src, elem := h.elem }
def HeldOf (s : State) (k : Nat) (h : Hold) (c : Cause) : FaultInfo :=
  { cause := c, etval := h.va, fpc := heldPc s k h.src, epc := heldPc s k h.src, held := true, src := h.src, elem := h.elem }

/-- A hold whose wait is over ends at the first whole multiple of 24 held cycles (R426). -/
def Ends (h : Hold) (now : Nat) (g : Option Hold) : Prop :=
  ∃ m, now - h.since ≤ 24 * m ∧ 24 * m < now - h.since + 24 ∧ g = some { h with due := some (h.since + 24 * m) }

/-- The step answers a state that differs from s in the fields of stream k's context alone. -/
def OnlyStream (s : State) (o : Host.Outcome State Fault Refusal) (k : Nat) (c : Ctx) : Prop :=
  ∃ w : State, o = .next w ∧ { w with ctxs := s.ctxs } = s ∧ w.ctx k = c ∧ ∀ j, j ≠ k → w.ctx j = s.ctx j

/-- Nothing in t differs from s but what an instruction may do to its own stream's context and to the faults of its core. -/
structure OwnOnly (k : Nat) (s t : State) : Prop where
  mem : t.mem = s.mem
  tags : t.tags = s.tags
  others : ∀ j, j ≠ k → t.ctx j = s.ctx j
  cores : ∀ j, j ≠ coreOf k → t.core j = s.core j
  rest : t.tasks = s.tasks ∧ t.kilns = s.kilns ∧ t.vds = s.vds ∧ t.hbm = s.hbm ∧ t.pkg = s.pkg ∧ t.coh = s.coh ∧
    t.launches = s.launches ∧ t.creds = s.creds ∧ t.out = s.out ∧ t.now = s.now ∧ t.focus = s.focus

/-- Memory and tags are in their canonical form. -/
def MemOk (s : State) : Prop := Memory.wf s.mem = true ∧ SMap.wf unlistedTag s.tags = true

/-- The step goes on: no fault that stops the machine, no refusal. -/
def GoesOn (o : Host.Outcome State Fault Refusal) : Prop := ∃ t, o = .next t

/-- No context runs in M mode: the firmware's own traps, which the spec leaves to the firmware image, cannot arise. -/
def NoFirmware (s : State) : Prop := ∀ k, (s.ctx k).mode ≠ .m

end Sys2Proof.Machine
end

