-- ==== Sys2Proof/Certificates/Slice0/Obligations.lean ====
section
/-!
DEFINITION. Sys2Proof/Certificates/Slice0/Obligations.lean: the statements for the provers, in the order of OBLIGATIONS.json.
-/

open Sys2Proof Sys2Proof.Machine

/-! Scalar instructions (chapter 11). -/

/-- R277, Table 11.2: sums, differences and products modulo 2^64 and the high words of products, from the operands' integer values; the bitwise
instructions, and the selections by comparison or predicate. -/
def Obligations.ScalarArithmeticResults : Prop :=
  (∀ (c : Ctl) (rd ra rb : BitVec 6) (imm : BitVec 20) (sh : BitVec 3),
     Writes (.add c rd ra rb) rd (fun x => BitVec.ofInt 64 ((x.s ra).toInt + (x.s rb).toInt)) ∧
     Writes (.addi c rd ra imm) rd (fun x => BitVec.ofInt 64 ((x.s ra).toInt + imm.toInt)) ∧
     Writes (.sub c rd ra rb) rd (fun x => BitVec.ofInt 64 ((x.s ra).toInt - (x.s rb).toInt)) ∧
     Writes (.mul c rd ra rb) rd (fun x => BitVec.ofInt 64 ((x.s ra).toInt * (x.s rb).toInt)) ∧
     Writes (.mulh c rd ra rb) rd (fun x => ((x.s ra).signExtend 128 * (x.s rb).signExtend 128).extractLsb' 64 64) ∧
     Writes (.mulhu c rd ra rb) rd (fun x => ((x.s ra).zeroExtend 128 * (x.s rb).zeroExtend 128).extractLsb' 64 64) ∧
     Writes (.addx c rd ra rb sh) rd (fun x => BitVec.ofNat 64 ((x.s ra).toNat + (x.s rb).toNat * 2 ^ sh.toNat))) ∧
  (∀ (c : Ctl) (rd ra rb : BitVec 6) (imm : BitVec 20) (pc : BitVec 3),
     let im : Word := BitVec.ofInt 64 imm.toInt
     Writes (.and c rd ra rb) rd (fun x => x.s ra &&& x.s rb) ∧
     Writes (.andi c rd ra imm) rd (fun x => x.s ra &&& im) ∧
     Writes (.or c rd ra rb) rd (fun x => x.s ra ||| x.s rb) ∧
     Writes (.ori c rd ra imm) rd (fun x => x.s ra ||| im) ∧
     Writes (.xor c rd ra rb) rd (fun x => x.s ra ^^^ x.s rb) ∧
     Writes (.xori c rd ra imm) rd (fun x => x.s ra ^^^ im) ∧
     Writes (.andn c rd ra rb) rd (fun x => x.s ra &&& ~~~(x.s rb)) ∧
     Writes (.min c rd ra rb) rd (fun x => BitVec.ofInt 64 (min (x.s ra).toInt (x.s rb).toInt)) ∧
     Writes (.minu c rd ra rb) rd (fun x => BitVec.ofNat 64 (min (x.s ra).toNat (x.s rb).toNat)) ∧
     Writes (.max c rd ra rb) rd (fun x => BitVec.ofInt 64 (max (x.s ra).toInt (x.s rb).toInt)) ∧
     Writes (.maxu c rd ra rb) rd (fun x => BitVec.ofNat 64 (max (x.s ra).toNat (x.s rb).toNat)) ∧
     Writes (.sel c rd ra rb pc) rd (fun x => if x.p pc then x.s ra else x.s rb))

/-- R278: the quotient rounded towards zero and the remainder that takes the dividend's sign; a zero divisor gives the
stated result and sets fpmode.IDZ; the one signed quotient outside the range wraps. -/
def Obligations.DivisionResults : Prop :=
  ∀ (c : Ctl) (rd ra rb : BitVec 6) (s : State),
    let x := s.ctx s.focus
    (Issues (.div c rd ra rb) s → exec (.div c rd ra rb) s =
      (if x.s rb = 0 then Done s fun y => (y.setS rd 0xFFFFFFFFFFFFFFFF).setIdz
       else if (x.s ra).toInt = -2 ^ 63 ∧ (x.s rb).toInt = -1 then Done s fun y => y.setS rd (y.s ra)
       else Done s fun y => y.setS rd (BitVec.ofInt 64 ((y.s ra).toInt.tdiv (y.s rb).toInt)))) ∧
    (Issues (.divu c rd ra rb) s → exec (.divu c rd ra rb) s =
      (if x.s rb = 0 then Done s fun y => (y.setS rd 0xFFFFFFFFFFFFFFFF).setIdz
       else Done s fun y => y.setS rd (y.s ra / y.s rb))) ∧
    (Issues (.rem c rd ra rb) s → exec (.rem c rd ra rb) s =
      (if x.s rb = 0 then Done s fun y => (y.setS rd (y.s ra)).setIdz
       else if (x.s ra).toInt = -2 ^ 63 ∧ (x.s rb).toInt = -1 then Done s fun y => y.setS rd 0
       else Done s fun y => y.setS rd
         (BitVec.ofInt 64 ((y.s ra).toInt - (y.s rb).toInt * (y.s ra).toInt.tdiv (y.s rb).toInt)))) ∧
    (Issues (.remu c rd ra rb) s → exec (.remu c rd ra rb) s =
      (if x.s rb = 0 then Done s fun y => (y.setS rd (y.s ra)).setIdz
       else Done s fun y => y.setS rd (y.s ra % y.s rb)))

/-- R277, R279, Tables 11.2 and 11.3: shifts by a register's low six bits or an immediate and the rotation to the right, as divisions and products by powers
of two; counts of bits, by what makes them right; constants and bit fields, bit by bit, EXT and INS for fields within the word, which every decoded
one is. -/
def Obligations.ShiftAndBitResults : Prop :=
  (∀ (c : Ctl) (rd ra rb imm : BitVec 6),
     let n := fun (x : Ctx) => (x.s rb).toNat % 64
     Writes (.shl c rd ra rb) rd (fun x => BitVec.ofNat 64 ((x.s ra).toNat * 2 ^ n x)) ∧
     Writes (.shli c rd ra imm) rd (fun x => BitVec.ofNat 64 ((x.s ra).toNat * 2 ^ imm.toNat)) ∧
     Writes (.shr c rd ra rb) rd (fun x => BitVec.ofNat 64 ((x.s ra).toNat / 2 ^ n x)) ∧
     Writes (.shri c rd ra imm) rd (fun x => BitVec.ofNat 64 ((x.s ra).toNat / 2 ^ imm.toNat)) ∧
     Writes (.sra c rd ra rb) rd (fun x => BitVec.ofInt 64 ((x.s ra).toInt / 2 ^ n x)) ∧
     Writes (.srai c rd ra imm) rd (fun x => BitVec.ofInt 64 ((x.s ra).toInt / 2 ^ imm.toNat)) ∧
     Writes (.rot c rd ra rb) rd
       (fun x => BitVec.ofNat 64 ((x.s ra).toNat / 2 ^ n x + (x.s ra).toNat % 2 ^ n x * 2 ^ (64 - n x)))) ∧
  (∀ (c : Ctl) (rd ra : BitVec 6) (s : State),
     let a := (s.ctx s.focus).s ra
     (Issues (.clz c rd ra) s → ∃ n ≤ 64, exec (.clz c rd ra) s = Done s (fun x => x.setS rd (BitVec.ofNat 64 n)) ∧
       (∀ j < n, bit a (63 - j) = false) ∧ (n < 64 → bit a (63 - n) = true)) ∧
     (Issues (.ctz c rd ra) s → ∃ n ≤ 64, exec (.ctz c rd ra) s = Done s (fun x => x.setS rd (BitVec.ofNat 64 n)) ∧
       (∀ j < n, bit a j = false) ∧ (n < 64 → bit a n = true)) ∧
     (Issues (.popc c rd ra) s → exec (.popc c rd ra) s =
       Done s fun x => x.setS rd (BitVec.ofNat 64 ((List.range 64).filter fun j => bit a j).length))) ∧
  (∀ (c : Ctl) (rd ra pos lenM1 : BitVec 6) (imm26 : BitVec 26) (imm16 : BitVec 16) (k : BitVec 2) (s : State),
     let x := s.ctx s.focus
     let len := lenM1.toNat + 1
     (Issues (.li c rd imm26) s → exec (.li c rd imm26) s = Done s fun y => y.setS rd (BitVec.ofInt 64 imm26.toInt)) ∧
     (Issues (.lih c rd imm16 k) s → ∃ v, exec (.lih c rd imm16 k) s = Done s (fun y => y.setS rd v) ∧
       ∀ j < 64, bit v j = if 16 * k.toNat ≤ j ∧ j < 16 * k.toNat + 16 then imm16.getLsbD (j - 16 * k.toNat) else bit (x.s rd) j) ∧
     (pos.toNat + len ≤ 64 →
       (∀ sgn, Issues (.ext c rd ra pos lenM1 sgn) s → ∃ v, exec (.ext c rd ra pos lenM1 sgn) s = Done s (fun y => y.setS rd v) ∧
         ∀ j < 64, bit v j = if j < len then bit (x.s ra) (pos.toNat + j) else sgn && bit (x.s ra) (pos.toNat + len - 1)) ∧
       (Issues (.ins c rd ra pos lenM1) s → ∃ v, exec (.ins c rd ra pos lenM1) s = Done s (fun y => y.setS rd v) ∧
         ∀ j < 64, bit v j =
           if pos.toNat ≤ j ∧ j < pos.toNat + len then bit (x.s ra) (j - pos.toNat) else bit (x.s rd) j)))

/-- R280 to R283: the scalar floating-point results: the exact result of the operands' F32 values, rounded once by the mode the
instruction selects, in bits [31:0] with zeros above, its flags ORed into fpmode (R284; NX of an overflow is the model's reading, log entry 51). -/
def Obligations.ScalarFloatResults : Prop :=
  ∀ (c : Ctl) (rd ra rb rc dst src : BitVec 6) (rm : BitVec 4) (s : State),
    let put := fun (md : Ctx → RMode) (r : Ctx → FNum × Bool) =>
      Done s fun y => { y.setS rd (BitVec.ofNat 64 (finish .f32 (md y) (r y).1).1) with
        fpmode := y.fpmode ||| BitVec.ofNat 64
          (Flags.bits { (finish .f32 (md y) (r y).1).2 with nv := (finish .f32 (md y) (r y).1).2.nv || (r y).2 }) }
    let md := fun (y : Ctx) => if rm = 0 then RMode.ofCode (field y.fpmode 7 5) else RMode.ofCode (rm.toNat % 8)
    let val := fun (y : Ctx) (r : BitVec 6) => decode .f32 ((y.s r).toNat % 2 ^ 32)
    (Issues (.fadd c rd ra rb rm) s → exec (.fadd c rd ra rb rm) s = put md fun y => FNum.add (md y) (val y ra) (val y rb)) ∧
    (Issues (.fsub c rd ra rb rm) s → exec (.fsub c rd ra rb rm) s = put md fun y => FNum.add (md y) (val y ra) (val y rb).neg) ∧
    (Issues (.fmul c rd ra rb rm) s → exec (.fmul c rd ra rb rm) s = put md fun y => FNum.mul (val y ra) (val y rb)) ∧
    (Issues (.ffma c rd ra rb rc rm) s →
      exec (.ffma c rd ra rb rc rm) s = put md fun y => FNum.fma (md y) (val y ra) (val y rb) (val y rc)) ∧
    (Issues (.fmin c rd ra rb) s → exec (.fmin c rd ra rb) s = put (fun _ => .rne) fun y => FNum.pick false (val y ra) (val y rb)) ∧
    (Issues (.fmax c rd ra rb) s → exec (.fmax c rd ra rb) s = put (fun _ => .rne) fun y => FNum.pick true (val y ra) (val y rb)) ∧
    (Issues (.fcvt c rd ra dst src rm) s → ∀ d e, Fmt.ofCode dst = some d → Fmt.ofCode src = some e →
      exec (.fcvt c rd ra dst src rm) s = Done s fun y =>
        let r := fcvt d e (md y) (y.s ra)
        { y.setS rd r.1 with fpmode := y.fpmode ||| BitVec.ofNat 64 r.2.bits })

/-- R285 to R292: comparisons and the predicate instructions; PBR, and BR, CALL and RET with the pending transfer they leave, a register target that is not a
multiple of 8 raising ILLEGAL_OP with the value; the strip-mine branch and its NO_PROGRESS fault at the second pass in a row without a decrease. -/
def Obligations.PredicateAndBranchResults : Prop :=
  (∀ (c : Ctl) (pd pa pb : BitVec 3) (rd ra rb : BitVec 6) (cc : BitVec 4),
     WritesPred (.cmp c pd ra rb 0) pd (fun x => decide (x.s ra = x.s rb)) ∧
     WritesPred (.cmp c pd ra rb 1) pd (fun x => decide (x.s ra ≠ x.s rb)) ∧
     WritesPred (.cmp c pd ra rb 2) pd (fun x => decide ((x.s ra).toInt < (x.s rb).toInt)) ∧
     WritesPred (.cmp c pd ra rb 3) pd (fun x => decide ((x.s ra).toInt ≤ (x.s rb).toInt)) ∧
     WritesPred (.cmp c pd ra rb 4) pd (fun x => decide ((x.s rb).toInt < (x.s ra).toInt)) ∧
     WritesPred (.cmp c pd ra rb 5) pd (fun x => decide ((x.s rb).toInt ≤ (x.s ra).toInt)) ∧
     WritesPred (.cmp c pd ra rb 6) pd (fun x => decide ((x.s ra).toNat < (x.s rb).toNat)) ∧
     WritesPred (.cmp c pd ra rb 7) pd (fun x => decide ((x.s ra).toNat ≤ (x.s rb).toNat)) ∧
     WritesPred (.cmp c pd ra rb 8) pd (fun x => decide ((x.s rb).toNat < (x.s ra).toNat)) ∧
     WritesPred (.cmp c pd ra rb 9) pd (fun x => decide ((x.s rb).toNat ≤ (x.s ra).toNat)) ∧
     WritesPred (.pand c pd pa pb) pd (fun x => x.p pa && x.p pb) ∧
     WritesPred (.por c pd pa pb) pd (fun x => x.p pa || x.p pb) ∧
     WritesPred (.pxor c pd pa pb) pd (fun x => x.p pa != x.p pb) ∧
     WritesPred (.pnot c pd pa) pd (fun x => !x.p pa) ∧
     WritesPred (.pmov c pd pa) pd (fun x => x.p pa) ∧
     (∀ s, Issues (.pmovGet c rd) s → ∃ v, exec (.pmovGet c rd) s = Done s (fun x => x.setS rd v) ∧
       ∀ j < 64, bit v j = (decide (j < 8) && (s.ctx s.focus).p (BitVec.ofNat 3 j))) ∧
     (∀ s, Issues (.pmovSet c ra) s → ∃ f, exec (.pmovSet c ra) s = Done s f ∧
       ∀ x, { f x with preds := x.preds } = x ∧ ∀ j : BitVec 3, (f x).p j = if j = 0 then true else bit (x.s ra) j.toNat) ∧
     (∀ s, Issues (.fcmp c pd ra rb cc) s → exec (.fcmp c pd ra rb cc) s =
       Done s fun x =>
         let r := numCond cc.toNat (decode .f32 ((x.s ra).toNat % 2 ^ 32)) (decode .f32 ((x.s rb).toNat % 2 ^ 32))
         { x.setP pd r.1 with fpmode := x.fpmode ||| (if r.2 then 16 else 0) })) ∧
  (∀ (c : Ctl) (bt d : BitVec 2) (rd ra : BitVec 6) (imm : BitVec 26) (s : State), (s.ctx s.focus).mode ≠ .m →
     let x := s.ctx s.focus
     let target := BitVec.ofInt 64 (x.pc.toInt + 8 * imm.toInt)
     (Issues (.pbr c bt (.rel imm)) s → exec (.pbr c bt (.rel imm)) s = Done s fun y => y.setB bt target) ∧
     (Issues (.pbr c bt (.reg ra)) s → exec (.pbr c bt (.reg ra)) s =
       (if x.s ra % 8 = 0 then Done s fun y => y.setB bt (x.s ra) else Faulted s .illegalOp (x.s ra))) ∧
     (Issues (.br c bt d) s → exec (.br c bt d) s =
       (if d = 0 then Jumped s id (x.b bt)
        else Jumped s (fun y => { y with pend := some { target := x.b bt, slots := d.toNat } }) (x.pc + 8))) ∧
     (Issues (.call c rd bt d) s → exec (.call c rd bt d) s =
       Transferred s (fun y => y.setS rd (x.pc + 8 * (d.setWidth 64 + 1))) (x.b bt) d) ∧
     (Issues (.ret c ra d) s → exec (.ret c ra d) s =
       (if x.s ra % 8 ≠ 0 then Faulted s .illegalOp (x.s ra)
        else if d = 0 then Jumped s id (x.s ra)
        else Jumped s (fun y => { y with pend := some { target := x.s ra, slots := d.toNat } }) (x.pc + 8)))) ∧
  (∀ (c : Ctl) (ra : BitVec 6) (imm : BitVec 26) (s : State), (s.ctx s.focus).mode ≠ .m →
     let x := s.ctx s.focus
     let r := (x.s ra).toInt
     let g := min r 64
     let target := BitVec.ofInt 64 (x.pc.toInt + 8 * imm.toInt)
     let zero := fun (y : Ctx) => { y with smpc := 0, smprev := 0, smcnt := 0 }
     (Issues (.bsm c ra imm) s → exec (.bsm c ra imm) s =
       (if r ≤ 0 then Done s zero
        else if x.smpc = x.pc ∧ x.smprev.toInt ≤ r ∧ x.smcnt = 1 then
          Faulted s .noProgress (BitVec.ofNat 64 (g.toNat * 2 ^ 56 + x.pc.toNat))
        else Jumped s (fun y => { y with smpc := x.pc, smcnt := if x.smpc = x.pc ∧ x.smprev.toInt ≤ r then 1 else 0,
                                         smprev := x.s ra, vl := BitVec.ofInt 64 g }) target)) ∧
     (Issues (.bsmT c ra imm) s → exec (.bsmT c ra imm) s =
       (if r ≤ 0 then Jumped s zero target
        else Done (s.modCtx s.focus zero) fun y => { y with vl := BitVec.ofInt 64 g })))

/-! Memory and synchronisation (chapter 12). -/

/-- R298, R299: a scalar load that reaches plain bytes writes them, little-endian, zero- or sign-extended, to rd and changes nothing
else but what its order has it drop (R195, see SynchronisationResults). An ordered load of an address that is no multiple of its size raises
ILLEGAL_OP with the address instead. -/
def Obligations.LoadResults : Prop :=
  ∀ (c : Ctl) (rd ra : BitVec 6) (sgn : Bool) (ord : Order) (imm : BitVec 20) (sc : Scope) (s : State) (h : Nat) (t : TlbEntry),
    let k := s.focus
    let va := (s.ctx k).s ra + BitVec.ofInt 64 imm.toInt
    let loads := fun (i : Instr) (n : Nat) (ext : Nat → Word) =>
      Issues i s →
        (ord ≠ .rlx ∧ va.toNat % n ≠ 0 → (s.ctx k).mode ≠ .m → exec i s = Faulted s .illegalOp va) ∧
        (ord = .rlx ∨ va.toNat % n = 0 → PlainBytes s k .load va.toNat n h t →
          exec i s = Done (orderEffect s k ord sc) fun y => y.setS rd (ext (wordOfBytes (s.bytes h n))))
    let signed := fun (n w : Nat) => if sgn then (BitVec.ofNat n w).signExtend 64 else BitVec.ofNat 64 w
    loads (.ldb c rd ra sgn ord imm sc) 1 (signed 8) ∧ loads (.ldh c rd ra sgn ord imm sc) 2 (signed 16) ∧
    loads (.ldw c rd ra sgn ord imm sc) 4 (signed 32) ∧ loads (.ldd c rd ra ord imm sc) 8 (BitVec.ofNat 64)

/-- R298, R299: a scalar store that reaches plain bytes writes the low bytes of rb there, little-endian, leaves every tag and every other
byte as it was, and moves on; an ordered store to an address that is no multiple of its size raises ILLEGAL_OP with the address. -/
def Obligations.StoreResults : Prop :=
  ∀ (c : Ctl) (ra rb : BitVec 6) (ord : Order) (imm : BitVec 20) (sc : Scope) (s : State) (h : Nat) (t : TlbEntry),
    let k := s.focus
    let va := (s.ctx k).s ra + BitVec.ofInt 64 imm.toInt
    let stores := fun (i : Instr) (n : Nat) =>
      Issues i s →
        (ord ≠ .rlx ∧ va.toNat % n ≠ 0 → (s.ctx k).mode ≠ .m → exec i s = Faulted s .illegalOp va) ∧
        (ord = .rlx ∨ va.toNat % n = 0 → PlainBytes s k .store va.toNat n h t →
          ∃ v : State, exec i s = Passed k v ∧ Stored s v h (bytesOfNat n (((s.ctx k).s rb).toNat % 2 ^ (8 * n))))
    stores (.stb c ra imm rb ord sc) 1 ∧ stores (.sth c ra imm rb ord sc) 2 ∧ stores (.stw c ra imm rb ord sc) 4 ∧
    stores (.std c ra imm rb ord sc) 8

/-- R302: an atomic on a naturally aligned plain word returns the old word in rd and stores the new one; an unaligned address
raises ILLEGAL_OP with the address; a failed ACAS stores nothing. Its order drops what an acquire drops (R195). -/
def Obligations.AtomicResults : Prop :=
  ∀ (c : Ctl) (rd ra rb rc : BitVec 6) (dbl : Bool) (ord : Order) (sc : Scope) (s : State) (h : Nat) (t : TlbEntry),
    let k := s.focus
    let w := if dbl then 64 else 32
    let n := w / 8
    let a := (s.ctx k).s ra
    let old := BitVec.ofNat w (wordOfBytes (s.bytes h n))
    let b := BitVec.ofNat w ((s.ctx k).s rb).toNat
    let does := fun (i : Instr) (new : Option (BitVec w)) =>
      Issues i s →
        (a.toNat % n ≠ 0 → (s.ctx k).mode ≠ .m → exec i s = Faulted s .illegalOp a) ∧
        (a.toNat % n = 0 → PlainBytes s k .atomic a.toNat n h t →
          ∃ v : State, exec i s = Passed k ((orderEffect v k ord sc).modCtx k fun y => y.setS rd (old.setWidth 64)) ∧
            match new with
            | some x => Stored s v h (bytesOfNat n x.toNat)
            | none => v = s)
    does (.aadd c rd ra rb dbl ord sc) (some (old + b)) ∧
    does (.aand c rd ra rb dbl ord sc) (some (old &&& b)) ∧
    does (.aor c rd ra rb dbl ord sc) (some (old ||| b)) ∧
    does (.axor c rd ra rb dbl ord sc) (some (old ^^^ b)) ∧
    does (.amin c rd ra rb false dbl ord sc) (some (BitVec.ofInt w (min old.toInt b.toInt))) ∧
    does (.amin c rd ra rb true dbl ord sc) (some (BitVec.ofNat w (min old.toNat b.toNat))) ∧
    does (.amax c rd ra rb false dbl ord sc) (some (BitVec.ofInt w (max old.toInt b.toInt))) ∧
    does (.amax c rd ra rb true dbl ord sc) (some (BitVec.ofNat w (max old.toNat b.toNat))) ∧
    does (.aswp c rd ra rb dbl ord sc) (some b) ∧
    does (.acas c rd ra rb rc dbl ord sc) (if old = b then some (BitVec.ofNat w ((s.ctx k).s rc).toNat) else none)

/-- R195, R218, R221, R303 to R314: fences perform what they order and go on: an acquire at POD or wider drops the sectors that its VD's cores hold of
its windows' lines, a release at RECODE writes home what its stream has written to its kiln's own copies; MFENCE and JOIN wait for what they name, MFENCE
with a channel that the partition does not own raising PIPE_NOT_OWNED; MONITOR arms a watch; PUBLISH makes the CODE_PENDING lines of its
range VALID and takes the range from the fetch agents it covers; PREF changes no register, and of an untracked page nothing. BARA arrives for the
current generation and gives its number, which is released when every participant has arrived or ended; BARW completes for a released one and waits for
one its participant has arrived for. The sync word of a valid handle: SWSET sets its target and clears what has arrived, SWADD credits it, SWREAD reads it,
and SWAIT for a generation that has been reached goes on at once. -/
def Obligations.SynchronisationResults : Prop :=
  (∀ (c : Ctl) (ra rb : BitVec 6) (imm : BitVec 20) (wr : BitVec 1) (ord : Order) (sc : Scope) (qs : BitVec 6) (s : State),
     let k := s.focus
     let x := s.ctx k
     let va := x.s ra + BitVec.ofInt 64 imm.toInt
     let takes := ord = .acq ∨ ord = .acqrel ∨ ord = .sc
     (Issues (.pref c ra imm wr) s → ∃ w : State, exec (.pref c ra imm wr) s = Passed k w ∧
       ∀ j, { w.ctx j with monitor := none } = { s.ctx j with monitor := none }) ∧
     (∀ h t, Issues (.pref c ra imm wr) s → PlainBytes s k (if wr = 1 then .atomic else .load) va.toNat 1 h t →
       exec (.pref c ra imm wr) s = Passed k s) ∧
     (∀ h t, Issues (.monitor c ra imm) s → PlainBytes s k .load va.toNat 1 h t →
       exec (.monitor c ra imm) s = Done s fun y => { y with monitor := some { va := va, line := h / 128 } }) ∧
     (Issues (.fence c ord .fetch) s → exec (.fence c ord .fetch) s = if takes then Done s fun y => { y with fetched := [] } else Passed k s) ∧
     (Issues (.fence c ord .layer) s → exec (.fence c ord .layer) s = Passed k (if takes then seeLayer s k else s)) ∧
     (sc ≠ .fetch → sc ≠ .layer → sc ≠ .recode → Issues (.fence c ord sc) s → exec (.fence c ord sc) s = Passed k (orderEffect s k ord sc)) ∧
     (Issues (.fence c ord .recode) s → ∃ w : State, exec (.fence c ord .recode) s = Passed k w ∧
       (ord = .rlx ∨ ord = .acq ∨ (∀ r ∈ s.coh.resident, r.kiln ≠ kilnOf (coreOf k)) → w = s) ∧
       (ord = .rel ∨ ord = .acqrel ∨ ord = .sc → ∀ r ∈ s.coh.resident, r.kiln = kilnOf (coreOf k) → SMap.wf none r.copies = true → ∀ l q, SMap.get none r.copies l = some q →
         q.writers.contains (fenceId s k) = true → q.dirty ≠ 0 → (∃ key, GoodLine s key l) → (∃ f z, q.tag = mkTag f vcValid z ∧ z < 256) →
         (∀ u ∈ s.coh.resident, u = r ∨ (SMap.wf none u.copies = true ∧ SMap.get none u.copies l = none)) →
         lineData w l = mergeBytes (lineData s l) q.data q.dirty ∧ homeTag w l = q.tag)) ∧
     (let w := orderEffect s k ord sc
      { w with ctxs := s.ctxs, tasks := s.tasks, coh := { w.coh with sectors := s.coh.sectors } } = s ∧
      (∀ j, { w.ctx j with monitor := none } = { s.ctx j with monitor := none }) ∧
      (¬ takes ∨ sc ∉ ([.pod, .host, .system] : List Scope) → w = s) ∧
      (takes → sc ∈ ([.pod, .host, .system] : List Scope) → ∀ n ∈ w.coh.sectors, (s.granule (n.1 / 1024 / 16384)).wk = true →
        ((s.window (s.granule (n.1 / 1024 / 16384)).win).owner = x.vd ∨ (s.window (s.granule (n.1 / 1024 / 16384)).win).peer = x.vd) →
        ∀ y ∈ s.ctxs, y.2.vd = x.vd → y.2.live = true → coreOf y.1 ≠ n.1 % 256)) ∧
     (Issues (.xfence c ord) s → exec (.xfence c ord) s = Passed k (if takes then seeLayer s k else s)) ∧
     (∀ t y, x.task = some t → s.task t = some y → Issues (.mfence c qs sc) s →
       ((∀ ch < 4, qs.getLsbD (2 + ch) = true → channelOwned s k ch = true) →
         exec (.mfence c qs sc) s = Passed k ((List.range 6).foldl (fun s q => if qs.getLsbD q then placeMarker s k t q else s) s)) ∧
       (x.mode ≠ .m → (∃ ch < 4, qs.getLsbD (2 + ch) = true ∧ channelOwned s k ch = false) →
         exec (.mfence c qs sc) s = Faulted s .pipeNotOwned x.ir)) ∧
     (Issues (.join c) s → exec (.join c) s =
       (if (liveMarkers s k).isEmpty then Done s fun y =>
           { y with markers := [], convoyMarker := false, convoy := if y.convoyMarker then none else y.convoy }
         else WaitsHere s)) ∧
     (Issues (.publish c ra rb sc) s → x.s rb = 0 → exec (.publish c ra rb sc) s = Passed k s) ∧
     (Issues (.publish c ra rb sc) s → s.coh.resident = [] → 0 < (x.s rb).toNat → (x.s rb).toNat ≤ 2 ^ 21 →
       let first := (x.s ra).toNat / 128
       let count := ((x.s ra).toNat + (x.s rb).toNat - 1) / 128 - first + 1
       ∀ line : Nat → Nat, (∀ j < count, StoresSoundly s k ((first + j) * 128) (line j)) →
       ∃ w : State, exec (.publish c ra rb sc) s = Passed k w ∧ w.mem = s.mem ∧
         (∀ l, homeTag w l = if (∃ j < count, line j = l) ∧ tagFmt (homeTag s l) = Fmt.code.toCode ∧ tagVc (homeTag s l) = vcPending
           then mkTag Fmt.code.toCode vcValid (tagLxp (homeTag s l)) else homeTag s l) ∧
         ∀ i, covers s k sc i → ∀ f ∈ (w.ctx i).fetched, ∀ j < count, f.line ≠ line j) ∧
     (Issues (.publish c ra rb sc) s → x.mode ≠ .m → 2 ^ 21 < (x.s rb).toNat →
       exec (.publish c ra rb sc) s = Faulted s .illegalOp (x.s rb)) ∧
     ((∀ r ∈ s.pkg.retained, r.vd ≠ x.vd) → Issues (.wfence c sc) s → exec (.wfence c sc) s = Passed k s)) ∧
  ((∀ (c : Ctl) (rd ra : BitVec 6) (sc : Scope) (s : State) (t : Nat) (x : Task) (n : Node) (g size : Nat),
      let k := s.focus
      let r := SMap.get 0 n.release g
      let a := ((s.ctx k).s ra).toNat % 256
      (s.ctx k).task = some t → s.task t = some x → barrierOf s x = some (n, g, size) → barScope n.bar = some sc →
      (Issues (.bara c rd sc) s → exec (.bara c rd sc) s =
        (if (g, x.index) ∈ n.arrivals then WaitsHere s
         else Passed k (((setNode s x.launch x.node
            (releaseBarrier { n with arrivals := n.arrivals ++ [(g, x.index)] } g size)).modTask t fun y =>
              { y with arrived := some r }).modCtx k fun y => y.setS rd (BitVec.ofNat 64 r)))) ∧
      (Issues (.barw c ra sc) s → exec (.barw c ra sc) s =
        (if (r + 255 + 256 - a) % 256 < 128 then Passed k (seeLayer s k)
         else if x.arrived = some a then WaitsHere s
         else if (s.ctx k).mode = .m then .fault .firmwareTrap
         else Faulted s .illegalOp (BitVec.ofNat 64 a)))) ∧
   (∀ (c : Ctl) (rd h ra : BitVec 6) (ord : Order) (sc : Scope) (s v : State) (t : Nat) (x : Task) (i : Nat) (e : HEntry),
      let k := s.focus
      let a := (s.ctx k).s ra
      HandleAt s k h t x i e →
      (Issues (.swset c h ra) s → a.toNat < 2 ^ 28 → exec (.swset c h ra) s =
        Passed k (s.setEntry (coreOf k) i { e with sync := BitVec.ofNat 64 (a.toNat * 2 ^ 36 + e.sync.toNat % 2 ^ 8) })) ∧
      (Issues (.swadd c h ra ord sc) s → a.toNat < 2 ^ 28 → exec (.swadd c h ra ord sc) s =
        Passed k (s.setEntry (coreOf k) i { e with sync := creditWord e.sync a.toNat })) ∧
      (Issues (.swread c rd h ord sc) s → exec (.swread c rd h ord sc) s = Done (orderEffect s k ord sc) fun y => y.setS rd e.sync) ∧
      ((e.sync.toNat % 256 + 256 - a.toNat % 256) % 256 < 128 → Issues (.swait c h ra sc) s →
        ((s.ctx k).access = true → exec (.swait c h ra sc) s = Passed k (orderEffect s k .acq sc)) ∧
        ((s.ctx k).access = false → ∀ z, MayPassAt (orderEffect s k .acq sc) k t z v → exec (.swait c h ra sc) s = PassedPoint k t z v))))

/-- R294, R295, R304, R237: NOP does nothing; HALT of an execute stream stops both streams of its task for good, whose end follows when its queues have
completed (see FlueEventResults), HALT of an access stream that one; a suspension point whose condition holds already (MWAIT without a watch
to wait for, SUSPEND past its deadline) is passed on the stoker, by an access stream as an ordinary instruction. -/
def Obligations.StreamControlResults : Prop :=
  ∀ (c : Ctl) (ra : BitVec 6) (s v : State) (t : Nat) (x : Task),
    let k := s.focus
    let y := s.ctx k
    let halt := fun (z : Ctx) => { z with halted := true }
    (Issues (.nop c) s → exec (.nop c) s = Done s id) ∧
    (Issues (.halt c) s → y.task = some t → s.task t = some x → exec (.halt c) s = .next
      (if y.access then
        (if y.vq = [] then ((s.modTask t fun z => { z with apc := 0 }).setCtx k {}).modTask t fun z => { z with actx := none }
         else (s.modTask t fun z => { z with apc := 0 }).modCtx k halt)
       else
        match x.actx with
        | some j => (s.modCtx k halt).modCtx j halt
        | none => s.modCtx k halt)) ∧
    (Issues (.mwait c ra) s → y.monitor = none → y.access = true → exec (.mwait c ra) s = Done s fun z => { z with monitor := none }) ∧
    (Issues (.mwait c ra) s → y.monitor = none → y.access = false → y.mode = .u →
      MayPassAt (s.modCtx k fun z => { z with monitor := none }) k t x v → exec (.mwait c ra) s = PassedPoint k t x v) ∧
    (Issues (.suspend c ra) s → (y.s ra).toNat ≤ s.now → MayPassAt s k t x v → exec (.suspend c ra) s = PassedPoint k t x v) ∧
    (Issues (.suspendRel c ra) s → y.s ra = 0 → MayPassAt s k t x v → exec (.suspendRel c ra) s = PassedPoint k t x v)

/-- R240 to R245, R294, R295, R304, R314: a task that leaves its stoker (YIELD always, SUSPEND before its deadline, SWAIT for a generation not
reached, MWAIT before its watch fires) writes its frame and CR, with the wait object of Table 9.5, frees both stokers, and keeps nothing but what R240
names; the deadline is held as at most 2^61 − 1. It does so wherever the part reaches the frame and the CR. -/
def Obligations.LeavingStokerResults : Prop :=
  ∀ (c : Ctl) (ra h : BitVec 6) (sc : Scope) (s v : State) (t : Nat) (x : Task) (i : Nat) (e : HEntry),
    let k := s.focus
    let a := ((s.ctx k).s ra).toNat
    let leaves := fun (j : Instr) (reason : Reason) (obj : Nat) (until_ : Option Nat) (m : Option Monitor) =>
      Issues j s → MayPassAt s k t x v → FrameReached v x →
        let x' := leavingTask v t x k reason (BitVec.ofNat 64 obj) until_ m
        x'.waitObj = BitVec.ofNat 64 obj ∧ x'.waitUntil = until_ ∧ ∃ w : State, LeavesAt k t x reason (BitVec.ofNat 64 obj) until_ m v w ∧ CrReads w x x' ∧
          exec j s = .next (leftState w t x x' k (windowOf v x.core x.win))
    leaves (.yield c) .yield 0 none none ∧
    (s.now < a → leaves (.suspend c ra) .suspend (3 * 2 ^ 61 + min a (2 ^ 61 - 1)) (some (min a (2 ^ 61 - 1))) none) ∧
    (0 < a → leaves (.suspendRel c ra) .suspend (3 * 2 ^ 61 + min (s.now + a) (2 ^ 61 - 1)) (some (min (s.now + a) (2 ^ 61 - 1))) none) ∧
    ((s.ctx k).access = false → HandleAt s k h t x i e → 128 ≤ (e.sync.toNat % 256 + 256 - a % 256) % 256 →
      leaves (.swait c h ra sc) .swait (2 ^ 61 + h.toNat * 2 ^ 48 + a % 256) none none) ∧
    (∀ m, (s.ctx k).monitor = some m → m.fired = false → (s.ctx k).access = false → (s.ctx k).mode = .u → (s.ctx k).waitSince = none →
      let units := (mwaitLimit (BitVec.ofNat 64 a) + 4095) / 4096
      leaves (.mwait c ra) .mwait (2 ^ 62 + units * 2 ^ 49 + m.va.toNat / 128 % 2 ^ 49)
        (if units = 0 then none else some (s.now + 4096 * units)) (some m))

/-! Handles, tenure, the sequence store and windows (chapter 13). -/

/-- R318 to R320, R120: HALLOC takes the lowest run of free granules for a new entry with the given shape and attributes, an owner tag and an
idle sync word, its lines {FMT, UNDEF, 127} and its granules recorded, and gives 0 in rd; without such a run, or for a tensor its VD's part of the
store can never hold, only rd changes. On a valid handle it raises HANDLE_INVALID with 64 + the handle number, and a shape word that R316 refuses raises
HANDLE_SHAPE with that word. Here of a VD none of whose allocations waits, and at levels KILN and PACKAGE of which no kiln caches a tensor. -/
def Obligations.HallocResults : Prop :=
  ∀ (c : Ctl) (h rd rs ra : BitVec 6) (s : State) (t : Nat) (x : Task) (i : Nat) (e : HEntry),
    let k := s.focus
    let sh := (s.ctx k).s rs
    let at_ := (s.ctx k).s ra
    let vd := (s.ctx k).vd
    let core := coreOf k
    let level := field at_ 8 6
    let f := BitVec.ofNat 6 (field at_ 5 0)
    let lines := (shapeOf sh).footprint (widthOf f)
    let ks := if level = 2 then List.range 8 else [kilnOf core]
    let n := if level = 2 then (lines + 255) / 256 else (lines + 31) / 32
    let capacity := if level = 0 then 16384 else (if level = 2 then 8 else 1) * mappedLines s (kilnOf core) vd
    let places := if level = 0 then [none] else ks.map some
    let free := fun (g : Nat) => if level = 0 then
        decide ((scratchRange s core vd).1 ≤ g ∧ g < (scratchRange s core vd).1 + (scratchRange s core vd).2) &&
          decide (s.owner core (none, g) = {})
      else ks.all fun q => storeFree s q vd g
    let first := fun (g : Nat) => (∀ j < n, free (g + j) = true) ∧ ∀ g' < g, ∃ j < n, free (g' + j) = false
    let line := fun (p : Option Nat) (g : Nat) => (match p with | none => scratchBase core | some q => kilnBase q) / 128 + 32 * g
    Issues (.halloc c h rd rs ra) s →
    (FreeHandleAt s k h t x i e → shapeWordOk sh = true → attrWordOk at_ = true → level ≤ 2 → 1 ≤ lines → core < 192 →
      (∀ r ∈ s.coh.resident, r.vd ≠ vd) → (∀ q ∈ ks, demotingRoom s q vd = false) → (∀ q ∈ s.pkg.allocs, q.vd ≠ vd ∧ q.ctx ≠ k) →
      (capacity < lines → exec (.halloc c h rd rs ra) s = Done s fun y => y.setS rd 2) ∧
      (lines ≤ capacity → (∀ g, ∃ j < n, free (g + j) = false) → exec (.halloc c h rd rs ra) s = Done s fun y => y.setS rd 1) ∧
      (lines ≤ capacity → (1 ≤ level → ∀ q ∈ ks, hasRoom s q vd (n * 64) = true) → ∀ g, first g →
        g + n ≤ (if level = 0 then 512 else 118784) →
        ∃ (w : State) (tag : Nat), exec (.halloc c h rd rs ra) s = Passed k (w.modCtx k fun y => y.setS rd 0) ∧
          w.entry core i = newEntry sh at_ tag (g + n * (if level = 0 then 2 ^ 9 else 2 ^ 17)) ∧ w.mem = s.mem ∧ w.ctxs = s.ctxs ∧
          (∀ p ∈ places, ∀ j < n, w.owner core (p, g + j) = { kiln := kilnOf core, owner := tag, vd := vd }) ∧
          (∀ p j, (p ∉ places ∨ j < g ∨ g + n ≤ j) → w.owner core (p, j) = s.owner core (p, j)) ∧
          (∀ p ∈ places, ∀ l < 32 * n, homeTag w (line p g + l) = mkTag f vcUndef 127) ∧
          ∀ l, (∀ p ∈ places, ¬ (line p g ≤ l ∧ l < line p g + 32 * n)) → homeTag w l = homeTag s l)) ∧
    (FreeHandleAt s k h t x i e → (s.ctx k).mode ≠ .m → shapeWordOk sh = false → exec (.halloc c h rd rs ra) s = Faulted s .handleShape sh) ∧
    (HandleAt s k h t x i e → (s.ctx k).mode ≠ .m →
      exec (.halloc c h rd rs ra) s = Faulted s .handleInvalid (64 + h.setWidth 64))

/-- R320: HBIND of a range whose pages all translate and agree enters a MEM handle at the VA; of a name, a SEQ handle, for a VD that
has taken the feature; a VA that is no multiple of 128, or a block range beyond 65,535, is refused. -/
def Obligations.HbindResults : Prop :=
  ∀ (c : Ctl) (h rv rs ra : BitVec 6) (s w : State) (t : Nat) (x : Task) (i : Nat) (e : HEntry) (attrs : Nat) (trk : Bool),
    let k := s.focus
    let y := s.ctx k
    let sh := y.s rs
    let lines := (shapeOf sh).footprint (widthOf (BitVec.ofNat 6 (field (y.s ra) 5 0)))
    Issues (.hbind c h rv rs ra) s → FreeHandleAt s k h t x i e → shapeWordOk sh = true → attrWordOk (y.s ra) = true →
    (field (y.s ra) 8 6 = 3 → (y.s rv).toNat % 128 = 0 → bindRange (clientOf s k) (y.s rv).toNat lines s = .ok ((attrs, trk), w) →
      ∃ (u : State) (tag : Nat), exec (.hbind c h rv rs ra) s = Passed k (u.setEntry (coreOf k) i
        { newEntry sh (y.s ra) tag ((y.s rv).toNat / 128) with attrs := attrs, tracked := trk })) ∧
    (field (y.s ra) 8 6 = 3 → y.mode ≠ .m → (y.s rv).toNat % 128 ≠ 0 → exec (.hbind c h rv rs ra) s = Faulted s .illegalOp (y.s rv)) ∧
    (field (y.s ra) 8 6 = 4 → hasFeature s y.vd 1 = true → (y.s rv).toNat < 2 ^ 44 →
      (nameBlock (y.s rv).toNat + blocksOf s y.vd lines ≤ 65536 →
        ∃ (u : State) (tag : Nat), exec (.hbind c h rv rs ra) s = Passed k (u.setEntry (coreOf k) i (newEntry sh (y.s ra) tag (y.s rv).toNat))) ∧
      (y.mode ≠ .m → 65536 < nameBlock (y.s rv).toNat + blocksOf s y.vd lines →
        exec (.hbind c h rv rs ra) s = Faulted s .handleShape (y.s rv)))

/-- R321, R322, R324, R326, R327: HFREE leaves the entry empty and its granules without an owner; HSHAPE replaces the shape and rank of a handle without
tenure within what it holds or binds; HPRIO its priority and class; HQ reads a word of a valid entry, TEN as the handle's tenures have it now (1 for a sealed copy
alone, the model's choice: log entry 59); HZERO of a
CORE handle whose lines nothing else holds writes every line of its footprint {FMT, ZERO, 127}, of FMT CODE {CODE, CODE_PENDING, 127} (R70). -/
def Obligations.HandleFieldResults : Prop :=
  (∀ (c : Ctl) (h rd rs ra : BitVec 6) (s : State) (t : Nat) (x : Task) (i : Nat) (e : HEntry), HandleAt s s.focus h t x i e →
     let k := s.focus
     let a := (s.ctx k).s ra
     let sh := (s.ctx k).s rs
     let lines := (shapeOf sh).footprint e.width
     let ten := match tensorId (coreOf k) (s.ctx k).vd (s.ctx k).asn e with
       | none => e.ten
       | some id => (s.dir id).strongest { task := t, h := h.toNat } s.now
     let held := if e.level = 0 then e.locv / 512 % 1024 * 32 else if e.level = 1 then e.locv / 2 ^ 17 % 2 ^ 17 * 32
       else e.locv / 2 ^ 17 % 2 ^ 17 * 256
     let shaped := fun (e' : HEntry) => shapeOf e'.shape = shapeOf sh ∧ e'.rankM1 = field sh 1 0 ∧ e'.sync = e.sync ∧ e'.loc = e.loc ∧
       e'.fmt = e.fmt ∧ e'.owner = e.owner
     (Issues (.hfree c h) s → ∃ v : State, exec (.hfree c h) s = Passed k v ∧ v.entry (coreOf k) i = {} ∧
       (∀ j, j ≠ i → v.entry (coreOf k) j = s.entry (coreOf k) j) ∧ (e.level < 3 → ∀ g ∈ granulesOf (coreOf k) e, v.owner (coreOf k) g = {})) ∧
     (Issues (.hshape c h rs) s → shapeWordOk sh = true → ten = 0 →
       (e.level < 3 → lines ≤ held → ∃ e', exec (.hshape c h rs) s = Passed k (s.setEntry (coreOf k) i e') ∧ shaped e') ∧
       (e.level = 4 → nameBlock e.locv + blocksOf s (s.ctx k).vd lines ≤ 65536 →
         ∃ e', exec (.hshape c h rs) s = Passed k (s.setEntry (coreOf k) i e') ∧ shaped e') ∧
       (∀ attrs trk w, e.level = 3 → bindRange (clientOf s k) (e.locv * 128) lines s = .ok ((attrs, trk), w) →
         ∃ e', exec (.hshape c h rs) s = Passed k (w.setEntry (coreOf k) i e') ∧ shaped e' ∧ e'.attrs = attrs ∧ e'.tracked = trk)) ∧
     (Issues (.hshape c h rs) s → (s.ctx k).mode ≠ .m → ten ≠ 0 → exec (.hshape c h rs) s = Faulted s .handleShape sh) ∧
     (Issues (.hprio c h ra) s → a.toNat < 64 → field a 5 4 ≠ 3 →
       ∃ e', exec (.hprio c h ra) s = Passed k (s.setEntry (coreOf k) i e') ∧
         e'.prio = a.toNat % 16 ∧ e'.res = a.toNat / 16 ∧ e'.fmt = e.fmt ∧ e'.sync = e.sync ∧ e'.loc = e.loc) ∧
     (∀ w : BitVec 6, w.toNat ≤ 3 → Issues (.hq c rd h w) s → ∃ sh : Word, exec (.hq c rd h w) s =
         Done s (fun y => y.setS rd (if w = 0 then e.sync else if w = 1 then e.info else if w = 2 then sh else e.loc)) ∧
       (∀ j < 64, j ≠ 6 → j ≠ 7 → bit sh j = bit e.shape j) ∧
       field sh 7 6 = ten) ∧
     (Issues (.hq c rd h 4) s → exec (.hq c rd h 4) s =
       Done s fun y => y.setS rd (BitVec.ofNat 64 ((if e.busy = 0 then 0 else 2 ^ 63) + min e.skipped (2 ^ 32 - 1))))) ∧
  (∀ (c : Ctl) (h : BitVec 6) (s : State) (t : Nat) (x : Task) (i : Nat) (e : HEntry) (id : TensorId), HandleAt s s.focus h t x i e →
     let k := s.focus
     let line := fun (n : Nat) => scratchBase (coreOf k) / 128 + e.locv % 512 * 32 + n
     Issues (.hzero c h) s → e.level = 0 → tensorId (coreOf k) (s.ctx k).vd (s.ctx k).asn e = some id → (s.dir id).cells = [] →
     (s.dir id).queue = [] → (∀ r ∈ s.coh.resident, r.e.level ≠ 0) → (s.ctx k).progress = none → coreOf k < 192 → e.locv % 512 * 32 + e.footprint ≤ 16384 →
     (∀ n < e.footprint, tagVc (homeTag s (line n)) ≠ vcRecode) →
     ∃ v : State, exec (.hzero c h) s = Passed k v ∧
       (∀ n < e.footprint, homeTag v (line n) = mkTag e.fmt (if e.fmt = Fmt.code.toCode then vcPending else vcZero) 127) ∧
       ∀ l, (∀ n < e.footprint, l ≠ line n) → homeTag v l = homeTag s l)

/-- R141, R317, R323, R157: on an untracked MEM tensor a tenure instruction only notes its strongest tenure in TEN; on a tracked one HTEN
and HSEAL are granted over the rectangle's cells when no cell conflicts and no other request overlaps, and wait in the
tensor's queue where one does; HREL and HSPLIT act at once, on every cell for which no reader waits; HUNSEAL acts at once and completes unless copies are out,
for whose return it waits (R153); TEN then shows the handle's strongest tenure (log entry 59: the model's
choice for a sealed copy alone); a rectangle beyond the tensor raises HANDLE_SHAPE with the extent word.
Here where the directories on the way have the entries that a grant takes. -/
def Obligations.TenureResults : Prop :=
  ∀ (c : Ctl) (h rw rx : BitVec 6) (s : State) (t : Nat) (x : Task) (i : Nat) (e : HEntry), HandleAt s s.focus h t x i e →
    let k := s.focus
    let y := s.ctx k
    let core := coreOf k
    let ho : Holder := { task := t, h := h.toNat }
    let cells := rectCells e.shp (y.s rw) (y.s rx)
    let untracked := fun (j : Instr) (ten : Nat → Nat) => Issues j s → cells.isSome → tensorId core y.vd y.asn e = none →
      exec j s = Passed k (s.setEntry core i (e.setTen (ten e.ten)))
    -- Nothing but this tensor's directory and the entry's TEN has changed.
    let only := fun (id : TensorId) (w : State) => (∀ n, n ≠ id → w.dir n = s.dir n) ∧
      w.entry core i = e.setTen ((w.dir id).strongest ho s.now) ∧ (∀ n, n ≠ i → w.entry core n = s.entry core n) ∧
      { w with cores := s.cores, coh := { w.coh with dirs := s.coh.dirs } } = s
    let asks := fun (j : Instr) (kind : TenKind) (f : TensorId → Cell → Cell) => ∀ id cs, Issues j s → cells = some cs →
      tensorId core y.vd y.asn e = some id →
      let ks := cellKeys s y.vd e cs
      let after := s.setDir { (s.dir id).modCells ks (f id) with cols := gridCols e }
      (∀ n ∈ id.top :: id.path core, dirEntries after n ≤ dirCapacity n) → (∀ r ∈ (s.dir id).queue, r.who ≠ k) →
      ((∀ n ∈ ks, ((s.dir id).cell n).conflicts kind t s.now = false) → (∀ r ∈ (s.dir id).queue, overlaps r.cells ks = false) →
        ∃ w : State, exec j s = Passed k w ∧ only id w ∧ (∀ n, (w.dir id).cell n = ((s.dir id).modCells ks (f id)).cell n) ∧
          ∀ r ∈ (w.dir id).queue, r.who ≠ k) ∧
      ((∃ n ∈ ks, ((s.dir id).cell n).conflicts kind t s.now = true) →
        ∃ v : State, exec j s = .next (v.modCtx k fun z => { z with waitSince := some (z.waitSince.getD s.now) }) ∧ only id v ∧
          (∃ r ∈ (v.dir id).queue, r.who = k ∧ r.kind = kind ∧ r.cells = ks ∧ r.since = s.now ∧ r.etval = h.setWidth 64) ∧
          ∀ n, (v.dir id).cell n = if kind ≠ .read ∧ n ∈ ks ∧ ((s.dir id).cell n).state = .read then { (s.dir id).cell n with state := .drain }
            else (s.dir id).cell n)
    let acts := fun (j : Instr) (f : TensorId → Cell → Cell) => ∀ id cs, Issues j s → cells = some cs → tensorId core y.vd y.asn e = some id →
      ∃ w : State, exec j s = Passed k w ∧ only id w ∧
        ∀ n, (∀ r ∈ (s.dir id).queue, r.kind = .read → n ∉ r.cells) →
          (w.dir id).cell n = ((s.dir id).modCells (cellKeys s y.vd e cs) (f id)).cell n
    untracked (.htenRead c h rw rx) (max 1) ∧ untracked (.htenWrite c h rw rx) (max 2) ∧ untracked (.hrel c h rw rx) (fun _ => 0) ∧
    untracked (.hseal c h rw rx) (fun _ => 3) ∧ untracked (.hunseal c h rw rx) (fun _ => 0) ∧
    untracked (.hsplit c h rw rx) (fun n => if n = 2 then 1 else n) ∧
    asks (.htenRead c h rw rx) .read (fun id z => z.grantRead (some ho) core (id.path core) s.now) ∧
    asks (.htenWrite c h rw rx) .write (fun _ z => z.grantWrite (some ho) core) ∧
    asks (.hseal c h rw rx) .seal (fun _ z => z.seal (some ho)) ∧
    acts (.hrel c h rw rx) (fun _ z => z.release ho) ∧ acts (.hsplit c h rw rx) (fun id z => z.split ho (id.path core) s.now) ∧
    (∀ id cs, Issues (.hunseal c h rw rx) s → cells = some cs → tensorId core y.vd y.asn e = some id → (∀ r ∈ (s.dir id).queue, r.who ≠ k) →
      let ks := cellKeys s y.vd e cs
      let out := fun (n : Nat) => ((s.dir id).cell n).unseal.state = .unsealing
      ∃ w : State, only id w ∧ (∀ n, (w.dir id).cell n = ((s.dir id).modCells ks Cell.unseal).cell n) ∧
        ((∀ n ∈ ks, ¬ out n) → exec (.hunseal c h rw rx) s = Passed k w ∧ ∀ r ∈ (w.dir id).queue, r.who ≠ k) ∧
        ((∃ n ∈ ks, out n) → exec (.hunseal c h rw rx) s = .next (w.modCtx k fun z => { z with waitSince := some (z.waitSince.getD s.now) }) ∧
          ∃ r ∈ (w.dir id).queue, r.who = k ∧ r.kind = .unseal ∧ r.since = s.now ∧ ∀ n, n ∈ r.cells ↔ n ∈ ks ∧ out n)) ∧
    (y.mode ≠ .m → cells = none → Issues (.htenWrite c h rw rx) s → exec (.htenWrite c h rw rx) s = Faulted s .handleShape (y.s rx))

/-- R152, R324, R325, R77: HEVICT writes the dirty bytes that the kiln keeps of a MEM or SEQ tensor's lines to their homes, drops the kiln's cached tensor
and gives back the handle's sealed copies; HDEMOTE queues a demotion job over the home lines of the handle and makes the entry busy; on a level
they refuse both raise HANDLE_INVALID with the handle number. -/
def Obligations.ResidencyResults : Prop :=
  ∀ (c : Ctl) (h : BitVec 6) (e5 sw : Bool) (s : State) (t : Nat) (x : Task) (i : Nat) (e : HEntry), HandleAt s s.focus h t x i e →
    let k := s.focus
    let core := coreOf k
    let y := s.ctx k
    let ho : Holder := { task := t, h := h.toNat }
    let its := fun (r : Resident) => r.is (kilnOf core) y.vd y.asn e
    (Issues (.hevict c h) s →
      (e.level = 3 ∨ e.level = 4 → (∀ r ∈ s.coh.resident, ∀ u ∈ s.coh.resident, its r = true → its u = true → r = u) →
        ∃ w : State, exec (.hevict c h) s = Passed k w ∧ w.coh.resident = s.coh.resident.filter (fun r => !its r) ∧
          w.entry core i = (match tensorId core y.vd y.asn e with
            | none => e
            | some id => e.setTen ((w.dir id).strongest ho s.now)) ∧
          (∀ id, tensorId core y.vd y.asn e = some id → ∀ n, ∀ q ∈ ((w.dir id).cell n).copies, q.2 ≠ ho) ∧
          (∀ r ∈ s.coh.resident, its r = true → SMap.wf none r.copies = true → ∀ l q, SMap.get none r.copies l = some q →
            region (l * 128) = .hbm → (q.dirty = 0 ∨ ∃ key, GoodLine s key l ∧ ∃ f z, q.tag = mkTag f vcValid z ∧ z < 256) →
            lineData w l = mergeBytes (lineData s l) q.data q.dirty ∧ homeTag w l = if q.dirty = 0 then homeTag s l else q.tag) ∧
          ∀ l, region (l * 128) = .hbm → (∀ r ∈ s.coh.resident, its r = true → SMap.get none r.copies l = none ∧ SMap.wf none r.copies = true) →
            lineData w l = lineData s l ∧ homeTag w l = homeTag s l) ∧
      (e.level < 3 → y.mode ≠ .m → exec (.hevict c h) s = Faulted s .handleInvalid (h.setWidth 64))) ∧
    (Issues (.hdemote c h e5 sw) s →
      (e.level ≠ 0 → ∃ (j : Job) (v : State), exec (.hdemote c h e5 sw) s =
          Passed k ((v.modKiln (kilnOf core) fun z => { z with jobs := z.jobs ++ [j] }).setEntry core i { e with busy := e.busy + 1 }) ∧
        (e.level ≠ 3 → v = s) ∧ v.ctxs = s.ctxs ∧ v.cores = s.cores ∧ v.kilns = s.kilns ∧
        j.kind = .demote e5 sw core i y.asn e ∧ j.vd = y.vd ∧ j.taken = 0 ∧ j.recode = [] ∧ j.done = 0 ∧ j.skipped = 0 ∧
        ((e.level = 1 ∧ 0 < e.footprint → j.runs = [(kilnBase (kilnOf core) / 128 + e.locv % 2 ^ 17 * 32, e.footprint, 0)]) ∧
         (e.level = 4 → ∀ n < e.footprint, ∀ f, nameFrame s y.vd (e.locv + n / (blockBytes s y.vd / 128)) = some f →
            ∃ r ∈ j.runs, r.2.2 ≤ n ∧ n < r.2.2 + r.2.1 ∧ r.1 + (n - r.2.2) = f * 128 + n % (blockBytes s y.vd / 128)) ∧
         (e.level = 3 → ∀ n < e.footprint, ∀ g, walk s y.vd y.asn ((e.locv + n) * 128) none .load = .ok g →
            ∃ r ∈ j.runs, r.2.2 ≤ n ∧ n < r.2.2 + r.2.1 ∧ r.1 + (n - r.2.2) = normalise s (g.out ((e.locv + n) * 128)) / 128))) ∧
      (e.level = 0 → y.mode ≠ .m → exec (.hdemote c h e5 sw) s = Faulted s .handleInvalid (h.setWidth 64)))

/-- R328, R329, R136: SQMAP gives every name of its range that has no frame a free one of its own, its lines {RAW, UNDEF, 127}, and leaves the others as they
are, the free frames' lines being under the VD's key and none of them being switched; without frames or name entries enough, and for a granule that is none of the VD's, it changes nothing but rd. SQFREE removes every name of its
range and takes them off their frames' REFS. SQSHARE makes the destinations map the sources' frames, sealed, one more in REFS each; with a source unmapped, outside
its window, or without name entries enough, only rd changes. A name word with a bit above 43 raises ILLEGAL_OP with the word. -/
def Obligations.SequenceStoreResults : Prop :=
  ∀ (c : Ctl) (rd rn rm rc : BitVec 6) (rg rw : Option (BitVec 6)) (s : State),
    let k := s.focus
    let x := s.ctx k
    let a := (x.s rn).toNat
    let b := (x.s rm).toNat
    let n := (x.s rc).toNat
    let at_ := fun (v : State) (vd m : Nat) => nameFrame v vd m
    let quota := fun (vd : Nat) => field (s.vd vd).cfg 45 25
    let room := fun (vd m : Nat) => m = 0 ∨ namesHeld s vd + m ≤ quota vd ∧ s.pkg.names.length + m ≤ 2 ^ 20
    let only := rg.map fun r => (x.s r).toNat
    let gs := (seqGranules s x.vd).filter fun g => decide (only = none ∨ only = some g.1)
    let frames := ((gs.flatMap fun g => framesOf g.2 (blockBytes s x.vd)).filter fun f => decide ((s.frameWord f).refs = 0)).eraseDups
    let new := (List.range n).filter fun j => (at_ s x.vd (a + j)).isNone
    let still := ∀ f ∈ frames, ∀ l < blockBytes s x.vd / 128, region ((f * 128 + l) * 128) = .hbm ∧
      keyCheck s (seqKey s x.vd f) (f * 128 + l) = .current ∧ tagVc (homeTag s (f * 128 + l)) ≠ vcRecode
    let maps := fun (f m : Nat) => decide (at_ s x.vd m = some f)
    let win := rw.map fun r => (x.s r).toNat
    let dvd := match win with | none => x.vd | some w => (s.window w).peer
    let inside := match win with
      | none => true
      | some w => decide ((s.window w).state = .openW) && (List.range n).all fun j =>
          match at_ s x.vd (a + j) with | some f => (s.window w).granules.contains (f / 128) | none => false
    let ours := ∀ w, win = some w → (s.window w).owner = x.vd
    let sources := ∀ j < n, (at_ s x.vd (a + j)).isSome
    let fresh := ((List.range n).filter fun j => (at_ s dvd (b + j)).isNone).length
    SMap.wf 0 s.pkg.names = true → hasFeature s x.vd 1 = true →
    (a < 2 ^ 44 → 1 ≤ n → nameBlock a + n ≤ 65536 →
      (Issues (.sqmap c rd rn rc rg) s →
        (rg.isSome → gs = [] → exec (.sqmap c rd rn rc rg) s = Done s fun y => y.setS rd 2) ∧
        ((rg = none ∨ gs ≠ []) → still → ¬ (new.length ≤ frames.length ∧ room x.vd new.length) →
          exec (.sqmap c rd rn rc rg) s = Done s fun y => y.setS rd 3) ∧
        ((rg = none ∨ gs ≠ []) → still → new.length ≤ frames.length → room x.vd new.length →
          ∃ w : State, exec (.sqmap c rd rn rc rg) s = Passed k (w.modCtx k fun y => y.setS rd 0) ∧
            (∀ vd m, (vd ≠ x.vd ∨ ∀ j ∈ new, (a + j) % 2 ^ 44 ≠ m % 2 ^ 44) → vd < 64 → at_ w vd m = at_ s vd m) ∧
            (∀ i ∈ new, ∀ j ∈ new, i ≠ j → at_ w x.vd (a + i) ≠ at_ w x.vd (a + j)) ∧
            ∀ j ∈ new, ∃ f ∈ frames, at_ w x.vd (a + j) = some f ∧ w.frameWord f = { refs := 1 } ∧
              ∀ l, l / 128 < blockBytes s x.vd / 2 ^ 14 → s.hbm.errors = [] → s.hbm.failed = [] → (∀ v g, seqKey s x.vd f ≠ some (.window v g)) →
                homeTag w (f * 128 + l) = unlistedTag)) ∧
      (Issues (.sqfree c rn rc) s → ∃ w : State, exec (.sqfree c rn rc) s = Passed k w ∧ w.mem = s.mem ∧ w.tags = s.tags ∧
        (∀ j < n, at_ w x.vd (a + j) = none) ∧
        (∀ vd m, (vd ≠ x.vd ∨ ∀ j < n, (a + j) % 2 ^ 44 ≠ m % 2 ^ 44) → vd < 64 → at_ w vd m = at_ s vd m) ∧
        ∀ f, (w.frameWord f).refs = (s.frameWord f).refs - ((List.range n).filter fun j => maps f (a + j)).length) ∧
      (b < 2 ^ 44 → nameBlock b + n ≤ 65536 → (rw.isSome → hasFeature s x.vd 2 = true) → Issues (.sqshare c rd rn rm rc rw) s →
        (¬ ours → exec (.sqshare c rd rn rm rc rw) s = Done s fun y => y.setS rd 6) ∧
        (ours → ¬ sources → exec (.sqshare c rd rn rm rc rw) s = Done s fun y => y.setS rd 5) ∧
        (ours → sources → inside = false → exec (.sqshare c rd rn rm rc rw) s = Done s fun y => y.setS rd 6) ∧
        (ours → sources → inside = true → ¬ room dvd fresh → exec (.sqshare c rd rn rm rc rw) s = Done s fun y => y.setS rd 3) ∧
        (ours → sources → inside = true → room dvd fresh → x.vd < 64 → dvd < 64 →
          ∃ w : State, exec (.sqshare c rd rn rm rc rw) s = Passed k (w.modCtx k fun y => y.setS rd 0) ∧ w.mem = s.mem ∧ w.tags = s.tags ∧
            (∀ vd m, (vd ≠ dvd ∨ ∀ j < n, (b + j) % 2 ^ 44 ≠ m % 2 ^ 44) → vd < 64 → at_ w vd m = at_ s vd m) ∧
            ((dvd ≠ x.vd ∨ a + n ≤ b ∨ b + n ≤ a) → ∀ j < n, at_ w dvd (b + j) = at_ s x.vd (a + j)) ∧
            (fresh = n → (dvd ≠ x.vd ∨ a + n ≤ b ∨ b + n ≤ a) → ∀ j < n, ∀ f, at_ s x.vd (a + j) = some f → (w.frameWord f).sealed = true ∧
              (w.frameWord f).refs = (s.frameWord f).refs + ((List.range n).filter fun i => maps f (a + i)).length)))) ∧
    (2 ^ 44 ≤ a → x.mode ≠ .m → Issues (.sqfree c rn rc) s → exec (.sqfree c rn rc) s = Faulted s .illegalOp (x.s rn))

/-- R193, R198, R330, R331: WOPEN, of sequence granules or of a range whose 2 MiB steps the core's TLBs map, completes: DENIED for a peer that is not
permitted, RANGE where a granule cannot enter a window, NO_WINDOW without a free window or slot, and else with the lowest free window (the model's choice, log entry 66) over the granules, its
key in the lowest free slots of both parties, and the re-key job behind the others of its kiln. WCLOSE of an open window flushes, unbinds the peer's
slot, queues the job back and waits; it completes when the window it closed is free; of another party's window, or a free one, it raises PERMISSION. -/
def Obligations.WindowResults : Prop :=
  (∀ (c : Ctl) (rd ra rb rp : BitVec 6) (sq : Bool) (s : State) (gs : List (Option Nat)),
    let k := s.focus
    let x := s.ctx k
    let p := (x.s rp).toNat
    let a := (x.s ra).toNat
    let n := gs.length
    let named := if sq then (x.s rb).toNat = n ∧ ∀ j < n, gs[j]? = some (((seqGranules s x.vd).find? fun y => y.1 = a + j).map (·.2))
      else (x.s rb).toNat = n * 2 ^ 21 ∧ x.mode ≠ .m ∧ x.progress = none ∧ ∀ j < n, ∃ u g,
        tlbFind s (coreOf k) x.vd x.asn (a + j * 2 ^ 21) (some x.mode) .store = some u ∧ a + (j + 1) * 2 ^ 21 ≤ u.base + u.size ∧
          normalise s (u.out (a + j * 2 ^ 21)) = g * 2 ^ 21 ∧ gs[j]? = some (some g)
    let permitted := p < 64 ∧ p ≠ x.vd ∧ vdEnabled s p = true ∧ bit (s.vd x.vd).peers p = true
    let whole := (sq = true ∨ a % 2 ^ 21 = 0) ∧ ∀ g ∈ gs, ∃ j, g = some j ∧ region (j * 2 ^ 21) = .hbm ∧ (s.granule j).owner = x.vd ∧
      (s.granule j).wk = false ∧ (s.granule j).rk = false
    let free := fun (w : Nat) => (s.window w).state = .free ∧ ∀ t, (s.window w).closer = some t → s.task t = none
    let slotFree := fun (vd j : Nat) => SMap.get none (s.vd vd).slots j = none
    hasFeature s x.vd 2 = true → 1 ≤ n → n ≤ 4096 → named → Issues (.wopen c rd ra rb rp sq) s →
    (¬ permitted → exec (.wopen c rd ra rb rp sq) s = Done s fun y => y.setS rd 4) ∧
    (permitted → ¬ whole → exec (.wopen c rd ra rb rp sq) s = Done s fun y => y.setS rd 2) ∧
    (permitted → whole → ((∀ w < 128, ¬ free w) ∨ (∀ j, 1 ≤ j → j < 64 → ¬ slotFree x.vd j) ∨ (∀ j, 1 ≤ j → j < 64 → ¬ slotFree p j)) →
      exec (.wopen c rd ra rb rp sq) s = Done s fun y => y.setS rd 1) ∧
    (permitted → whole → ∀ w so sp, w < 128 → free w → (∀ v < w, ¬ free v) → 1 ≤ so → so < 64 → slotFree x.vd so →
      (∀ j, 1 ≤ j → j < so → ¬ slotFree x.vd j) → 1 ≤ sp → sp < 64 → slotFree p sp → (∀ j, 1 ≤ j → j < sp → ¬ slotFree p j) →
      ∃ t : State, exec (.wopen c rd ra rb rp sq) s =
          Passed k (t.modCtx k fun y => y.setS rd (BitVec.ofNat 64 (w * 2 ^ 8 + so * 2 ^ 16 + sp * 2 ^ 24))) ∧
        t.window w = { state := .opening, owner := x.vd, peer := p, granules := (gs.filterMap id).eraseDups, oslot := so, pslot := sp,
                       gen := s.pkg.winGen + 1 } ∧
        (∀ v, v ≠ w → t.window v = s.window v) ∧
        SMap.get none (t.vd x.vd).slots so = some (.window w (s.pkg.winGen + 1)) ∧
        SMap.get none (t.vd p).slots sp = some (.window w (s.pkg.winGen + 1)) ∧
        (∀ g, { t.granule g with root := (s.granule g).root } =
          if some g ∈ gs then { s.granule g with win := w, rk := true, rdir := false, prog := 0 } else s.granule g) ∧
        ∃ j : Job, (t.kiln (kilnOf (coreOf k))).jobs = (s.kiln (kilnOf (coreOf k))).jobs ++ [j] ∧ j.kind = .rekeyIn w ∧ j.vd = x.vd)) ∧
  (∀ (c : Ctl) (rw : BitVec 6) (zero : Bool) (s : State) (t : Nat) (z : Task) (w : Nat),
    let k := s.focus
    let x := s.ctx k
    let y := s.window w
    hasFeature s x.vd 2 = true → x.task = some t → s.task t = some z → x.s rw = BitVec.ofNat 64 w → w < 128 → Issues (.wclose c rw zero) s →
    (y.state = .free → y.closer = some t → exec (.wclose c rw zero) s = Passed k (s.setWindow w { y with closer := none })) ∧
    (y.state = .openW → y.owner = x.vd → y.closer = none → (∀ r ∈ s.pkg.retained, r.win ≠ w) →
      ∃ v : State, exec (.wclose c rw zero) s = .next (v.modCtx k fun z => { z with waitSince := some (z.waitSince.getD s.now) }) ∧
        v.window w = { y with state := .closing, closer := some t } ∧
        SMap.get none (v.vd y.peer).slots y.pslot ≠ some (.window w y.gen) ∧
        (∀ g ∈ y.granules, { v.granule g with root := (s.granule g).root } = { s.granule g with rk := true, rdir := true, prog := 0 }) ∧
        ∃ j : Job, (v.kiln (kilnOf (coreOf k))).jobs = (s.kiln (kilnOf (coreOf k))).jobs ++ [j] ∧ j.kind = .rekeyOut w zero ∧ j.vd = x.vd) ∧
    (y.closer ≠ some t → x.mode ≠ .m → (y.state = .free ∨ y.owner ≠ x.vd) → exec (.wclose c rw zero) s = Faulted s .permission (x.s rw)))

/-! Vector instructions (chapters 14 and 15, and the votes of chapter 11). -/

/-- R337 to R339, R334 to R336: the element-wise arithmetic instructions, each lane exact and rounded once into the lattice's format; OF of an overflow
to infinity is the model's reading (log entry 51). -/
def Obligations.VectorArithmeticResults : Prop :=
  ∀ (c : Ctl) (vd va vb vc : BitVec 5) (n : BitVec 4) (m : Option (BitVec 4)),
    let at_ := fun (v : List FNum) (j : Nat) => v.getD j (.nan false)
    let add2 := fun (add _ : Fmt → Fmt → Option Fmt) (f : List Fmt) => add (f.getD 0 .raw) (f.getD 1 .raw)
    let mul2 := fun (_ mul : Fmt → Fmt → Option Fmt) (f : List Fmt) => mul (f.getD 0 .raw) (f.getD 1 .raw)
    let fma3 := fun (add mul : Fmt → Fmt → Option Fmt) (f : List Fmt) =>
      (mul (f.getD 0 .raw) (f.getD 1 .raw)).bind fun p => add p (f.getD 2 .raw)
    let own := fun (add _ : Fmt → Fmt → Option Fmt) (f : List Fmt) => add (f.getD 0 .raw) (f.getD 0 .raw)
    ArithLanes (.vadd c vd va vb n m) vd [va, vb] n m add2 (fun md v => FNum.add md (at_ v 0) (at_ v 1)) ∧
    ArithLanes (.vsub c vd va vb n m) vd [va, vb] n m add2 (fun md v => FNum.add md (at_ v 0) (at_ v 1).neg) ∧
    ArithLanes (.vmul c vd va vb n m) vd [va, vb] n m mul2 (fun _ v => FNum.mul (at_ v 0) (at_ v 1)) ∧
    ArithLanes (.vfma c vd va vb vc n m) vd [va, vb, vc] n m fma3 (fun md v => FNum.fma md (at_ v 0) (at_ v 1) (at_ v 2)) ∧
    ArithLanes (.vfms c vd va vb vc n m) vd [va, vb, vc] n m fma3 (fun md v => FNum.fma md (at_ v 0) (at_ v 1) (at_ v 2).neg) ∧
    ArithLanes (.vmin c vd va vb n m) vd [va, vb] n m add2 (fun _ v => FNum.pick false (at_ v 0) (at_ v 1)) ∧
    ArithLanes (.vmax c vd va vb n m) vd [va, vb] n m add2 (fun _ v => FNum.pick true (at_ v 0) (at_ v 1)) ∧
    ArithLanes (.vabs c vd va n m) vd [va] n m own (fun _ v => ((at_ v 0).abs, false)) ∧
    ArithLanes (.vneg c vd va n m) vd [va] n m own (fun _ v => ((at_ v 0).neg, false))

/-- R340, Table 14.3: bitwise operations and shifts act on bit patterns, keep va's tag and set no flag. -/
def Obligations.VectorBitwiseResults : Prop :=
  ∀ (c : Ctl) (vd va vb : BitVec 5) (n : BitVec 4) (m : Option (BitVec 4)) (s : State) (y : Ctx) (fa fb : Nat → Fmt),
    let x := s.ctx s.focus
    let does := fun (i : Instr) (ok : Fmt → Fmt → Prop) (f : Nat → Nat → Nat → Nat → Nat) =>
      VecIssues i (some .mad) (n.toNat + 1) s y →
      (∀ r, activeRow x n m r → Fmt.ofCode (tagFmt (tagAt x va r)) = some (fa r) ∧ Fmt.ofCode (tagFmt (tagAt x vb r)) = some (fb r) ∧
        vcPoisoned (tagVc (tagAt x va r)) = false ∧ vcPoisoned (tagVc (tagAt x vb r)) = false ∧ ok (fa r) (fb r)) →
      ∃ z, OnlyCtx s (exec i s) z ∧ z.vstat = y.vstat ∧
        LanesWritten x y z vd (active x n m) (tagAt x va) (fun r l =>
          let w := (fa r).width
          let k := ((decode (fb r) (elemAt x vb r l).toNat).toInt % (w : Int)).toNat
          f w k (elemAt x va r l).toNat (elemAt x vb r l).toNat)
    let same := fun (a b : Fmt) => a = b ∧ a ≠ .i64
    let amounts : List Fmt := [.i8, .i16, .i32, .ob8, .ob4]
    let shifts := fun (a b : Fmt) => a ∈ .raw :: amounts ∧ b ∈ amounts
    let signed := fun (a b : Fmt) => a ∈ ([.i8, .i16, .i32] : List Fmt) ∧ b ∈ amounts
    does (.vand c vd va vb n m) same (fun _ _ a b => a &&& b) ∧
    does (.vor c vd va vb n m) same (fun _ _ a b => a ||| b) ∧
    does (.vxor c vd va vb n m) same (fun _ _ a b => a ^^^ b) ∧
    does (.vshl c vd va vb n m) shifts (fun w k a _ => a * 2 ^ k % 2 ^ w) ∧
    does (.vshr c vd va vb n m) shifts (fun _ k a _ => a / 2 ^ k) ∧
    does (.vsra c vd va vb n m) signed (fun w k a _ => (BitVec.ofInt w ((BitVec.ofNat w a).toInt / 2 ^ k)).toNat)

/-- R341, R342: VCMP writes the lane bits of vpd from the exact values, NV as Table 14.4 has it; VSEL selects elements of rows that agree in FMT
and LXP, under va's tag. -/
def Obligations.VectorCompareAndSelectResults : Prop :=
  ∀ (c : Ctl) (vd va vb : BitVec 5) (vpd vps n : BitVec 4) (m : Option (BitVec 4)) (cc : BitVec 4) (s : State) (y : Ctx) (fa fb : Nat → Fmt),
    let x := s.ctx s.focus
    (VecIssues (.vcmp c vpd va vb n m cc) (some .mad) (n.toNat + 1) s y → cc.toNat < 8 →
      (∀ r, activeRow x n m r → arithAt x va r = some (fa r) ∧ arithAt x vb r = some (fb r) ∧
        (lattice s x.vd false (fa r) (fb r)).isSome) →
      let res := fun (r l : Nat) => numCond cc.toNat (valAt x va (fa r) r l) (valAt x vb (fb r) r l)
      ∃ z, OnlyCtx s (exec (.vcmp c vpd va vb n m cc) s) z ∧
        { z with vps := y.vps, vstat := y.vstat, vstart := y.vstart } = y ∧ z.vstart = 0 ∧
        (∀ (p : BitVec 4) (j : Nat), j < 1024 → (z.vp p).getLsbD j =
          if p = vpd ∧ active x n m (j / 64) (j % 64) then (res (j / 64) (j % 64)).1 else (x.vp p).getLsbD j) ∧
        FlagsOf y z (active x n m) (fun r l => if (res r l).2 then Flags.bits { nv := true } else 0)) ∧
    (VecIssues (.vsel c vd va vb vps n m) (some .mad) (n.toNat + 1) s y →
      (∀ r, activeRow x n m r → vcPoisoned (tagVc (tagAt x va r)) = false ∧ vcPoisoned (tagVc (tagAt x vb r)) = false ∧
        tagFmt (tagAt x va r) = tagFmt (tagAt x vb r) ∧ tagLxp (tagAt x va r) = tagLxp (tagAt x vb r)) →
      ∃ z, OnlyCtx s (exec (.vsel c vd va vb vps n m) s) z ∧ z.vstat = y.vstat ∧
        LanesWritten x y z vd (active x n m) (tagAt x va) (fun r l =>
          (if (x.vp vps).getLsbD (64 * r + l) then elemAt x va r l else elemAt x vb r l).toNat))

/-- R350, R293, R349: lane-wise predicates write the active lanes' bits alone; VPCNT counts active lanes that are set; VANY and VALL vote over the
columns below vl of all rows, under the mask; VSETVL clamps. -/
def Obligations.VectorPredicateResults : Prop :=
  ∀ (c : Ctl) (pd : BitVec 3) (rd ra : BitVec 6) (vpd vpa vpb n : BitVec 4) (m : Option (BitVec 4)) (s : State) (y : Ctx),
    let x := s.ctx s.focus
    let lanewise := fun (i : Instr) (f : Bool → Bool → Bool) => VecIssues i (some .mad) (n.toNat + 1) s y →
      ∃ z, OnlyCtx s (exec i s) z ∧ { z with vps := y.vps, vstart := y.vstart } = y ∧ z.vstart = 0 ∧
        ∀ (p : BitVec 4) (j : Nat), j < 1024 → (z.vp p).getLsbD j =
          if p = vpd ∧ active x n m (j / 64) (j % 64) then f ((x.vp vpa).getLsbD j) ((x.vp vpb).getLsbD j) else (x.vp p).getLsbD j
    let voters := (List.range 1024).filter fun j => active { x with vstart := 0 } 15 m (j / 64) (j % 64)
    let v := max 1 (min 64 (x.s ra).toInt)
    lanewise (.vpand c vpd vpa vpb n m) (fun a b => a && b) ∧ lanewise (.vpor c vpd vpa vpb n m) (fun a b => a || b) ∧
    lanewise (.vpnot c vpd vpa n m) (fun a _ => !a) ∧
    (VecIssues (.vpcnt c rd vpa n m) (some .mad) (n.toNat + 1) s y →
      OnlyCtx s (exec (.vpcnt c rd vpa n m) s) { y.setS rd (BitVec.ofNat 64 ((List.range 1024).filter fun j =>
        active x n m (j / 64) (j % 64) && (x.vp vpa).getLsbD j).length) with vstart := 0 }) ∧
    (VecIssues (.vany c pd vpa m) none 1 s y →
      OnlyCtx s (exec (.vany c pd vpa m) s) { y.setP pd (voters.any fun j => (x.vp vpa).getLsbD j) with vstart := 0 }) ∧
    (VecIssues (.vall c pd vpa m) none 1 s y →
      OnlyCtx s (exec (.vall c pd vpa m) s) { y.setP pd (voters.all fun j => (x.vp vpa).getLsbD j) with vstart := 0 }) ∧
    (Issues (.vsetvl c rd ra) s → exec (.vsetvl c rd ra) s =
      Done s fun z => { z.setS rd (BitVec.ofInt 64 v) with vl := BitVec.ofInt 64 v })

/-- R343, R94, R101, R103: VCVT rounds each lane once into the target under the row's exponent; each saturation or clamp counts in the named handle, or
sets vstat.OF without one. -/
def Obligations.VectorConversionResults : Prop :=
  ∀ (c : Ctl) (vd va : BitVec 5) (fmt : BitVec 6) (h : Option (BitVec 6)) (n : BitVec 4) (m : Option (BitVec 4)) (lx : BitVec 2)
    (s : State) (y : Ctx) (f : Nat → Fmt) (g : Fmt),
    let x := s.ctx s.focus
    let i := Instr.vcvt c vd va fmt h n m lx
    let vals := fun (r : Nat) => ((List.range 64).filter (active x n m r)).map fun l => valAt x va (f r) r l
    let lxp := fun (r : Nat) => if lx = 1 then demoteLxp (largest (vals r)) g else if lx = 2 then tagLxp (tagAt x va r) else 127
    let out := fun (r l : Nat) => satTo g (queueMode x) (lxp r) (valAt x va (f r) r l)
    let total := ((List.range 1024).filter fun j => active x n m (j / 64) (j % 64) && (out (j / 64) (j % 64)).2.1).length
    VecIssues i (some .mad) (n.toNat + 1) s y → Fmt.ofCode fmt = some g → g.isArith = true → lx ≠ 3 → (lx ≠ 0 → g.isFloat = true) →
    (∀ b, h = some b → ∃ t z j e, HandleAt s s.focus b t z j e) →
    (∀ r, activeRow x n m r → arithAt x va r = some (f r) ∧ (lx = 2 → (f r).isFloat = true)) →
    ∃ z, CountedIn s (exec i s) h total z ∧
      LanesWritten x y z vd (active x n m) (fun r => mkTag fmt vcValid (lxp r)) (fun r l => (out r l).1) ∧
      FlagsOf y z (active x n m) (fun r l =>
        Flags.bits { (out r l).2.2 with of := (out r l).2.2.of || (h.isNone && (out r l).2.1) })

/-- R344, R345, R85: VQBLK writes each block's codes under the least scale that holds its greatest magnitude, zeros past vl, and the scale codes to vs,
whatever vstart holds (the three registers differ, as in every decoded VQBLK); VDEQ restores each lane from its element and its block's plane byte,
rounded once into BF16 or F32. -/
def Obligations.BlockScaleResults : Prop :=
  (∀ (c : Ctl) (vd vs va : BitVec 5) (h : Option (BitVec 6)) (n : BitVec 4) (tgt : BitVec 2) (s : State) (y : Ctx) (f : Nat → Fmt),
     let x := s.ctx s.focus
     let i := Instr.vqblk c vd vs va h n tgt
     let (t, bs, sf) := if tgt = 0 then (Fmt.e2m1, 8, Fmt.s3m5) else if tgt = 1 then (Fmt.e4m3, 32, Fmt.se8) else (Fmt.e5m2, 32, Fmt.se8)
     let vl := x.vl.toNat
     let scale := fun (r b : Nat) => if b * bs < vl then
         scaleUp t sf (amaxOf (((List.range bs).map fun j => b * bs + j).filterMap fun l => if l < vl then some (valAt x va (f r) r l) else none))
       else 0
     let out := fun (r l : Nat) => if l < vl then divSat t (queueMode x) (valAt x va (f r) r l) (scaleVal sf (scale r (l / bs))) else (0, false, {})
     let scales := fun (j : Nat) => if j / (64 / bs) ≤ n.toNat then scale (j / (64 / bs)) (j % (64 / bs)) else 0
     let total := ((List.range 1024).filter fun j => decide (j / 64 ≤ n.toNat) && (out (j / 64) (j % 64)).2.1).length
     VecIssues i (some .mad) (n.toNat + 1) s y → tgt ≠ 3 → vd ≠ vs → vd ≠ va → vs ≠ va → x.vl.toNat ≤ 64 →
     (∀ b, h = some b → ∃ t z j e, HandleAt s s.focus b t z j e) → (∀ r ≤ n.toNat, arithAt x va r = some (f r)) →
     ∃ z, CountedIn s (exec i s) h total z ∧ OnlyRows y z ∧ z.vstart = 0 ∧
       (∀ r ≤ n.toNat, tagAt z vd r = mkTag t.toCode vcValid 127 ∧ ∀ l < 64, elemAt z vd r l = BitVec.ofNat 32 (out r l).1) ∧
       (∀ r < (if tgt = 0 then 2 else 1), tagAt z vs r = mkTag sf.toCode vcValid 127 ∧
         ∀ l < 64, elemAt z vs r l = BitVec.ofNat 32 (scales (64 * r + l))) ∧
       (∀ (v : BitVec 5) (r : Nat), r < 16 → (v ≠ vd ∨ n.toNat < r) → (v ≠ vs ∨ (if tgt = 0 then 2 else 1) ≤ r) →
         z.row v.toNat r = x.row v.toNat r) ∧
       FlagsOf y z (fun r _ => decide (r ≤ n.toNat)) (fun r l =>
         Flags.bits { (out r l).2.2 with of := (out r l).2.2.of || (h.isNone && (out r l).2.1) })) ∧
  (∀ (c : Ctl) (vd va vs : BitVec 5) (f32 : Bool) (n : BitVec 4) (m : Option (BitVec 4)) (s : State) (y : Ctx)
     (f pf : Nat → Fmt) (bs : Nat → Nat) (q : Nat → Nat → Nat),
     let x := s.ctx s.focus
     let i := Instr.vdeq c vd va vs f32 n m
     let g : Fmt := if f32 then .f32 else .bf16
     let out := fun (r l : Nat) => finish g (queueMode x) (withPlane (f r) (valAt x va (f r) r l) (q r (l / bs r)))
     VecIssues i (some .mad) (n.toNat + 1) s y → vd ≠ vs →
     (∀ r, activeRow x n m r → arithAt x va r = some (f r) ∧ companion (f r) = some (pf r, bs r) ∧
       ∀ l, active x n m r l →
         let j := 64 / bs r * r + l / bs r
         planeByte (tagAt x vs (j / 64)) (pf r) (elemAt x vs (j / 64) (j % 64)).toNat = .ok (q r (l / bs r))) →
     ∃ z, OnlyCtx s (exec i s) z ∧
       LanesWritten x y z vd (active x n m) (fun _ => mkTag g.toCode vcValid 127) (fun r l => (out r l).1) ∧
       FlagsOf y z (active x n m) (fun r l => (out r l).2.bits))

/-- R346 to R348, R333: row tags read and written, rows retagged from vstart on and splat, single elements moved; none of them but VSPLAT looks at vl
or masks, none but VSPLAT and VRETAG at vstart. -/
def Obligations.TagAndElementResults : Prop :=
  ∀ (c : Ctl) (vd va : BitVec 5) (rd ra rb fmt : BitVec 6) (r n : BitVec 4) (m : Option (BitVec 4)) (s : State) (y : Ctx) (g : Fmt),
    let x := s.ctx s.focus
    let a := x.s ra
    let j := (x.s rb).toNat
    let writes := fun (z : Ctx) (k : Nat → Bool) (tag : Nat → Tag) (el : Nat → Nat → BitVec 32) =>
      OnlyRows y z ∧ z.vstart = 0 ∧ z.vstat = y.vstat ∧ ∀ (v : BitVec 5) (i : Nat), i < 16 →
        if v = vd ∧ k i then tagAt z v i = tag i ∧ ∀ l < 64, elemAt z v i l = el i l else z.row v.toNat i = x.row v.toNat i
    let t := a.setWidth 24
    let allowed := fun (i : Nat) => tagFmt t = tagFmt (tagAt x vd i) ∧ (tagVc t = vcValid ∨ tagVc t = vcPoison) ∧
      (tagLxp t = 127 ∨ ∃ f, Fmt.ofCode (tagFmt t) = some f ∧ f.isFloat = true)
    let set := fun (i : Nat) => mkTag (tagFmt t) (if vcPoisoned (tagVc (tagAt x vd i)) then vcPoison else tagVc t) (tagLxp t)
    (VecIssues (.vtagGet c rd va r) (some .mad) 1 s y → OnlyCtx s (exec (.vtagGet c rd va r) s)
      { y.setS rd ((tagAt x va r.toNat).setWidth 64) with vstart := 0 }) ∧
    (VecIssues (.vtagSet c vd ra r) (some .mad) 1 s y → allowed r.toNat →
      ∃ z, OnlyCtx s (exec (.vtagSet c vd ra r) s) z ∧ writes z (fun i => decide (i = r.toNat)) set (elemAt x vd)) ∧
    (VecIssues (.vtagSetAll c vd ra) (some .mad) 16 s y → (∀ i < 16, allowed i) →
      ∃ z, OnlyCtx s (exec (.vtagSetAll c vd ra) s) z ∧ writes z (fun _ => true) set (elemAt x vd)) ∧
    (VecIssues (.vretag c vd va fmt n) (some .mad) (n.toNat + 1) s y → Fmt.ofCode fmt = some g → g ≠ .i64 →
      let whole := { x with vl := 64 }
      (∀ i, activeRow whole n none i → vcPoisoned (tagVc (tagAt x va i)) = false ∧ ∃ f, Fmt.ofCode (tagFmt (tagAt x va i)) = some f ∧ f.width = g.width) →
      ∃ z, OnlyCtx s (exec (.vretag c vd va fmt n) s) z ∧ z.vstat = y.vstat ∧
        LanesWritten x y z vd (active whole n none) (fun i => mkTag fmt vcValid
          (if g.isFloat ∧ ∃ f, Fmt.ofCode (tagFmt (tagAt x va i)) = some f ∧ f.isFloat = true then tagLxp (tagAt x va i) else 127))
          (fun i l => (elemAt x va i l).toNat)) ∧
    (VecIssues (.vsplat c vd ra fmt n m) (some .mad) (n.toNat + 1) s y → Fmt.ofCode fmt = some g → g ≠ .i64 →
      ∃ z, OnlyCtx s (exec (.vsplat c vd ra fmt n m) s) z ∧ z.vstat = y.vstat ∧
        LanesWritten x y z vd (active x n m) (fun _ => mkTag g.toCode vcValid 127) (fun _ _ => a.toNat % 2 ^ g.width)) ∧
    (VecIssues (.vmovsGet c rd va rb) (some .mad) 1 s y →
      (j < 1024 → vcPoisoned (tagVc (tagAt x va (j / 64))) = false → OnlyCtx s (exec (.vmovsGet c rd va rb) s)
        { y.setS rd (BitVec.ofNat 64 (elemAt x va (j / 64) (j % 64)).toNat) with vstart := 0 }) ∧
      (1024 ≤ j → exec (.vmovsGet c rd va rb) s = Faulted s .illegalOp (x.s rb))) ∧
    (VecIssues (.vmovsPut c vd ra rb) (some .mad) 1 s y →
      (j < 1024 → Fmt.ofCode (tagFmt (tagAt x vd (j / 64))) = some g → ∃ z, OnlyCtx s (exec (.vmovsPut c vd ra rb) s) z ∧
        writes z (fun i => decide (i = j / 64)) (tagAt x vd)
          (fun i l => if l = j % 64 then BitVec.ofNat 32 (a.toNat % 2 ^ g.width) else elemAt x vd i l)) ∧
      (1024 ≤ j → exec (.vmovsPut c vd ra rb) s = Faulted s .illegalOp (x.s rb)))

/-- R351 to R353: VLD of rows whose lines carry one tag each loads their elements under that tag, ZERO and UNDEF lines as zeros; VST of rows onto
VALID lines of their FMT and LXP merges the elements, the later row last, and leaves every tag, every other element and every other line
as it was. Both here on a CORE tensor that nothing else holds. -/
def Obligations.VectorLoadStoreResults : Prop :=
  ∀ (c : Ctl) (vd vs : BitVec 5) (h ra rb : BitVec 6) (n : BitVec 4) (m : Option (BitVec 4)) (o : Bool) (s : State) (y : Ctx)
    (t : Nat) (x : Task) (i : Nat) (e : HEntry) (tag : Nat → Tag) (f : Nat → Fmt),
    let k := s.focus
    let z0 := s.ctx k
    let el := fun (r l : Nat) => 64 * ((z0.s ra).toNat + r * (z0.s rb).toNat) + l
    let line := fun (r l : Nat) => coreLine k e (el r l * e.width / 1024)
    let pos := fun (r l : Nat) => el r l % (1024 / e.width)
    CoreTensor s k h t x i e → (∀ r l, active z0 n m r l → el r l * e.width / 1024 < e.footprint) →
    (VecIssues (.vld c vd h ra rb n m o) (some .ldp) (n.toNat + 1) s y →
      (∀ r l, active z0 n m r l → rowTag (homeTag s (line r l)) = tag r ∧ Fmt.ofCode (tagFmt (tag r)) = some (f r) ∧ f r ≠ .i64 ∧
        (f r).width ≤ e.width) →
      ∃ (w : State) (z : Ctx), exec (.vld c vd h ra rb n m o) s = .next w ∧ MemoryKept s w k ∧ w.ctx k = z ∧ z.vstat = y.vstat ∧
        LanesWritten z0 y z vd (active z0 n m) tag (fun r l =>
          if readsZero (homeTag s (line r l)) then 0 else elemOf (lineData s (line r l)) (f r).width (pos r l))) ∧
    (VecIssues (.vst c h ra rb vs n m o) (some .stp) (n.toNat + 1) s y →
      (∀ r l, active z0 n m r l → homeTag s (line r l) = mkTag (f r).toCode vcValid (tagLxp (tagAt z0 vs r)) ∧ f r ≠ .code ∧ f r ≠ .i64 ∧
        tagFmt (tagAt z0 vs r) = (f r).toCode ∧ tagVc (tagAt z0 vs r) = vcValid ∧ (f r).width ≤ e.width ∧
        (elemAt z0 vs r l).toNat < 2 ^ (f r).width) →
      ∃ w : State, exec (.vst c h ra rb vs n m o) s = .next w ∧ (∀ l, homeTag w l = homeTag s l) ∧
        (∀ r l, active z0 n m r l → (∀ r' l', active z0 n m r' l' → r < r' → el r' l' ≠ el r l) →
          elemOf (lineData w (line r l)) (f r).width (pos r l) = (elemAt z0 vs r l).toNat) ∧
        (∀ l p, p < 1024 / e.width → (∀ r j, active z0 n m r j → (line r j, pos r j) ≠ (l, p)) →
          elemOf (lineData w l) (widthOf (tagFmt (homeTag s l))) p = elemOf (lineData s l) (widthOf (tagFmt (homeTag s l))) p) ∧
        (∀ l, (∀ r j, active z0 n m r j → line r j ≠ l) → lineData w l = lineData s l) ∧
        (∀ j, j ≠ k → { w.ctx j with monitor := none } = { s.ctx j with monitor := none }) ∧
        { w.ctx k with monitor := none } = { y with vstart := 0, monitor := none })

/-- R355, R356: VGTH loads each lane's element from its own address, the lanes of a row under one tag; VSCT stores each lane's element as a
partial write, later lanes last, and leaves tags and every other byte as they were. Both here where every lane reaches plain bytes. -/
def Obligations.GatherScatterResults : Prop :=
  ∀ (c : Ctl) (vd vi vs : BitVec 5) (ra : BitVec 6) (sh : BitVec 2) (n : BitVec 4) (m : Option (BitVec 4)) (o : Bool) (s : State) (y : Ctx)
    (tag : Nat → Tag) (f g : Nat → Fmt) (ha : Nat → Nat → Nat) (tl : Nat → Nat → TlbEntry),
    let k := s.focus
    let x := s.ctx k
    let ix : List Fmt := [.i8, .i16, .i32]
    let addr := fun (r l : Nat) => (BitVec.ofInt 64 ((x.s ra).toInt +
      (BitVec.ofNat (g r).width (elemAt x vi r l).toNat).toInt * 2 ^ sh.toNat)).toNat
    let bytes := fun (r : Nat) => (f r).width / 8
    let reached := fun (a : Access) => (∀ r, activeRow x n m r → Fmt.ofCode (tagFmt (tagAt x vi r)) = some (g r) ∧ g r ∈ ix ∧
        vcPoisoned (tagVc (tagAt x vi r)) = false) ∧
      ∀ r l, active x n m r l → PlainBytes s k a (addr r l) (bytes r) (ha r l) (tl r l) ∧ addr r l % bytes r = 0 ∧
        homeTag s (ha r l / 128) = mkTag (f r).toCode vcValid (tagLxp (tag r)) ∧ (f r).width ≠ 4 ∧ (f r).width ≠ 64 ∧
        ((tl r l).attrs.tagpol = 0 ∨ (tl r l).attrs.tagpol = 3)
    (vd ≠ vi → VecIssues (.vgth c vd ra vi sh n m o) (some .ldp) (n.toNat + 1) s y → reached .load →
      ∃ z, OnlyCtx s (exec (.vgth c vd ra vi sh n m o) s) z ∧ z.vstat = y.vstat ∧
        LanesWritten x y z vd (active x n m) (fun r => mkTag (f r).toCode vcValid (tagLxp (tag r)))
          (fun r l => wordOfBytes (s.bytes (ha r l) (bytes r)))) ∧
    (VecIssues (.vsct c ra vi vs sh n m o) (some .stp) (n.toNat + 1) s y → reached .store →
      (∀ r, activeRow x n m r → tagAt x vs r = tag r ∧ tagFmt (tag r) = (f r).toCode ∧ tagVc (tag r) = vcValid ∧ f r ≠ .code) →
      ∃ w : State, exec (.vsct c ra vi vs sh n m o) s = .next w ∧ (∀ l, homeTag w l = homeTag s l) ∧
        (∀ r l b, active x n m r l → b < bytes r →
          (∀ r' l', active x n m r' l' → 64 * r + l < 64 * r' + l' → ¬ (ha r' l' ≤ ha r l + b ∧ ha r l + b < ha r' l' + bytes r')) →
          (w.byte (ha r l + b)).toNat = (elemAt x vs r l).toNat / 2 ^ (8 * b) % 256) ∧
        (∀ b, (∀ r l, active x n m r l → ¬ (ha r l ≤ b ∧ b < ha r l + bytes r)) → w.byte b = s.byte b) ∧
        (∀ j, j ≠ k → { w.ctx j with monitor := none } = { s.ctx j with monitor := none }) ∧
        { w.ctx k with monitor := none } = { y with vstart := 0, monitor := none })

/-- R359, R360, R365 to R367: rotations, broadcasts, the transpose, the shuffle and the compression move bit patterns under their sources' tags, whatever
vstart holds; VBC beyond its limit raises ILLEGAL_OP with the value. -/
def Obligations.VectorMovementResults : Prop :=
  ∀ (c : Ctl) (vd va vi : BitVec 5) (rb : BitVec 6) (vps n : BitVec 4) (m : Option (BitVec 4)) (ax : Bool) (s : State) (y : Ctx)
    (tag : Nat → Tag) (g : Nat → Fmt),
    let x := s.ctx s.focus
    let lane := fun (n : BitVec 4) => active { x with vstart := 0 } n m
    let k := (x.s rb).toInt
    let j := (x.s rb).toNat
    let moves := fun (i : Instr) (n : BitVec 4) (from_ : Nat → Nat → Nat × Nat) => VecIssues i (some .prm) (n.toNat + 1) s y →
      (∀ r l, lane n r l → tagAt x va (from_ r l).1 = tag r ∧ vcPoisoned (tagVc (tag r)) = false) →
      ∃ z, OnlyCtx s (exec i s) z ∧ z.vstat = y.vstat ∧
        LanesWritten x y z vd (lane n) tag (fun r l => (elemAt x va (from_ r l).1 (from_ r l).2).toNat)
    moves (.vrot c vd va rb n m false) n (fun r l => (r, ((l + k) % x.vl.toNat).toNat)) ∧
    moves (.vrot c vd va rb n m true) n (fun r l => (((r + k) % (n.toNat + 1 : Nat)).toNat, l)) ∧
    (j ≤ 63 → moves (.vbc c vd va rb n m false) n (fun r _ => (r, j))) ∧
    (j ≤ 15 → moves (.vbc c vd va rb n m true) n (fun _ l => (j, l))) ∧
    (VecIssues (.vbc c vd va rb n m ax) (some .prm) (n.toNat + 1) s y → (if ax then 15 else 63) < j →
      exec (.vbc c vd va rb n m ax) s = Faulted s .illegalOp (x.s rb)) ∧
    ((∀ r r', tag r = tag r') → moves (.vtrn c vd va m) 15 (fun r l => (l % 16, 16 * (l / 16) + r))) ∧
    (VecIssues (.vshuf c vd va vi n m) (some .prm) (n.toNat + 1) s y →
      let ix := fun (r l : Nat) => (BitVec.ofNat (g r).width (elemAt x vi r l).toNat).toInt
      (∀ r, (List.range 64).any (lane n r) → Fmt.ofCode (tagFmt (tagAt x vi r)) = some (g r) ∧ g r ∈ ([.i8, .i16, .i32] : List Fmt) ∧
        vcPoisoned (tagVc (tagAt x vi r)) = false ∧ vcPoisoned (tagVc (tagAt x va r)) = false) →
      ∃ z, OnlyCtx s (exec (.vshuf c vd va vi n m) s) z ∧ z.vstat = y.vstat ∧
        LanesWritten x y z vd (lane n) (tagAt x va) (fun r l =>
          if 0 ≤ ix r l ∧ ix r l ≤ 63 then (elemAt x va r (ix r l).toNat).toNat else 0)) ∧
    (VecIssues (.vcmpr c vd va vps n) (some .prm) (n.toNat + 1) s y →
      let kept := fun (r : Nat) => (List.range 64).filter fun l => decide (l < x.vl.toNat) && (x.vp vps).getLsbD (64 * r + l)
      (∀ r ≤ n.toNat, kept r ≠ [] → vcPoisoned (tagVc (tagAt x va r)) = false) → x.vl.toNat ≤ 64 →
      ∃ z, OnlyCtx s (exec (.vcmpr c vd va vps n) s) z ∧ OnlyRows y z ∧ z.vstart = 0 ∧ z.vstat = y.vstat ∧
        ∀ (v : BitVec 5) (r : Nat), r < 16 →
          if v = vd ∧ r ≤ n.toNat then tagAt z v r = tagAt x va r ∧
            ∀ l < 64, elemAt z v r l = match (kept r)[l]? with | some l' => elemAt x va r l' | none => 0
          else z.row v.toNat r = x.row v.toNat r)

/-- R361 to R364: reductions and scans of the row axis and of the column axis: each result is the exact sum of its group rounded once, the greatest or the
least, or the bitwise combination, in the rows' format or the column fold, a bitwise one of the column axis under the tag of its rows; an empty group of VRED gives the identity and sets NOACT. -/
def Obligations.ReductionAndScanResults : Prop :=
  ∀ (c : Ctl) (vd va : BitVec 5) (n : BitVec 4) (m : Option (BitVec 4)) (rop : BitVec 3) (s : State) (y : Ctx)
    (f g : Nat → Fmt) (gc : Fmt) (tag : Tag),
    let x := s.ctx s.focus
    let op := RedOp.ofCode rop
    let md := queueMode x
    let lane := active { x with vstart := 0 } n m
    let rows := (List.range 16).filter fun r => (List.range 64).any (lane r)
    let bits := rop = 3 ∨ rop = 4
    let own := fun (a : Fmt) => lattice s x.vd false a a
    let elems := fun (r : Nat) (p : Nat → Bool) => ((List.range 64).filter fun l => lane r l && p l).map fun l =>
      (if bits then FNum.fin false 0 0 else valAt x va (f r) r l, (elemAt x va r l).toNat)
    let column := fun (l : Nat) (p : Nat → Bool) => (rows.filter fun r => lane r l && p r).map fun r =>
      (if bits then FNum.fin false 0 0 else valAt x va (f r) r l, (elemAt x va r l).toNat)
    let ints := fun (l : Nat) (p : Nat → Bool) => (rows.filter fun r => lane r l && p r).all fun r => !(f r).isFloat
    let fold : Option Fmt := match rows with
      | [] => own (f 0)
      | r0 :: rs => rs.foldlM (fun a r => lattice s x.vd false a (f r)) =<< own (f r0)
    let readable := (∀ r ∈ rows, if bits then Fmt.ofCode (tagFmt (tagAt x va r)) = some (f r) ∧ f r ≠ .i64 ∧ tagAt x va r = tag ∧
        vcPoisoned (tagVc tag) = false else arithAt x va r = some (f r))
    let blank := fun (r : Nat) => Fmt.ofCode (tagFmt (tagAt x va r)) = some (f r) ∧ f r ≠ .i64 ∧
      (tagVc (tagAt x va r) = vcValid ∨ tagVc (tagAt x va r) = vcPoison)
    let ownRow := fun (r : Nat) => if bits then g r = f r else own (f r) = some (g r)
    let ownCol := if bits then (∀ r ∈ rows, f r = gc) ∧ (rows = [] → f 0 = gc) else fold = some gc
    let valid := fun (t : Tag) => mkTag (tagFmt t) vcValid (tagLxp t)
    let rowTag := fun (r : Nat) => if bits then tagAt x va r else mkTag (g r).toCode vcValid 127
    let colTag := if bits then (if rows = [] then tagAt x va 0 else tag) else mkTag gc.toCode vcValid 127
    let flags := fun (q : Nat × Flags × Bool) => q.2.1.bits + (if q.2.2 then 32 else 0)
    x.vl.toNat ≤ 64 → rop.toNat ≤ 4 → readable →
    (VecIssues (.vred c vd va n m false rop) (some .prm) (n.toNat + 1) s y →
      (∀ r ≤ n.toNat, ownRow r ∧ (r ∉ rows → blank r)) →
      let q := fun (r : Nat) => op.result (g r) md (!(f r).isFloat) (elems r fun _ => true)
      let first := fun (r l : Nat) => decide (r ≤ n.toNat) && decide (l = 0)
      ∃ z, OnlyCtx s (exec (.vred c vd va n m false rop) s) z ∧
        LanesWritten x y z vd first (fun r => valid (rowTag r)) (fun r _ => (q r).1) ∧ FlagsOf y z first (fun r _ => flags (q r))) ∧
    (VecIssues (.vred c vd va n m true rop) (some .prm) (n.toNat + 1) s y → ownCol → (rows = [] → blank 0) →
      let q := fun (l : Nat) => op.result gc md (ints l fun _ => true) (column l fun _ => true)
      let top := fun (r l : Nat) => decide (r = 0) && decide (l < x.vl.toNat)
      ∃ z, OnlyCtx s (exec (.vred c vd va n m true rop) s) z ∧
        LanesWritten x y z vd top (fun _ => if bits ∧ rows ≠ [] then tag else valid colTag) (fun _ l => (q l).1) ∧ FlagsOf y z top (fun _ l => flags (q l))) ∧
    (VecIssues (.vscan c vd va n m false rop) (some .prm) (n.toNat + 1) s y → (∀ r ∈ rows, ownRow r) →
      let q := fun (r l : Nat) => op.result (g r) md (!(f r).isFloat) (elems r fun j => decide (j ≤ l))
      ∃ z, OnlyCtx s (exec (.vscan c vd va n m false rop) s) z ∧
        LanesWritten x y z vd lane rowTag (fun r l => (q r l).1) ∧ FlagsOf y z lane (fun r l => (q r l).2.1.bits)) ∧
    (VecIssues (.vscan c vd va n m true rop) (some .prm) (n.toNat + 1) s y → ownCol →
      let q := fun (r l : Nat) => op.result gc md (ints l fun j => decide (j ≤ r)) (column l fun j => decide (j ≤ r))
      ∃ z, OnlyCtx s (exec (.vscan c vd va n m true rop) s) z ∧
        LanesWritten x y z vd lane (fun _ => colTag) (fun r l => (q r l).1) ∧ FlagsOf y z lane (fun r l => (q r l).2.1.bits))

/-- R369, R370: a special function of float rows: each lane F(x), for the special inputs what Table 15.6 gives, rounded to F32 to nearest-even, then into the
lattice's format under the queue's mode, clamped with OF where firmware's tables make that an integer format. -/
def Obligations.SpecialFunctionResults : Prop :=
  ∀ (c : Ctl) (vd va : BitVec 5) (n : BitVec 4) (m : Option (BitVec 4)) (s : State) (y : Ctx) (f g : Nat → Fmt),
    let x := s.ctx s.focus
    let out := fun (fn : SpecialFn) (r l : Nat) =>
      let v := (specialInput fn (valAt x va (f r) r l)).getD (fn.eval (valAt x va (f r) r l))
      let w := finish .f32 .rne v.1
      let y := decode .f32 w.1
      if g r = .f32 then (w.1, v.2.or w.2)
      else if (g r).isFloat then let u := finish (g r) (queueMode x) y; (u.1, (v.2.or w.2).or u.2)
      else let u := satInt (g r) (queueMode x) y 0; (u.1, ((v.2.or w.2).or u.2.2).or { of := u.2.1 })
    let does := fun (i : Instr) (fn : SpecialFn) => VecIssues i (some .sfu) (n.toNat + 1) s y →
      (∀ r, activeRow x n m r → arithAt x va r = some (f r) ∧ (f r).isFloat = true ∧ lattice s x.vd false (f r) (f r) = some (g r)) →
      ∃ z, OnlyCtx s (exec i s) z ∧
        LanesWritten x y z vd (active x n m) (fun r => mkTag (g r).toCode vcValid 127) (fun r l => (out fn r l).1) ∧
        FlagsOf y z (active x n m) (fun r l => (out fn r l).2.bits)
    does (.vexp2 c vd va n m) .exp2 ∧ does (.vlog2 c vd va n m) .log2 ∧ does (.vrcp c vd va n m) .rcp ∧ does (.vrsq c vd va n m) .rsq ∧
    does (.vsqrt c vd va n m) .sqrt ∧ does (.vtanh c vd va n m) .tanh ∧ does (.vsin c vd va n m) .sin

/-- R369: three of the special functions before their rounding to F32: for a finite positive x = m·2^e the value r·2^q that stands for 1/x, √x or 1/√x is
that number when r is even, and else lies within one unit of r of it on either side, with which it rounds alike. -/
def Obligations.AlgebraicFunctionsBracket : Prop :=
  ∀ (m : Nat) (e : Int), 0 < m →
    let near := fun (lo mid hi target : Nat) (r : Nat) => lo < target ∧ target < hi ∧ (r % 2 = 0 → mid = target)
    (∃ (r : Nat) (q : Int) (k : Nat), SpecialFn.eval .rcp (.fin false m e) = (.fin false r q, {}) ∧ (k : Int) = -e - q ∧
      near ((r - 1) * m) (r * m) ((r + 1) * m) (2 ^ k) r) ∧
    (∃ (r : Nat) (q : Int) (k : Nat), SpecialFn.eval .sqrt (.fin false m e) = (.fin false r q, {}) ∧ (k : Int) = e - 2 * q ∧
      near ((r - 1) ^ 2) (r ^ 2) ((r + 1) ^ 2) (m * 2 ^ k) r) ∧
    (∃ (r : Nat) (q : Int) (k : Nat), SpecialFn.eval .rsq (.fin false m e) = (.fin false r q, {}) ∧ (k : Int) = -e - 2 * q ∧
      near ((r - 1) ^ 2 * m) (r ^ 2 * m) ((r + 1) ^ 2 * m) (2 ^ k) r)

/-- R238, R371, R373, Table 15.8: VQPUSH appends rows of a register to a tagged queue with room for them, VQPOP takes the oldest rows into a register,
both from the row vstart names, whatever vl; VQSTAT reads how many rows the queue holds and whether another live stream of the task may change it. -/
def Obligations.QueueTransferResults : Prop :=
  ∀ (c : Ctl) (q : BitVec 2) (va vd : BitVec 5) (rd : BitVec 6) (n : BitVec 4) (s : State) (y : Ctx) (t : Nat) (x : Task),
    let k := s.focus
    let z0 := s.ctx k
    let first := z0.vstart.toNat / 64
    let tq := vecGet {} x.queues q.toNat
    let count := n.toNat + 1 - first
    let queueIs := fun (w : State) (h : Nat) (rows : List Row) => w.task t = some { x with queues := vecMod x.queues q.toNat fun _ => { head := h, rows := rows } } ∧
      (∀ j, j ≠ t → w.task j = s.task j) ∧ MemoryKept s w k
    z0.task = some t → s.task t = some x →
    (VecIssues (.vqpush c q va n) (some .stp) (n.toNat + 1) s y → tq.rows.length + count ≤ 16 →
      ∃ w : State, exec (.vqpush c q va n) s = .next w ∧ w.ctx k = { y with vstart := 0 } ∧
        queueIs w tq.head (tq.rows ++ (List.range count).map fun j => z0.row va.toNat (first + j))) ∧
    (VecIssues (.vqpop c vd q n) (some .ldp) (n.toNat + 1) s y → count ≤ tq.rows.length →
      ∃ (w : State) (z : Ctx), exec (.vqpop c vd q n) s = .next w ∧ w.ctx k = z ∧ OnlyRows y z ∧ z.vstart = 0 ∧ z.vstat = y.vstat ∧
        (∀ (v : BitVec 5) (r : Nat), r < 16 → z.row v.toNat r =
          if v = vd ∧ first ≤ r ∧ r ≤ n.toNat then tq.rows.getD (r - first) {} else z0.row v.toNat r) ∧
        ∃ h, (tq.head < 16 → h = (tq.head + count) % 16) ∧ queueIs w h (tq.rows.drop count)) ∧
    (Issues (.vqstat c rd q) s → (∀ e, .entry e ∈ z0.vq → QItem.transfer (.entry e) = false) → exec (.vqstat c rd q) s =
      Done s fun z => z.setS rd (BitVec.ofNat 64 ((if (otherStream s k x).isSome then 256 else 0) + tq.rows.length)))

/-- R333, R335, R424: a vector instruction that meets a POISON row is precise in its queue: the rows below stand, the entry stays at its queue's head from
the row's first active element, and the fault that waits names the row and that element. -/
def Obligations.VectorFaultIsPrecise : Prop :=
  ∀ (c : Ctl) (vd va vb : BitVec 5) (n : BitVec 4) (m : Option (BitVec 4)) (s : State) (y : Ctx) (r l : Nat),
    let x := s.ctx s.focus
    let i := Instr.vadd c vd va vb n m
    VecIssues i (some .mad) (n.toNat + 1) s y → active x n m r l = true → (∀ l' < l, active x n m r l' = false) →
    (∀ r' < r, activeRow x n m r' = false) → vcPoisoned (tagVc (tagAt x va r)) = true →
    ∃ (w : State) (b : Bool), w.ctx s.focus = y ∧ (∀ j, j ≠ s.focus → w.ctx j = s.ctx j) ∧ { w with ctxs := s.ctxs } = s ∧
      exec i s = VecFaulted s i (some .mad) (n.toNat + 1) 0 0 b y w .poisonConsumed (BitVec.ofNat 64 (16 * va.toNat + r)) (64 * r + l)

/-! Matrix instructions (chapter 16). -/

/-- R378, R379: MSHAPE sets mshape from M and N within 1 to 128 and raises ILLEGAL_OP with the other value else; RMODE sets the mode of each named
queue that is empty, and queues an entry behind what a queue holds. -/
def Obligations.MatrixShapeAndModeResults : Prop :=
  ∀ (c : Ctl) (ra rb : BitVec 6) (i32 : Bool) (qs : BitVec 2) (mode : BitVec 3) (s : State) (t : Nat) (x : Task),
    let y := s.ctx s.focus
    let (m, n) := ((y.s ra).toNat, (y.s rb).toNat)
    (Issues (.mshape c ra rb i32) s →
      (1 ≤ m ∧ m ≤ 128 ∧ 1 ≤ n ∧ n ≤ 128 → ∃ v, exec (.mshape c ra rb i32) s = Done s (fun z => { z with mshape := v }) ∧
        shapeM v = m ∧ shapeN v = n ∧ shapeAcc v = some (if i32 then .i32 else .f32)) ∧
      (y.mode ≠ .m → ¬ (1 ≤ m ∧ m ≤ 128) → exec (.mshape c ra rb i32) s = Faulted s .illegalOp (y.s ra)) ∧
      (y.mode ≠ .m → 1 ≤ m ∧ m ≤ 128 → ¬ (1 ≤ n ∧ n ≤ 128) → exec (.mshape c ra rb i32) s = Faulted s .illegalOp (y.s rb))) ∧
    (Issues (.rmode c qs mode) s → y.task = some t → s.task t = some x →
      y.vq.length < 32 → x.mq.length < 32 → ∃ w : State, exec (.rmode c qs mode) s = Passed s.focus w ∧
        ∃ e, w.ctx s.focus = (if qs.getLsbD 0 then (if y.vq = [] then { y with vqMode := mode } else { y with vq := y.vq ++ [.mode mode e] }) else y) ∧
          w.task t = some (if qs.getLsbD 1 then (if x.mq = [] then { x with mqMode := mode } else { x with mq := x.mq ++ [.mode mode e] }) else x) ∧
          { w with ctxs := s.ctxs, tasks := s.tasks } = s)

/-- R381 to R384: MMA accumulates the product of its A and B groups, chunk by chunk, into the M × N elements of its tile and ORs the flags into vstat;
M beyond the A group raises ILLEGAL_OP with M, an accumulator format that is neither F32 nor I32 FORMAT_PAIR with mshape. -/
def Obligations.MatrixProductResults : Prop :=
  ∀ (c : Ctl) (tile : BitVec 2) (va vb : BitVec 5) (vsa vsb : Option (BitVec 5)) (g : BitVec 2) (s : State) (t : Nat) (x : Task)
    (acc : Fmt) (fa fb : Nat → Fmt) (a b : Nat → Nat → FNum),
    let y := s.ctx s.focus
    let i := Instr.mma c tile va vb vsa vsb g
    let (mm, nn, k) := (shapeM y.mshape, shapeN y.mshape, y.vl.toNat)
    MatIssues i (some tile) s t x →
    (mm ≤ 16 * 2 ^ g.toNat → shapeAcc y.mshape = some acc → OperandRows y va vsa acc mm k fa a → OperandRows y vb vsb acc nn k fb b →
      (∀ m < mm, ∀ n < nn, (lattice s y.vd true (fa m) (fb n)).isSome) → ProductDone s (exec i s) t x tile acc fa fb a b) ∧
    (16 * 2 ^ g.toNat < mm → y.mode ≠ .m → exec i s = Faulted s .illegalOp (BitVec.ofNat 64 mm)) ∧
    (mm ≤ 16 * 2 ^ g.toNat → shapeAcc y.mshape = none → ∃ (w : State) (e : QEntry),
      exec i s = .next (raiseFault w s.focus { cause := .formatPair, etval := y.mshape, src := .matrix, fpc := y.pc, epc := y.advance.pc }) ∧
        w.task t = some { x with mq := [.entry e] } ∧ e.instr = i ∧ w.ctx s.focus = y.advance ∧
        ∀ p j m n, w.acc (coreOf s.focus) p j m n = s.acc (coreOf s.focus) p j m n)

/-- R385, R386: MMAG of a task of no cord, or with a grid that is not its cord's size, raises ILLEGAL_OP; in a cord of one member it is the MMA of the same
operands; in a larger one it waits at its queue's head while a live member has not issued its own, and raises ILLEGAL_OP with the rank of a member whose
HALT has retired. When every member's stands at the head and none of them is
held or blocked, their products are performed together: each member's A rows come from the first member of its grid row and its B rows from the first of its
grid column, under rank 0's shape. -/
def Obligations.CordProductResults : Prop :=
  (∀ (c : Ctl) (tile : BitVec 2) (va vb : BitVec 5) (vsa vsb : Option (BitVec 5)) (g prM1 : BitVec 2) (pcM1 : BitVec 3) (s : State) (t : Nat)
     (x : Task) (acc : Fmt) (fa fb : Nat → Fmt) (a b : Nat → Nat → FNum),
     let y := s.ctx s.focus
     let i := Instr.mmag c tile va vb vsa vsb g prM1 pcM1
     let size := (prM1.toNat + 1) * (pcM1.toNat + 1)
     let (mm, nn, k) := (shapeM y.mshape, shapeN y.mshape, y.vl.toNat)
     MatIssues i (some tile) s t x →
     (y.mode ≠ .m → x.cord = false ∨ size ≠ x.cszm1 + 1 → exec i s = Faulted s .illegalOp y.ir) ∧
     (SMap.wf none s.tasks = true → x.cord = true → size = 1 → x.cszm1 = 0 → x.rank = 0 → memberHalted s x 0 = false →
       (∀ r ∈ s.tasks, ∀ z, r.2 = some z → z.launch = x.launch → z.node = x.node → z.index = x.index → r.1 = t) →
       mm ≤ 16 * 2 ^ g.toNat → shapeAcc y.mshape = some acc → OperandRows y va vsa acc mm k fa a → OperandRows y vb vsb acc nn k fb b →
       (∀ m < mm, ∀ n < nn, (lattice s y.vd true (fa m) (fb n)).isSome) →
       ∃ (w : State), ProductDone s (.next w) t x tile acc fa fb a b ∧
         exec i s = .next (w.modTask t fun z => { z with mmag := z.mmag + 1 })) ∧
     (SMap.wf none s.tasks = true → x.cord = true → size = x.cszm1 + 1 → (x.rank = 0 → mm ≤ 16 * 2 ^ g.toNat) → (cordMembers s x).length = size →
       (∀ r < size, memberHalted s x r = false) → (∀ r < size, ∃ q ∈ cordMembers s x, q.2.rank = r) → (∃ q ∈ cordMembers s x, q.1 ≠ t ∧ s.task q.1 = some q.2 ∧ q.2.mq = []) →
       ∃ (w : State) (e : QEntry), exec i s = .next w ∧ w.task t = some { x with mq := [.entry e] } ∧ e.instr = i ∧ w.ctx s.focus = y.advance) ∧
     (x.cord = true → size = x.cszm1 + 1 → (x.rank = 0 → mm ≤ 16 * 2 ^ g.toNat) → ∀ r < size, memberHalted s x r = true →
       (∀ r' < r, memberHalted s x r' = false) → ∃ (w : State) (e : QEntry),
       exec i s = .next (raiseFault w s.focus { cause := .illegalOp, etval := BitVec.ofNat 64 r, src := .matrix, fpc := y.pc, epc := y.advance.pc }) ∧
         w.task t = some { x with mq := [.entry e] } ∧ e.instr = i ∧ w.ctx s.focus = y.advance)) ∧
  (∀ (s : State) (size r0 : Nat) (prM1 : BitVec 2) (pcM1 : BitVec 3) (t k : Nat → Nat) (x : Nat → Task) (e : Nat → QEntry) (q : Nat → List QItem)
     (c : Nat → Ctl) (tile : Nat → BitVec 2) (va vb : Nat → BitVec 5) (vsa vsb : Nat → Option (BitVec 5)) (g : Nat → BitVec 2) (acc : Fmt)
     (fa fb : Nat → Nat → Fmt) (a b : Nat → Nat → Nat → FNum),
     let cols := pcM1.toNat + 1
     let mm := shapeM (e 0).mshape
     let nn := shapeN (e 0).mshape
     let fits := fun (r r' : Nat) => (x r').launch = (x r).launch ∧ (x r').node = (x r).node ∧
       (x r').index = (x r).index / size * size + r'
     SMap.wf none s.tasks = true → size = (prM1.toNat + 1) * cols → r0 < size →
     (∀ r < size, s.task (t r) = some (x r) ∧ (x r).cszm1 + 1 = size ∧ (x r).rank = r ∧ (x r).xctx = some (k r) ∧ (x r).savedAcc = [] ∧
       (x r).mq = .entry (e r) :: q r ∧ (e r).instr = .mmag (c r) (tile r) (va r) (vb r) (vsa r) (vsb r) (g r) prM1 pcM1 ∧
       memberHalted s (x r) r = false ∧ crDueOf s (k r) = false ∧ queueStopped s (k r) .matrix = false ∧ heldTask s (k r) = false ∧ vectorBlocks s (k r) (e r) = false ∧
       ((s.core (coreOf (k r))).holder (partOf s (k r)) = none ∨ (s.core (coreOf (k r))).holder (partOf s (k r)) = some (t r)) ∧
       fits r0 r ∧ (∀ z ∈ s.tasks, ∀ u, z.2 = some u → u.launch = (x r).launch → u.node = (x r).node → u.index = (x r).index → z.1 = t r) ∧
       ∀ r' < size, r' ≠ r → t r' ≠ t r ∧ k r' ≠ k r ∧ coreOf (k r') ≠ coreOf (k r)) →
     shapeAcc (e 0).mshape = some acc → mm ≤ 16 * 2 ^ (g 0).toNat →
     (∀ r < size, OperandRows (s.ctx (k (r / cols * cols))) (va (r / cols * cols)) (vsa (r / cols * cols)) acc mm (e 0).vl (fa r) (a r) ∧
       OperandRows (s.ctx (k (r % cols))) (vb (r % cols)) (vsb (r % cols)) acc nn (e 0).vl (fb r) (b r) ∧
       ∀ m < mm, ∀ n < nn, (lattice s (s.ctx (k r)).vd true (fa r m) (fb r n)).isSome) →
     ∃ w : State, exec (.mmagMeet (t r0)) s = .next w ∧ w.mem = s.mem ∧ w.tags = s.tags ∧
       ∀ r < size, w.task (t r) = some { x r with mq := q r, mmag := (x r).mmag + 1 } ∧
         (w.core (coreOf (k r))).holder (partOf s (k r)) = some (t r) ∧
         { w.ctx (k r) with vstat := (s.ctx (k r)).vstat } = s.ctx (k r) ∧
         ∀ m n, m < 128 → n < 128 → w.acc (coreOf (k r)) (partOf s (k r)) (tile r).toNat m n =
           if m < mm ∧ n < nn then (productCell acc (RMode.ofCode (x r).mqMode.toNat) (chunk (fa r m) (fb r n)) (e 0).vl (a r m) (b r n)
             (s.acc (coreOf (k r)) (partOf s (k r)) (tile r).toNat m n)).1 % 2 ^ 32
           else s.acc (coreOf (k r)) (partOf s (k r)) (tile r).toNat m n)

/-- R375, R387, R390, R391: MZERO clears its tile, MOVC moves a block of it to or from a register under the accumulator format, from one whose rows are not
all float or integer under F32, or integer under I32, raising FORMAT_PAIR with the row's tag, and MDRAIN waits for the queue, then clears the partition's tiles and gives the engine up. -/
def Obligations.TileMoveResults : Prop :=
  ∀ (c : Ctl) (vd va : BitVec 5) (tile : BitVec 2) (b : BitVec 4) (s : State) (t : Nat) (x : Task) (acc : Fmt),
    let y := s.ctx s.focus
    let core := coreOf s.focus
    let p := partOf s s.focus
    let md := RMode.ofCode x.mqMode.toNat
    let (row, col) := (16 * (b.toNat % 8), 64 * (b.toNat / 8))
    (MatIssues (.mzero c tile) (some tile) s t x → ∃ w : State, MatDone s (exec (.mzero c tile) s) t w y.advance ∧ TileIs s w tile fun _ _ => 0) ∧
    (MatIssues (.movcG c vd tile b) (some tile) s t x → shapeAcc y.mshape = some acc →
      ∃ (w : State) (z : Ctx), MatDone s (exec (.movcG c vd tile b) s) t w z ∧ TileIs s w tile (s.acc core p tile.toNat) ∧
        { z with rows := y.rows, vdirty := y.vdirty } = y.advance ∧ z.vdirty = y.vdirty ||| BitVec.ofNat 64 (2 ^ vd.toNat) ∧
        ∀ (v : BitVec 5) (r : Nat), r < 16 → if v = vd then tagAt z v r = mkTag acc.toCode vcValid 127 ∧
            ∀ l < 64, elemAt z v r l = BitVec.ofNat 32 (s.acc core p tile.toNat (row + r) (col + l))
          else z.row v.toNat r = y.row v.toNat r) ∧
    (MatIssues (.movcP c tile va b) (some tile) s t x → shapeAcc y.mshape = some acc →
      ∀ f : Nat → Fmt, (∀ r < 16, arithAt y va r = some (f r) ∧ (acc = .i32 → (f r).isFloat = false) ∧ (acc = .f32 → f r ≠ .ob8 ∧ f r ≠ .ob4)) →
      let out := fun (r l : Nat) => if acc = .f32 then finish .f32 md (valAt y va (f r) r l)
        else ((BitVec.ofInt 32 (valAt y va (f r) r l).toInt).toNat, {})
      ∃ (w : State) (z : Ctx), MatDone s (exec (.movcP c tile va b) s) t w z ∧ { z with vstat := y.vstat } = y.advance ∧
        (∀ j < 64, bit z.vstat j = (bit y.vstat j ||
          (List.range 16).any fun r => (List.range 64).any fun l => (out r l).2.bits.testBit j)) ∧
        TileIs s w tile fun m n => if row ≤ m ∧ m < row + 16 ∧ col ≤ n ∧ n < col + 64 then (out (m - row) (n - col)).1
          else s.acc core p tile.toNat m n) ∧
    (MatIssues (.movcP c tile va b) (some tile) s t x → shapeAcc y.mshape = some acc → ∀ r < 16, ∀ f : Nat → Fmt,
      (∀ r' < r, arithAt y va r' = some (f r') ∧ (acc = .i32 → (f r').isFloat = false) ∧ (acc = .f32 → f r' ≠ .ob8 ∧ f r' ≠ .ob4)) →
      vcPoisoned (tagVc (tagAt y va r)) = false → (∀ g, arithAt y va r = some g → (acc = .i32 ∧ g.isFloat = true) ∨ (acc = .f32 ∧ (g = .ob8 ∨ g = .ob4))) →
      ∃ (w : State), exec (.movcP c tile va b) s = .next (raiseFault w s.focus
          { cause := .formatPair, etval := (tagAt y va r).setWidth 64, src := .matrix, fpc := y.pc, epc := y.advance.pc }) ∧
        w.ctx s.focus = y.advance ∧ ∀ p j m n, w.acc core p j m n = s.acc core p j m n) ∧
    (Issues (.mdrain c) s → y.task = some t → s.task t = some x →
      (x.mq ≠ [] → exec (.mdrain c) s = WaitsHere s) ∧
      (x.mq = [] → ∃ w : State, exec (.mdrain c) s = Passed s.focus w ∧ w.ctxs = s.ctxs ∧
        ∀ q < 2, if (s.core core).holder q = some t then (w.core core).holder q = none ∧ ∀ j m n, j < 4 → m < 128 → n < 128 → w.acc core q j m n = 0
          else (w.core core).holder q = (s.core core).holder q ∧
            ∀ j m n, j < 4 → m < 128 → n < 128 → w.acc core q j m n = s.acc core q j m n))

/-- R387 to R389: MLDA sets the tile's M × N elements from a handle's elements, converted into the accumulator format; MSTA converts them into the
handle's format, counts saturations in its OVF and stores them, the later element last, every other element of the handle unchanged; MSTA.B that names
a handle without a band table raises HANDLE_INVALID with its number. The handle here is a CORE tensor that nothing else holds, its lines VALID. -/
def Obligations.TileLoadStoreResults : Prop :=
  ∀ (c : Ctl) (h hw ra rn : BitVec 6) (tile : BitVec 2) (o : Bool) (s : State) (t : Nat) (x : Task) (i : Nat) (e : HEntry) (acc : Fmt)
    (f : Nat → Nat → Fmt) (k : Nat → Nat → Nat) (g : Fmt),
    let y := s.ctx s.focus
    let core := coreOf s.focus
    let p := partOf s s.focus
    let md := RMode.ofCode x.mqMode.toNat
    let a := (y.s ra).toNat
    let (mm, nn) := (shapeM y.mshape, shapeN y.mshape)
    let el := fun (m n : Nat) => 64 * (a % 2 ^ 32 + m * (a / 2 ^ 32)) + n
    let line := fun (m n : Nat) => coreLine s.focus e (el m n * e.width / 1024)
    let pos := fun (m n : Nat) => el m n % (1024 / e.width)
    CoreTensor s s.focus h t x i e → shapeAcc y.mshape = some acc →
    (∀ m < mm, ∀ n < nn, el m n * e.width / 1024 < e.footprint) →
    (MatIssues (.mlda c tile h ra) (some tile) s t x →
      (∀ m < mm, ∀ n < nn, homeTag s (line m n) = mkTag (f m n).toCode vcValid (k m n) ∧ (f m n).isArith = true ∧
        (f m n).width ≤ e.width ∧ k m n < 256 ∧ ((f m n).isFloat = false → k m n = 127) ∧ (acc = .i32 → (f m n).isFloat = false)) →
      let out := fun (m n : Nat) =>
        let v := readElem (f m n) (k m n) (elemOf (lineData s (line m n)) (f m n).width (pos m n))
        if acc = .f32 then finish .f32 md v else ((BitVec.ofInt 32 v.toInt).toNat, {})
      ∃ w : State, exec (.mlda c tile h ra) s = .next w ∧ MemoryKept s w s.focus ∧ { w.ctx s.focus with vstat := y.vstat } = y.advance ∧
        (∀ j < 64, bit (w.ctx s.focus).vstat j = (bit y.vstat j ||
          (List.range mm).any fun m => (List.range nn).any fun n => (out m n).2.bits.testBit j)) ∧
        TileIs s w tile fun m n => if m < mm ∧ n < nn then (out m n).1 else s.acc core p tile.toNat m n) ∧
    (MatIssues (.msta c h tile ra none o) (some tile) s t x → e.fmt = g.toCode → e.plane = none → g.width ≤ e.width →
      g ∈ ([.f32, .f16, .bf16, .e4m3, .e5m2, .i8, .i16, .i32, .ob8] : List Fmt) →
      (∀ m < mm, ∀ n < nn, homeTag s (line m n) = mkTag g.toCode vcValid 127) →
      let out := fun (m n : Nat) =>
        let v := decode acc (s.acc core p tile.toNat m n)
        if g.isFloat then satFloat g md v 0 else satInt g md v 0
      let total := ((List.range mm).flatMap fun m => (List.range nn).filter fun n => (out m n).2.1).length
      ∃ w : State, exec (.msta c h tile ra none o) s = .next w ∧ (∀ l, homeTag w l = homeTag s l) ∧
        (∀ m n, m < mm → n < nn → (∀ m' n', m' < mm → n' < nn → m < m' → el m' n' ≠ el m n) →
          elemOf (lineData w (line m n)) g.width (pos m n) = (out m n).1) ∧
        (∀ l q, q < 1024 / e.width → (∀ m n, m < mm → n < nn → (line m n, pos m n) ≠ (l, q)) →
          elemOf (lineData w l) (widthOf (tagFmt (homeTag s l))) q = elemOf (lineData s l) (widthOf (tagFmt (homeTag s l))) q) ∧
        (∀ l, (∀ m n, m < mm → n < nn → line m n ≠ l) → lineData w l = lineData s l) ∧
        w.entry core i = e.addOvf total ∧ TileIs s w tile (s.acc core p tile.toNat) ∧
        { w.ctx s.focus with vstat := y.vstat, monitor := none } = { y.advance with monitor := none }) ∧
    (∀ i' e', HandleAt s s.focus hw t x i' e' → e'.band = none → MatIssues (.msta c h tile ra (some (hw, rn)) o) (some tile) s t x →
      (∃ g, Fmt.ofCode e.fmt = some g ∧ g ∈ ([.f32, .f16, .bf16, .e4m3, .e5m2, .i8, .i16, .i32, .ob8] : List Fmt)) →
      ∃ w : State, exec (.msta c h tile ra (some (hw, rn)) o) s =
        .next (raiseFault w s.focus { cause := .handleInvalid, etval := hw.setWidth 64, src := .matrix, fpc := y.pc, epc := y.advance.pc }) ∧
        w.mem = s.mem ∧ w.tags = s.tags)

/-! Copy instructions (chapter 17). -/

/-- R395, R397, R399, R405 to R408: CPY, CPY.X, CPYT and CMCAST whose operands pass their checks take the channel's next number for a transfer
between the places captured, and write its ID; CPYT waits in the buffer until a time ahead, and one 2^32 or more ahead raises ILLEGAL_OP with it;
.X between sides that are not near and far raises ILLEGAL_OP. -/
def Obligations.CopyIssueResults : Prop :=
  ∀ (c : Ctl) (rd hd hs rp rn : BitVec 6) (ch : BitVec 2) (far nc : Bool) (s : State) (t : Nat) (x : Task) (i j : Nat) (ed es : HEntry),
    let y := s.ctx s.focus
    let core := coreOf s.focus
    let place := (y.s rp).toNat
    let (dOff, sOff) := (place / 2 ^ 32, place % 2 ^ 32)
    let bytes := (y.s rn).toNat
    let src := capturePlace core j es
    let base := fun (kind : CopyKind) => { transferOf y t kind with dests := [capturePlace core i ed], src := src, dOff := dOff, sOff := sOff,
                                                                    bytes := bytes, noCredit := nc }
    let fits := RangesFit ed es dOff sOff bytes ∧ ¬ Overlaps i j dOff sOff bytes
    let near := fun (e : HEntry) => e.level = 1 ∨ e.level = 2
    let pair := (near ed ∧ (es.level = 3 ∨ es.level = 4)) ∨ (near es ∧ (ed.level = 3 ∨ ed.level = 4))
    let at_ := (y.s rd).toNat
    let kind := if far then CopyKind.layer else CopyKind.copy
    let i1 := Instr.cpy c rd hd hs rp rn ch nc
    let i2 := Instr.cpyX c rd hd hs rp rn ch nc
    let i3 := Instr.cpyt c rd hd hs rp rn ch far nc
    let i4 := Instr.cmcast c rd hd hs rp rn ch nc
    HandleAt s s.focus hs t x j es →
    (HandleAt s s.focus hd t x i ed → fits → CopyIssues i1 ch.toNat s →
      ∃ w, exec i1 s = .next w ∧ Took s w ch.toNat rd (base .copy) y ∧ w.creds = s.creds) ∧
    (HandleAt s s.focus hd t x i ed → fits → CopyIssues i2 ch.toNat s →
      (pair → ∃ w, exec i2 s = .next w ∧ Took s w ch.toNat rd (base .layer) y ∧ w.creds = s.creds) ∧
      (¬ pair → exec i2 s = Faulted s .illegalOp y.ir)) ∧
    (HandleAt s s.focus hd t x i ed → fits → (far = true → pair) → CopyIssues i3 ch.toNat s → buffered s core < 64 →
      (s.now + 2 ^ 32 ≤ at_ → exec i3 s = Faulted s .illegalOp (y.s rd)) ∧
      (at_ < s.now + 2 ^ 32 → ∃ w, exec i3 s = .next w ∧ w.creds = s.creds ∧
        Took s w ch.toNat rd { base kind with timed := if s.now < at_ then some at_ else none } y)) ∧
    (CopyIssues i4 ch.toNat s →
      let mask := bytes / 2 ^ 32
      let ranks := (List.range 32).filter fun r => mask.testBit r
      let n := bytes % 2 ^ 32
      (x.cord = false → exec i4 s = Faulted s .illegalOp y.ir) ∧
      (x.cord = true → mask = 0 ∨ 2 ^ (x.cszm1 + 1) ≤ mask → exec i4 s = Faulted s .illegalOp (y.s rn)) ∧
      (x.cord = true → mask ≠ 0 → mask < 2 ^ (x.cszm1 + 1) → ∀ m : Nat → Nat × Task,
        (∀ r ∈ ranks, (cordMembers s x).find? (fun z => z.2.rank = r) = some (m r) ∧
          let ix := 64 * (m r).2.win + hd.toNat
          let e := s.entry (m r).2.core ix
          e.valid = true ∧ RangesFit e es dOff sOff n ∧ ((m r).2.core = core → ¬ Overlaps ix j dOff sOff n)) →
        ∃ w, exec i4 s = .next w ∧ w.creds = s.creds ∧ Took s w ch.toNat rd { transferOf y t .cmcast with
          dests := ranks.map fun r => let ix := 64 * (m r).2.win + hd.toNat
                                      capturePlace (m r).2.core ix (s.entry (m r).2.core ix)
          src := src, dOff := dOff, sOff := sOff, bytes := n, noCredit := nc } y))

/-- R397, R409 to R413, R415, R416: GATH and SCAT take a transfer of the active lanes' elements and addresses, GATH's duplicate mask going to vpd; CRED takes one and joins its group's instance, or, that
instance having failed or disagreeing with it, fails with QUEUE_ERROR; CWAIT waits for the watermark, an ID that was not issued raising ILLEGAL_OP; CSTAT
reads the status word; both raise PIPE_NOT_OWNED for a channel that the partition does not own. -/
def Obligations.LaneAndCollectiveCopyResults : Prop :=
  ∀ (c : Ctl) (rd hd hs ra rn : BitVec 6) (vi : BitVec 5) (vp : BitVec 4) (kk : BitVec 8) (ch op : BitVec 2) (root nc : Bool) (s : State)
    (t : Nat) (x : Task) (i j : Nat) (ed es : HEntry) (g : Nat → Fmt),
    let y := s.ctx s.focus
    let core := coreOf s.focus
    let ls := (List.range 1024).filter fun l => decide (l % 64 < y.vl.toNat) && (y.vp vp).getLsbD l
    let addr := copyLane y ra vi ed g
    let dup := fun (l : Nat) => ls.any fun l' => decide (l' < l) && addr l' = addr l
    let i1 := Instr.gath c rd hd ra vi vp kk ch nc
    let i2 := Instr.scat c rd hd ra vi vp kk ch
    let a := y.s ra
    let q := (BitVec.extractLsb' 62 2 a).toNat
    let n := (BitVec.extractLsb' 0 62 a).toNat
    let cq := s.chan core q
    (HandleAt s s.focus hd t x i ed → lanesPending y vi vp = false → ls ≠ [] → LanesFit y ra vi ed g kk.toNat ls →
      (CopyIssues i1 ch.toNat s → ∃ (w : State) (z : Ctx), exec i1 s = .next w ∧ { z with vps := y.vps } = y ∧
        (∀ (p : BitVec 4) (l : Nat), l < 1024 → (z.vp p).getLsbD l = if p = vp then ls.contains l && dup l else (y.vp p).getLsbD l) ∧
        w.creds = s.creds ∧ Took s w ch.toNat rd { transferOf y t .gath with
          dests := [capturePlace core i ed], bytes := widthOf ed.fmt / 8, noCredit := nc
          lanes := ls.map fun l => (64 * kk.toNat + l, addr l) } z) ∧
      (CopyIssues i2 ch.toNat s → ∃ w, exec i2 s = .next w ∧ w.creds = s.creds ∧ Took s w ch.toNat rd { transferOf y t .scat with
          src := capturePlace core i ed, noCredit := true
          lanes := ls.map fun l => (64 * kk.toNat + l, addr l) } y)) ∧
    (let i3 := Instr.cred c rd hd hs ra rn op root nc
     let cn := (BitVec.extractLsb' 16 2 a).toNat
     let part : Participant := { task := t, rank := (BitVec.extractLsb' 24 12 a).toNat, core := core, chan := cn, num := (s.chan core cn).next,
                                 word := a, bytes := (y.s rn).toNat, op := op.toNat, root := root }
     let group := (BitVec.extractLsb' 48 16 a).toNat
     HandleAt s s.focus hd t x i ed → HandleAt s s.focus hs t x j es → i ≠ j → RangesFit ed es 0 0 (y.s rn).toNat → groupWordOk a = true →
     op ≠ 3 → (credFmt ed.fmt).isSome → widthOf es.fmt = widthOf ed.fmt → CopyIssues i3 cn s →
     let num := (s.chan core cn).next
     ((∀ v, s.creds.find? (joins t y.vd group) = some v → v.failed = false ∧ ∀ u ∈ v.parts, u.agrees part = true) →
       ∃ w, exec i3 s = .next w ∧ Took s w cn rd { transferOf y t .cred with
            dests := [capturePlace core i ed], src := capturePlace core j es, bytes := (y.s rn).toNat, noCredit := nc } y ∧
         ((∀ v ∈ s.creds, joins t y.vd group v = false) →
           w.creds = s.creds ++ [{ vd := y.vd, group := group, parts := [part], since := s.now }]) ∧
         ∀ as v bs, s.creds = as ++ v :: bs → (∀ u ∈ as, joins t y.vd group u = false) → joins t y.vd group v = true →
           w.creds = as ++ { v with parts := v.parts ++ [part] } :: bs) ∧
     (∀ v, s.creds.find? (joins t y.vd group) = some v → (v.failed = true ∨ ∃ u ∈ v.parts, u.agrees part = false) →
       (∀ z ∈ (s.chan core cn).transfers, z.num ≠ num) → ∃ (w : State) (z : Transfer), exec i3 s = .next w ∧
         w.ctx s.focus = (y.setS rd (copyId cn num)).advance ∧ w.transfer core cn num = some z ∧ z.state = .failed ∧
         z.cause = Cause.queueError.code)) ∧
    (channelOwned s s.focus q = false → y.mode ≠ .m → (Issues (.cwait c ra) s → exec (.cwait c ra) s = Faulted s .pipeNotOwned y.ir) ∧
      (Issues (.cstat c rd ra) s → exec (.cstat c rd ra) s = Faulted s .pipeNotOwned y.ir)) ∧
    (Issues (.cwait c ra) s → y.mode ≠ .m → channelOwned s s.focus q = true → exec (.cwait c ra) s =
      (if n = 0 ∨ cq.next ≤ n then Faulted s .illegalOp a else if n < cq.done then Passed s.focus s else WaitsHere s)) ∧
    (Issues (.cstat c rd ra) s → channelOwned s s.focus q = true → exec (.cstat c rd ra) s = Done s fun z => z.setS rd
      (if cq.next < n + 256 then match cq.find n with
        | some v => BitVec.ofNat 64 ((match v.state with | .pending => 0 | .retired => 1 | .failed => 2) * 2 ^ 62 + v.cause.toNat * 2 ^ 48 +
            v.credited % 2 ^ 40)
        | none => 0xC000000000000000
       else 0xC000000000000000))

/-! System instructions (chapter 18). -/

/-- R254, R255, R421, R428, R430: CSRR reads and CSRW writes the CSRs of Table 10.2, in S mode those of the faulting stream where R421 names it;
vstat and vdirty wait for the queues; a value outside a CSR's limits raises ILLEGAL_OP; CSRW of epc cancels a pending transfer; CSRR.X, CSRW.X and CSRR.F
reach the faulting stream's registers and the fault record. -/
def Obligations.SystemRegisterResults : Prop :=
  ∀ (c : Ctl) (rd ra r : BitVec 6) (csr : BitVec 20) (s : State),
    let k := s.focus
    let y := s.ctx k
    let core := s.core (coreOf k)
    let n := csr.toNat
    let v := y.s ra
    let faulting := decide (n < 0x10) || [0x11, 0x12, 0x15, 0x16, 0x18, 0x19, 0x1A, 0x1B].contains n
    let j := if y.mode = .s ∧ faulting then (match core.serving with | some w => w.ctx | none => k) else k
    let z := s.ctx j
    let ofTask := fun (f : Task → Nat) => match z.task.bind s.task with | some x => BitVec.ofNat 64 (f x) | none => 0
    let settled := (n = 2 ∨ n = 3) → y.mode = .s ∨ (y.vq = [] ∧ ∀ x, y.task.bind s.task = some x → x.xctx = some k → x.mq = [])
    let done := fun (ch : Nat) => BitVec.ofNat 64 (s.chan (coreOf k) ch).done
    let reads : List (Nat × Word) := [(0x000, z.vl), (0x001, z.vstart), (0x002, z.vdirty), (0x003, z.vstat), (0x004, z.mshape), (0x005, z.fpmode),
      (0x008, z.smpc), (0x009, z.smprev), (0x00A, z.smcnt), (0x010, BitVec.ofNat 64 s.now), (0x011, ofTask fun x => x.index % 2 ^ 24),
      (0x012, ofTask fun x => x.lid % 2 ^ 32), (0x013, BitVec.ofNat 64 (coreOf k)), (0x014, BitVec.ofNat 64 (coreOf k / 24)),
      (0x015, ofTask fun x => 64 * x.win), (0x016, ofTask fun x => x.ebud), (0x018, done 0), (0x019, done 1), (0x01A, done 2), (0x01B, done 3),
      (0x100, y.cause), (0x101, y.epc), (0x102, y.etval)]
    let writes : List (Nat × Bool × (Ctx → Ctx)) := [(0x000, decide (1 ≤ v.toNat ∧ v.toNat ≤ 64), fun x => { x with vl := v }),
      (0x001, decide (v.toNat ≤ 1023), fun x => { x with vstart := v }), (0x002, true, fun x => { x with vdirty := v &&& 0xFFFFFFFF }),
      (0x003, true, fun x => { x with vstat := v &&& 0x3F }), (0x004, true, fun x => { x with mshape := v &&& 0x3F7F007F }),
      (0x005, decide ((v.toNat / 2 ^ 5) % 2 ^ 3 ≤ 4), fun x => { x with fpmode := v &&& 0x1FF }), (0x008, true, fun x => { x with smpc := v }),
      (0x009, true, fun x => { x with smprev := v }), (0x00A, true, fun x => { x with smcnt := v &&& 1 }),
      (0x100, true, fun x => { x with cause := v &&& 0x7FF }), (0x101, decide (v.toNat % 8 = 0), fun x => { x with epc := v }),
      (0x102, true, fun x => { x with etval := v })]
    let cancels := fun (m : Nat) => n = 0x101 ∧ ∃ w, core.serving = some w ∧ w.ctx = m ∧ w.queueHeld = false
    y.mode ≠ .m →
    (Issues (.csrr c rd csr) s →
      (settled → ∀ p ∈ reads, n = p.1 → exec (.csrr c rd csr) s = Done s fun x => x.setS rd p.2) ∧
      (¬ settled → exec (.csrr c rd csr) s = WaitsHere s)) ∧
    (Issues (.csrw c csr ra) s →
      if ¬ settled then exec (.csrw c csr ra) s = WaitsHere s
      else ∀ p ∈ writes, n = p.1 →
        (p.2.1 = false → exec (.csrw c csr ra) s = Faulted s .illegalOp y.ir) ∧
        (p.2.1 = true → ∃ w : State, exec (.csrw c csr ra) s = .next w ∧ { w with ctxs := s.ctxs } = s ∧
          ∀ m, let a := if m = j then p.2.2 (s.ctx m) else s.ctx m
               (cancels m → w.ctx m = let b := { a with pend := none }
                                      if m = k then b.advance else b) ∧
               (¬ cancels m → w.ctx m = if m = k then a.advance else a))) ∧
    (∀ w, core.serving = some w → w.ctx ≠ k →
      (Issues (.csrrX c rd r) s → exec (.csrrX c rd r) s = Done s fun x => x.setS rd ((s.ctx w.ctx).s r)) ∧
      (Issues (.csrwX c r ra) s → exec (.csrwX c r ra) s = Passed k (s.modCtx w.ctx fun x => x.setS r v)) ∧
      (Issues (.csrrF c rd csr) s → exec (.csrrF c rd csr) s =
        if 2 < n then Faulted s .illegalOp y.ir
        else Done s fun x => x.setS rd (if n = 0 then y.fpc
          else if n = 1 then BitVec.ofNat 64 (y.frSrc.code + (if (s.ctx w.ctx).pend.isSome then 2 ^ 8 else 0) +
            (if y.frHeld then 2 ^ 9 else 0) + (if y.frConv then 2 ^ 10 else 0))
          else y.hcyc)))

/-- R420, R422, R424, R426, R427, R431, R432: TRAP and TRAP.BRK raise their faults with the immediate; a fault that waits is delivered to the idle shadow
context in S mode from TVEC, and is a double fault while TVEC.EN is 0; ERET ends the service and the stream resumes as R424 and R427 say;
ERET.DISCARD ends the task, which may have its record still to write. -/
def Obligations.TrapAndReturnResults : Prop :=
  ∀ (c : Ctl) (imm : BitVec 20) (s : State),
    let k := s.focus
    let y := s.ctx k
    let core := coreOf k
    let raised := fun (o : Host.Outcome State Fault Refusal) (cause : Cause) (epc : Word) =>
      FaultWaits s o k { cause := cause, etval := imm.setWidth 64, fpc := y.pc, epc := epc } y
    (Issues (.trap c imm) s → y.mode ≠ .m → raised (exec (.trap c imm) s) .trapInstr (y.pc + 8)) ∧
    (Issues (.trapBrk c imm) s → y.mode ≠ .m → raised (exec (.trapBrk c imm) s) .breakpoint y.pc) ∧
    (∀ n w, let sh := shadowOf n
      (∀ v ∈ (s.core n).faults, v.ctx ≠ sh) → (s.core n).serving = none → nextFault s (s.core n).faults = some w →
      let f := s.ctx w.ctx
      let vd := s.vd f.vd
      let rest := (s.core n).faults.filter fun v => v ≠ w
      w.ctx ≠ sh →
      (bit vd.tvec 0 = true → ∃ t : State, exec (.faultDelivery n) s = .next t ∧ { t with ctxs := s.ctxs, cores := s.cores } = s ∧
        (∀ j, j ≠ n → t.core j = s.core j) ∧ t.core n = { s.core n with faults := rest, serving := some w } ∧
        (∀ j, j ≠ sh → j ≠ w.ctx → t.ctx j = s.ctx j) ∧
        t.ctx w.ctx = (if w.info.src = .vector ∧ w.info.held = false then { f with vstart := BitVec.ofNat 64 w.info.elem } else f) ∧
        (t.ctx sh).mode = .s ∧ (t.ctx sh).live = true ∧ (t.ctx sh).vd = f.vd ∧ (t.ctx sh).asn = f.asn ∧
        (t.ctx sh).pc = vd.tvec &&& 0x00FFFFFFFFFFFFF8 ∧ (∀ r, (t.ctx sh).s r = if r = 1 then vd.tscr else 0) ∧
        (∀ p, (t.ctx sh).p p = decide (p = 0)) ∧ (∀ b, (t.ctx sh).b b = 0) ∧ (t.ctx sh).fpmode = 0 ∧
        (t.ctx sh).epc = w.info.epc ∧ (t.ctx sh).etval = w.info.etval ∧ (t.ctx sh).fpc = w.info.fpc ∧
        (t.ctx sh).cause = BitVec.ofNat 64 (w.info.cause.code.toNat + (if w.info.src = .vector ∧ w.info.held = false then 256 else 0) +
          512 * (stkOf w.ctx % 4)) ∧ (t.ctx sh).frSrc = w.info.src ∧ (t.ctx sh).frHeld = w.info.held) ∧
      (bit vd.tvec 0 = false → exec (.faultDelivery n) s = .next (doubleFault (s.modCore n fun x => { x with faults := rest }) w))) ∧
    (∀ w, (s.core core).serving = some w → k = shadowOf core → w.ctx ≠ k →
      let f := s.ctx w.ctx
      let goesOn := w.info.held && !w.conv
      (Issues (.eret c) s → ∃ t : State, exec (.eret c) s = .next t ∧ { t with ctxs := s.ctxs, cores := s.cores, tasks := s.tasks } = s ∧
        (∀ j, j ≠ core → t.core j = s.core j) ∧ t.core core = { s.core core with serving := none } ∧ t.ctx k = {} ∧
        (∀ j, j ≠ k → j ≠ w.ctx → t.ctx j = s.ctx j) ∧
        (∀ j, t.task j = if f.task = some j ∧ goesOn = false
          then (s.task j).map fun x => if x.xctx = some w.ctx ∧ x.status = .running
            then { x with reason := .none, waitObj := 0, waitUntil := none, monitor := none } else x
          else s.task j) ∧
        (let pc := if w.queueHeld then f.pc else y.epc
         let again := (s.core core).faults.any fun v => v.ctx == w.ctx
         { t.ctx w.ctx with vq := f.vq, hold := f.hold } = { f with
            pc := pc, convoy := none, bound := none, faulted := again, progress := if pc = f.pc then f.progress else none,
            waitSince := if goesOn then f.waitSince else none }) ∧
        (f.hold = none → (t.ctx w.ctx).hold = none) ∧
        (∀ e q, f.vq = .entry e :: q → (t.ctx w.ctx).vq = if w.info.src = .vector ∧ (w.info.held = false ∨ w.conv = true)
          then .entry { e with vstart := f.vstart.toNat } :: q else f.vq) ∧
        (∀ h, f.hold = some h → ∃ m, s.now - h.since ≤ 24 * m ∧ 24 * m < s.now - h.since + 24 ∧
          (t.ctx w.ctx).hold = if goesOn then some { h with due := some (h.since + 24 * m) } else none)) ∧
      (Issues (.eretDiscard c) s → ∀ n x, f.task = some n → s.task n = some x → ∃ t : State, exec (.eretDiscard c) s = .next t ∧
        (∀ z, t.task n = some z → z.status = .discarded ∧ z.crDue = true ∧ z.xctx = none ∧ z.actx = none) ∧ t.ctx k = {} ∧ (t.core core).serving = none))

/-- R433 to R438: SPAWN adds tasks to its node from the next unused index; GSIG lowers a node's count; TLBI drops the named translations from every TLB,
once no job of the VD works by one; SNAP fires the snapshot trigger where it is enabled; EBUD reads, draws on and returns to the account; KEYLD, of a
good line of HBM, puts a new key in slot 0 unless the VD is in use. -/
def Obligations.GraphEnergyAndKeyResults : Prop :=
  ∀ (c : Ctl) (rd ra rb : BitVec 6) (tag : BitVec 8) (s : State) (t : Nat) (x : Task) (l : Launch) (n m : Node),
    let k := s.focus
    let y := s.ctx k
    let a := y.s ra
    let b := y.s rb
    let an := a.toNat
    let bn := b.toNat
    let vd := s.vd y.vd
    let node := (y.task = some t ∧ s.task t = some x) ∧ s.launch x.launch = some l ∧ l.nodes[x.node]? = some n
    let without := fun (w : State) (p : TlbEntry → Bool) => { w with cores := s.cores, kilns := s.kilns } = s ∧
      (∀ j, w.core j = { s.core j with tlb := (s.core j).tlb.filter fun e => !p e }) ∧
      ∀ j, w.kiln j = { s.kiln j with tlb := (s.kiln j).tlb.filter fun e => !p e }
    let limited := fun (i : Instr) (limit of_ : Nat) => Issues i s →
      (limit < bn → (y.mode ≠ .m → exec i s = Faulted s .illegalOp b) ∧ (y.mode = .m → exec i s = .fault .firmwareTrap)) ∧
      (bn ≤ limit → linesUnderWay s of_ = true → exec i s = WaitsHere s)
    let covers := fun (e : TlbEntry) => decide (e.s2base ≤ an ∧ an < e.s2base + e.s2size)
    let g := s.pkg.snapshot
    -- SPAWN
    (Issues (.spawn c rd ra rb) s → node → an < 2 ^ 24 → (n.csize = 0 ∨ an % n.csize = 0) → n.bar ≠ 2 → n.bar ≠ 3 → n.next + an ≤ 2 ^ 24 →
      exec (.spawn c rd ra rb) s = Passed k ((setNode s x.launch x.node { n with
        next := n.next + an, unfinished := n.unfinished + an, runs := n.runs ++ divide s l.vd n n.next an b }).modCtx k fun z =>
          z.setS rd (BitVec.ofNat 64 n.next))) ∧
    (Issues (.spawn c rd ra rb) s → node → an < 2 ^ 24 → (n.csize = 0 ∨ an % n.csize = 0) → n.bar ≠ 2 → n.bar ≠ 3 → 2 ^ 24 < n.next + an →
      exec (.spawn c rd ra rb) s = Done s fun z => z.setS rd 0x8000000000000000) ∧
    (Issues (.spawn c rd ra rb) s → node → y.mode ≠ .m → (2 ^ 24 ≤ an ∨ (0 < n.csize ∧ an % n.csize ≠ 0) ∨ n.bar = 2 ∨ n.bar = 3) →
      exec (.spawn c rd ra rb) s = Faulted s .illegalOp a) ∧
    -- GSIG
    (Issues (.gsig c ra) s → node → l.nodes[an]? = some m → ∃ (w : State) (l' : Launch), exec (.gsig c ra) s = Passed k w ∧
      { w with launches := s.launches } = s ∧ (∀ j, j ≠ x.launch → w.launch j = s.launch j) ∧ w.launch x.launch = some l' ∧
      (m.deps = 0 → l' = { l with gu := true }) ∧
      (2 ≤ m.deps → l' = { l with nodes := l.nodes.set an { m with deps := m.deps - 1 } }) ∧
      (m.deps = 1 → 0 < m.count → ∃ rs,
        let m' := { m with deps := 0, ready := true, runs := rs, unfinished := m.count, next := m.count, complete := false }
        l' = { l with nodes := l.nodes.set an m' })) ∧
    (Issues (.gsig c ra) s → node → y.mode ≠ .m → l.nodes.length ≤ an → exec (.gsig c ra) s = Faulted s .illegalOp a) ∧
    -- TLBI
    (Issues (.tlbiVa c ra rb) s → bn ≤ 255 → linesUnderWay s y.vd = false → ∃ w : State, exec (.tlbiVa c ra rb) s = Passed k w ∧
      without w fun e => decide (e.vd = y.vd ∧ (e.asn = none ∨ e.asn = some bn) ∧ e.base ≤ an ∧ an < e.base + e.size)) ∧
    (Issues (.tlbiAsn c ra rb) s → bn ≤ 255 → linesUnderWay s y.vd = false → ∃ w : State, exec (.tlbiAsn c ra rb) s = Passed k w ∧
      without w fun e => decide (e.vd = y.vd ∧ e.asn = some bn)) ∧
    (Issues (.tlbiVd c) s → linesUnderWay s y.vd = false → ∃ w : State, exec (.tlbiVd c) s = Passed k w ∧
      without w fun e => decide (e.vd = y.vd)) ∧
    (Issues (.tlbiGpa c ra rb) s → bn ≤ 63 → linesUnderWay s bn = false → ∃ w : State,
      exec (.tlbiGpa c ra rb) s = Passed k (if inAperture an then readAperture w bn else w) ∧
      without w fun e => decide (e.vd = bn) && covers e) ∧
    (Issues (.tlbiS2 c ra rb) s → bn ≤ 63 → linesUnderWay s bn = false → ∃ w : State,
      exec (.tlbiS2 c ra rb) s = Passed k (readAperture w bn) ∧ without w fun e => decide (e.vd = bn)) ∧
    limited (.tlbiVa c ra rb) 255 y.vd ∧ limited (.tlbiAsn c ra rb) 255 y.vd ∧ limited (.tlbiGpa c ra rb) 63 bn ∧ limited (.tlbiS2 c ra rb) 63 bn ∧
    (Issues (.tlbiVd c) s → linesUnderWay s y.vd = true → exec (.tlbiVd c) s = WaitsHere s) ∧
    -- SNAP
    (Issues (.snap c tag) s → bit vd.dbgcfg 1 = false → exec (.snap c tag) s = Passed k s) ∧
    (Issues (.snap c tag) s → bit vd.dbgcfg 1 = true → exec (.snap c tag) s = Passed k { s with pkg := { s.pkg with snapshot :=
      if g.record = none ∧ g.armed = none then { g with armed := some (0, tag.toNat, s.now + 64) }
      else { g with missed := min 255 (g.missed + 1) } } }) ∧
    -- EBUD
    (Issues (.ebudQ c rd) s → exec (.ebudQ c rd) s = Done s fun z => z.setS rd (BitVec.ofNat 64 (min vd.rem.toNat (2 ^ 63 - 1)))) ∧
    (Issues (.ebudR c rd ra) s → y.task = some t → s.task t = some x → y.vd = x.vd → an < 2 ^ 32 → (an : Int) ≤ vd.rem →
      exec (.ebudR c rd ra) s = Passed k (((s.setVd y.vd { vd with rem := vd.rem - an }).setTask t (some { x with ebud := x.ebud + an })).modCtx k
        fun z => z.setS rd 0)) ∧
    (Issues (.ebudR c rd ra) s → y.task = some t → s.task t = some x → y.vd = x.vd → an < 2 ^ 32 → vd.rem < an →
      exec (.ebudR c rd ra) s = Done s fun z => z.setS rd 1) ∧
    (Issues (.ebudF c rd ra) s → y.task = some t → s.task t = some x → y.vd = x.vd → an < 2 ^ 32 →
      exec (.ebudF c rd ra) s = Passed k (((s.setVd y.vd { vd with rem := vd.rem + (min an x.ebud : Nat) }).setTask t
        (some { x with ebud := x.ebud - min an x.ebud })).modCtx k fun z => z.setS rd (BitVec.ofNat 64 (min an x.ebud)))) ∧
    (y.task = some t → s.task t = some x → y.mode ≠ .m → 2 ^ 32 ≤ an →
      (Issues (.ebudR c rd ra) s → exec (.ebudR c rd ra) s = Faulted s .illegalOp a) ∧
      (Issues (.ebudF c rd ra) s → exec (.ebudF c rd ra) s = Faulted s .illegalOp a)) ∧
    -- KEYLD
    (Issues (.keyld c rd ra rb) s → y.mode = .m → an % 32 = 0 → bn ≤ 64 → keyInUse s bn = false → s.coh.layer = [] →
      GoodLine s (slotKey s 64 0) (normalise s an / 128) → exec (.keyld c rd ra rb) s =
        Passed k ((s.modVd bn fun u => { u with keyGen := u.keyGen + 1 }).modCtx k fun z => z.setS rd 0)) ∧
    (Issues (.keyld c rd ra rb) s → an % 32 = 0 → bn ≤ 64 → keyInUse s bn = true →
      exec (.keyld c rd ra rb) s = Done s fun z => z.setS rd 1)

/-! What the machine does between instructions: holds and faults (chapters 2, 6, 18). -/

/-- R49, R53, R69, R425 to R427: the walk of a held access, one that has a slot and no other miss sharing it, ends in its translation, a held fault, a precise one, a page
request that is in the queue or waits for it, or a wait on a table's line; the clocks restart at a multiple of 24 held cycles; a wait on a line switch of 4,096
cycles becomes a held fault; a hold of 65,536 cycles converts into a precise fault (one whose walk has met no cause yet with TRANSLATION, the model's choice: log entry
48), or marks the fault whose handler runs. -/
def Obligations.HoldEventResults : Prop :=
  ∀ (s : State) (k : Nat) (h : Hold),
    let c := s.ctx k
    let core := coreOf k
    c.hold = some h →
    (c.mode ≠ .m → h.kind = .walk → h.due = none → hasWalkSlot s (kilnOf core) (c.vd, c.asn, h.va.toNat / 4096) = true →
      (misses s (kilnOf core)).filter (fun m => m.2.2 = (c.vd, c.asn, h.va.toNat / 4096)) = [(k, h, c.vd, c.asn, h.va.toNat / 4096)] →
      ∃ w : State, exec (.walkComplete k) s = .next w ∧
        match walkFill s core c.vd c.asn h.va.toNat (some c.mode) h.access with
        | (.ok _, v) => ∃ g, Ends h v.now g ∧ w = v.modCtx k fun z => { z with hold := g }
        | (.error (.fault e true), v) => FaultWaits v (.next w) k (HeldOf v k h e) { v.ctx k with hold := some { h with kind := .handler } }
        | (.error (.fault e false), v) => FaultWaits v (.next w) k (PreciseOf v k h e) { v.ctx k with hold := none }
        | (.error (.request n page _), v) => (w.ctx k).hold = some (h.next v (.request n page)) ∧
            ((∃ i q, SMap.get none w.pkg.prq i = some q ∧ q.vd = c.vd ∧ q.kind = n ∧ q.page = page) ∨
              ∃ q ∈ w.pkg.prqWait, q.vd = c.vd ∧ q.kind = n ∧ q.page = page)
        | (.error (.wait u), v) => w = v.modCtx k fun z => { z with hold := some (h.next v u) }) ∧
    (let walk := (c.vd, c.asn, h.va.toNat / 4096)
     c.mode ≠ .m → h.kind = .walk → h.due = none → hasWalkSlot s (kilnOf core) walk = false → exec (.walkComplete k) s = .next s) ∧
    ((∀ d, h.due = some d → d ≤ s.now → OnlyStream s (exec (.holdRestart k) s) k { c with hold := none }) ∧
     (∀ d, h.due = some d → s.now < d → exec (.holdRestart k) s = .next s) ∧
     (∀ l, h.due = none → h.kind = .recode l → if tagVc (homeTag s l) = vcRecode then exec (.holdRestart k) s = .next s
        else ∃ g, Ends h s.now g ∧ OnlyStream s (exec (.holdRestart k) s) k { c with hold := g }) ∧
     (∀ l key, h.due = none → h.kind = .foreign l key → if keyCheck s key l = .covered then exec (.holdRestart k) s = .next s
        else ∃ g, Ends h s.now g ∧ OnlyStream s (exec (.holdRestart k) s) k { c with hold := g })) ∧
    (∀ l key, h.due = none →
      (s.now < h.began + 4096 → exec (.recodeWaitTimeout k) s = .next s) ∧
      (h.began + 4096 ≤ s.now → h.kind = .recode l → FaultWaits s (exec (.recodeWaitTimeout k) s) k (HeldOf s k h .recodeTimeout)
        { c with hold := some { h with kind := .handler } }) ∧
      (h.began + 4096 ≤ s.now → h.kind = .foreign l key → FaultWaits s (exec (.recodeWaitTimeout k) s) k (HeldOf s k h .foreignLine)
        { c with hold := some { h with kind := .handler } })) ∧
    (∀ l key n page, h.due = none → c.stopped = false →
      let converts := fun (cause : Cause) => FaultWaits s (exec (.holdConvert k) s) k (PreciseOf s k h cause) { c with hold := none }
      (s.now < h.since + 65536 → exec (.holdConvert k) s = .next s) ∧
      (h.since + 65536 ≤ s.now →
        (h.kind = .walk → converts .translation) ∧
        (h.kind = .recode l → converts .recodeTimeout) ∧ (h.kind = .foreign l key → converts .foreignLine) ∧
        (h.kind = .request n page → converts (if n = 2 then .translation else .stage2)) ∧
        (h.kind = .handler → h.src ≠ .beat → k ≠ shadowOf core → ∀ v, (s.core core).serving = some v → v.ctx = k → v.info.held = true →
          ∃ w : State, exec (.holdConvert k) s = .next w ∧ (w.ctx k).hold = none ∧ (w.ctx (shadowOf core)).frConv = true ∧
            (w.ctx k).vstart = (if h.src = .vector then BitVec.ofNat 64 h.elem else c.vstart) ∧
            (w.core core).serving = some { v with conv := true })))

/-- R53, R55, R149, R165: an answered page request lets its waiting accesses walk again, a refused one gives them their precise fault, and its entry is
free; a requester's wait for tenure ends at the bound; a cell whose leases are over and that nobody asks for is idle. -/
def Obligations.RequestAndTenureEventResults : Prop :=
  ∀ (s : State) (entry : Nat) (q : Prq) (k : Nat) (h : Hold) (r : TenReq) (cell key : Nat) (id : TensorId),
    let c := s.ctx k
    let waits := SMap.get none s.pkg.prq entry = some q ∧ s.pkg.prqWait = [] ∧ c.hold = some h ∧ c.vd = q.vd ∧
      h.kind = .request q.kind q.page ∧ h.due = none
    let walksAgain := fun (i : Instr) => ∃ w : State, exec i s = .next w ∧ SMap.get none w.pkg.prq entry = none ∧
      w.ctx k = { c with hold := some { h with kind := .walk, began := s.now } } ∧ w.mem = s.mem ∧ w.tags = s.tags
    let refused := fun (i : Instr) (cause : Cause) => ∃ w : State, exec i s = .next w ∧ SMap.get none w.pkg.prq entry = none ∧
      w.ctx k = FaultStops { c with hold := none } h.src false ∧ w.mem = s.mem ∧ w.tags = s.tags ∧
      ∃ v ∈ (w.core (coreOf k)).faults, v.ctx = k ∧ v.info.cause = cause ∧ v.info.etval = h.va ∧ v.info.held = false
    let cells := s.dir id
    (waits → q.kind ≠ 2 → walksAgain (.s2respSuccess entry) ∧ refused (.s2respFail entry) .stage2) ∧
    (waits → q.kind = 2 → walksAgain (.prgResponse entry true) ∧ refused (.prgResponse entry false) .translation) ∧
    (s.coh.dirs.findSome? (fun d => d.queue.find? fun x => x.who = r.who && !x.timedOut && decide (x.since + 2 ^ 20 ≤ s.now)) = some r →
      r.who < 1000 → ∃ w : State, exec (.tenureWaitTimeout r.who) s = .next w ∧ w.mem = s.mem ∧ w.tags = s.tags ∧
        w.coh.dirs.map (fun d => (d.id, d.cells)) = s.coh.dirs.map (fun d => (d.id, d.cells)) ∧
        w.coh.dirs.map (fun d => d.queue.map fun x => { x with timedOut := false }) =
          s.coh.dirs.map (fun d => d.queue.map fun x => { x with timedOut := false }) ∧
        (∀ d ∈ w.coh.dirs, ∀ x ∈ d.queue, { x with timedOut := false } = { r with timedOut := false } → x.timedOut = true) ∧
        w.ctx r.who = FaultStops (s.ctx r.who) .stream false ∧ ∃ v ∈ (w.core (coreOf r.who)).faults, v.ctx = r.who ∧
          v.info.cause = .tenureTimeout ∧ v.info.etval = r.etval ∧ v.info.epc = (s.ctx r.who).pc) ∧
    ((s.coh.dirs.flatMap fun d => d.cells.map fun x => (d.id, x.1))[cell]? = some (id, key) →
      (cells.queue.any fun x => x.cells.contains key) = false →
      let l := cells.cell key
      ((l.state = .read ∨ l.state = .drain) → l.expiry ≤ s.now →
        ∃ w : State, exec (.leaseExpiry cell) s = .next w ∧ { w with coh := { w.coh with dirs := s.coh.dirs } } = s ∧
          (w.dir id).cell key = { l with
            state := .idle, expiry := 0, readers := []
            below := (l.below.map fun x => (x.1, { x.2 with expiry := 0 })).filter fun x => x.2 ≠ {} } ∧ ∀ i, i ≠ id → w.dir i = s.dir i) ∧
      (¬ ((l.state = .read ∨ l.state = .drain) ∧ l.expiry ≤ s.now) → exec (.leaseExpiry cell) s = .next s))

/-! What the queues and engines do by themselves (chapters 4, 15, 16, 17, 19). -/

/-- R456, R208, R375, R376: the arbiter binds at most one convoy a cycle, the first in turn whose cost its deficit covers; a drained convoy gives its
pipes back or keeps those the next needs; the matrix queue's head takes a free engine and is performed; a marker at a queue's head is done. -/
def Obligations.QueueEventResults : Prop :=
  ∀ (s : State) (core k t : Nat) (x : Task) (m : BitVec 3) (e : QEntry) (q : List QItem) (tile : BitVec 2) (c : Ctl) (v : Convoy),
    let cx := fun (j : Nat) => s.ctx (ctxId core j)
    let waiting := fun (j : Nat) => (waitingConvoy s core j).isSome
    let d0 := fun (j : Nat) => if waiting j then vecGet 0 (s.core core).deficit j else 0
    let enough := fun (d : Nat → Nat) (j : Nat) => (candidate s core j).any fun v => decide (v.cost ≤ d j)
    let some_ := (List.range 4).any fun j => (candidate s core j).isSome
    let d := fun (j : Nat) => if some_ && !(List.range 4).any (enough d0) && waiting j then d0 j + 16 * stokerWeight s core j else d0 j
    let turn := (List.range 4).map fun i => ((s.core core).lastBound + 1 + i) % 4
    let ks := (List.range 4).map (ctxId core)
    let go := fun (s : State) (j : Nat) => if (s.ctx j).bound.isSome && !(s.ctx j).drained then runConvoy j 64 true s else s
    let y := s.ctx k
    let p := partOf s k
    ((∀ j < 4, ∀ m e r, (cx j).vq ≠ .mode m e :: r) → ∃ b : State, exec (.vectorArbiterCycle core) s = .next (ks.foldl finishAccess (ks.foldl go b)) ∧
      { b with ctxs := s.ctxs, cores := s.cores } = s ∧ (∀ j, j ≠ core → b.core j = s.core j) ∧
      { b.core core with deficit := (s.core core).deficit, lastBound := (s.core core).lastBound } = s.core core ∧
      match turn.find? (enough d) with
      | none => (∀ j, b.ctx j = s.ctx j) ∧ (∀ j < 4, vecGet 0 (b.core core).deficit j = d j) ∧ (b.core core).lastBound = (s.core core).lastBound
      | some j => ∃ v, candidate s core j = some v ∧ (∀ i, i ≠ ctxId core j → b.ctx i = s.ctx i) ∧
          b.ctx (ctxId core j) = { cx j with bound := some v, drained := false, vq := pipedHead (cx j).vq } ∧ (b.core core).lastBound = j ∧
          ∀ i < 4, vecGet 0 (b.core core).deficit i = if i = j then d j - v.cost else d i) ∧
    (y.bound = some v → y.drained = true → (y.access && y.halted) = false →
      let others := (List.range 4).any fun j => decide (j ≠ stkOf k) && decide (partOf s (ctxId (coreOf k) j) = partOf s (ctxId (coreOf k) (stkOf k))) &&
        (waitingConvoy s (coreOf k) j).isSome
      let next := match headConvoy y.vq with
        | some w => if v.yld = false ∧ others = false ∧ w.mad ≤ v.mad ∧ w.ldp ≤ v.ldp ∧ w.stp ≤ v.stp ∧ w.prm ≤ v.prm ∧ w.sfu ≤ v.sfu then some w else none
        | none => none
      OnlyStream s (exec (.convoyDrain k) s) k { y with bound := next, drained := next.isNone, vq := if next.isSome then pipedHead y.vq else y.vq }) ∧
    (y.vq = .marker k :: q → .marker k ∉ q → (y.access && y.halted) = false → y.task = some t → s.task t = some x → x.mq = [] →
      ∃ w : State, exec (.markerAtHead k) s = .next w ∧ { w with ctxs := s.ctxs } = s ∧ (∀ j, j ≠ k → w.ctx j = s.ctx j) ∧
        { w.ctx k with vq := y.vq, markers := y.markers } = y ∧ (w.ctx k).vq = q ∧
        ∀ a, a ∈ (w.ctx k).markers ↔ a ∈ y.markers ∧ 2 ≤ a.queue ∧ ∃ h : a.queue - 2 < 4,
          ∃ z ∈ ((s.core (coreOf k)).chans[a.queue - 2]).transfers, z.task = t ∧ z.num < a.below ∧ z.state = .pending) ∧
    (s.task t = some x → x.xctx = some k → heldTask s k = false → x.mq = .mode m e :: q →
      ∃ w : State, exec (.matrixEntryComplete t) s = .next w ∧ { w with tasks := s.tasks } = s ∧ w.task t = some { x with mq := q, mqMode := m } ∧
        ∀ j, j ≠ t → w.task j = s.task j) ∧
    (s.task t = some x → x.xctx = some k → heldTask s k = false → queueStopped s k .matrix = false → x.mq = .entry e :: q →
      e.instr = .mzero c tile → e.lost = none → x.savedAcc = [] → crDueOf s k = false →
      let held := (s.core (coreOf k)).holder p
      (∀ u, held = some u → u ≠ t → exec (.matrixHolderAcquire t) s = .next s ∧ exec (.matrixEntryComplete t) s = .next s) ∧
      (held = none ∨ held = some t →
        (∃ w : State, exec (.matrixHolderAcquire t) s = .next w ∧ { w with cores := s.cores } = s ∧ (∀ j, j ≠ coreOf k → w.core j = s.core j) ∧
          (w.core (coreOf k)).holder p = some t ∧ (w.core (coreOf k)).acc = (s.core (coreOf k)).acc) ∧
        (vectorBlocks s k e = false → ∃ w : State, exec (.matrixEntryComplete t) s = .next w ∧ w.task t = some { x with mq := q } ∧
          w.ctxs = s.ctxs ∧ (w.core (coreOf k)).holder p = some t ∧ ∀ r j a b, r < 2 → j < 4 → a < 128 → b < 128 →
            w.acc (coreOf k) r j a b = if r = p ∧ j = tile.toNat then 0 else s.acc (coreOf k) r j a b)))

/-- R394, R400, R401, R407, R413, R117, R118: a beat of CPY between CORE tensors copies its line's data and tag, credits the destination and retires the transfer with
its last line, in its channel's turn, with at most four transfers of a channel in flight and where the two lines' grid cells are no one tensor's; a timed transfer enters its channel when its time has come; a collective begins when every rank has issued, and fails
for all when it stays incomplete for 2^26 cycles; a kiln-store slot serves the request that stands first and completes 48 cycles later. -/
def Obligations.CopyEngineEventResults : Prop :=
  ∀ (s : State) (core ch n beat : Nat) (x : Transfer) (d : Dest) (es ed : HEntry) (src dst f l : Nat) (v : Collective) (as bs : List Collective)
    (j tm : Nat) (r : CalReq) (rs us : List CalReq),
    let credit := if x.noCredit then 0 else 128
    let landed := SMap.set false x.landed (32 * beat) true
    let ready := fun (u : Collective) => !u.started && !u.failed && u.complete
    let slot := fun (u : CalReq) => u.pair = (s.now + core % 24) % 24 ∧ u.departs = none
    let missed := fun (u : CalReq) => decide (u.issued + 24 ≤ s.now)
    let prior := fun (u z : CalReq) => (missed u = true ∧ missed z = false) ∨
      (missed u = missed z ∧ if missed u && decide (u.issued ≠ z.issued) then u.issued < z.issued else u.rank < z.rank)
    (s.transfer core ch n = some x → x.state = .pending → x.timed = none →
      (x.kind = .copy → x.dests = [d] → beat < x.bytes / 128 → SMap.get false x.landed (32 * beat) = false →
        (∀ k, faultStream s x = some k → (s.ctx k).hold = none) → Quiet s x.vd → src ≠ dst →
        x.held = [] → (∀ r ∈ s.coh.resident, r.e.level ≠ 0) → ((x.waits.any fun u => u.beat = beat) = true ∨ (takeTurnOf s core ch).isSome = true) →
        (x.begun = true ∨ ((s.chan core ch).transfers.filter fun z => z.begun && decide (z.state = .pending)).length < 4) →
        (tensorId x.src.core x.vd x.asn es ≠ tensorId d.core x.vd x.asn ed ∨
          ∀ c ∈ cellsOfLine es (x.sOff / 128 + beat), c ∉ cellsOfLine ed (x.dOff / 128 + beat)) →
        CorePlace s x.src es (x.sOff / 128 + beat) src → CorePlace s d ed (x.dOff / 128 + beat) dst →
        homeTag s src = mkTag (BitVec.ofNat 6 f) vcValid l → l < 256 → BitVec.ofNat 6 f ≠ Fmt.code.toCode →
        ∃ (w : State) (y : Transfer), exec (.copyBeat core ch n beat) s = .next w ∧ lineData w dst = lineData s src ∧ homeTag w dst = homeTag s src ∧
          (∀ i, i ≠ dst → lineData w i = lineData s i ∧ homeTag w i = homeTag s i) ∧
          w.entry d.core d.entry = (if x.noCredit then ed else { ed with sync := creditWord ed.sync 128 }) ∧
          w.transfer core ch n = some y ∧ y.landed = landed ∧ y.credited = x.credited + credit ∧
          y.state = if x.bytes / 128 ≤ landed.length then .retired else .pending)) ∧
    (s.transfer core ch n = some x → x.state = .pending → x.timed = some tm → (s.chan core ch).queued < 64 → tm ≤ s.now →
      (∀ i < 4, ∀ z ∈ (s.chan core i).transfers, ∀ u, z.timed = some u → z.state = .pending → (i = ch ∧ z.num = n) ∨ tm < u) →
      ∃ w : State, exec (.cpytRelease core) s = .next w ∧ w.transfer core ch n = some { x with timed := none } ∧
        { w with cores := s.cores } = s ∧ (∀ i, i ≠ core → w.core i = s.core i) ∧ ∀ i m, i ≠ ch ∨ m ≠ n → w.transfer core i m = s.transfer core i m) ∧
    (s.creds = as ++ v :: bs → (∀ u ∈ as, ¬ (ready u = true ∧ u.vd = v.vd ∧ u.group = v.group)) → ready v = true →
      (∃ p, v.parts.find? (fun p => p.rank = 0) = some p ∧ ∀ o ∈ v.parts, inScope s p o = true) →
      (∀ i ∈ v.kilns, contextsBusy s i < 16 ∧ ∀ u ∈ as, ready u = true → i ∉ u.kilns) →
      exec (.credInstanceStart v.vd v.group) s = .next { s with creds := s.creds.map fun u => if u = v then { u with started := true } else u }) ∧
    (s.creds.find? (fun u => u.vd = v.vd && u.group = v.group && !u.started && !u.failed && !u.complete && decide (u.since + 2 ^ 26 ≤ s.now)) = some v →
      ∃ w : State, exec (.credTimeout v.vd v.group) s = .next w ∧ w.creds = (s.creds.map fun u => if u = v then { u with failed := true } else u) ∧
        ∀ p ∈ v.parts, ∀ z, s.transfer p.core p.chan p.num = some z → z.state = .pending → ∃ y, w.transfer p.core p.chan p.num = some y ∧
          y.state = .failed ∧ y.cause = 0x28) ∧
    ((s.core core).calendar[j]? = some r → slot r →
      (∀ i u, (s.core core).calendar[i]? = some u → i ≠ j → slot u → prior r u ∧ ¬ prior u r) →
      ∃ w : State, exec (.calendarSlot core) s = .next w ∧ { w with cores := s.cores } = s ∧ (∀ i, i ≠ core → w.core i = s.core i) ∧
        w.core core = { s.core core with calendar := (s.core core).calendar.set j { r with departs := some s.now } }) ∧
    ((s.core core).calendar = rs ++ r :: us → r.departs = some tm → tm + 48 ≤ s.now → (∀ u ∈ rs, ∀ z, u.departs = some z → s.now < z + 48) →
      ∃ w : State, exec (.kilnStoreAccessComplete core) s = .next w ∧ { w with cores := s.cores } = s ∧ (∀ i, i ≠ core → w.core i = s.core i) ∧
        w.core core = { s.core core with calendar := rs ++ us })

/-- R76 to R79, R113, R193, R198, R325, R327: a retort takes lines of its kiln's first job into RECODE, at most 8 at once, a demotion passing over and counting those it does not
recode; the line longest in RECODE switches: a 16-bit float line narrowed under the rule of R76, its saturations counted; a re-keyed line keeping
data and tag, or become ZERO, and under the other key. A job's end gives the handle its format and counts, opens the window, or frees it. -/
def Obligations.RetortEventResults : Prop :=
  ∀ (s : State) (kiln line n vc core i asn win : Nat) (j : Job) (js : List Job) (rest : List (Nat × Nat × Nat)) (e5 sw zero : Bool) (e e' : HEntry),
    let out := exec (.retortLineSwitch kiln) s
    let ended := exec (.retortJobEnd kiln) s
    let t := homeTag s line
    let g := s.granule (line / 16384)
    let tgt : Fmt := if e5 then .e5m2 else .e4m3
    let y := s.window win
    let half := tagFmt t = Fmt.f16.toCode ∨ tagFmt t = Fmt.bf16.toCode
    -- A line that the job has not before it.
    let apart := fun (l : Nat) => ∀ m p, j.taken ≤ m → nthLine j.runs m ≠ some (l, p)
    -- Every line that is neither the one that switches nor before the job is as it was.
    let others := fun (w : State) => ∀ l, l ≠ line → apart l → region (l * 128) = .hbm → lineData w l = lineData s l ∧ homeTag w l = homeTag s l
    (s.kiln kiln).jobs = j :: js → (∀ z ∈ s.kilns, z.1 ≠ kiln → z.2.jobs = []) → s.coh.resident = [] → s.hbm.errors = [] → s.hbm.failed = [] →
    s.hbm.poison = [] → SMap.get false s.hbm.marked line = false → region (line * 128) = .hbm →
    (j.recode = [] → nthLine j.runs j.taken = some (line, n) → tagVc t ≠ vcForeign →
      (j.kind = .demote e5 sw core i asn e → keyCheck s (jobKey s j.vd e line) line = .current → sealedLine s core j.vd asn e line n = false → half →
        tagVc t ≠ vcPending → vcPoisoned (tagVc t) = false → ∃ (w : State) (j' : Job), out = .next w ∧ (w.kiln kiln).jobs = j' :: js ∧ j'.recode.head? = some (line, n, tagVc t) ∧
          j'.recode.length ≤ 8 ∧ homeTag w line = mkTag (tagFmt t) vcRecode (tagLxp t) ∧ lineData w line = lineData s line) ∧
      ((j.kind = .rekeyIn win ∨ j.kind = .rekeyOut win zero) → ∃ (w : State) (j' : Job), out = .next w ∧ (w.kiln kiln).jobs = j' :: js ∧
          j'.recode.head? = some (line, n, tagVc t) ∧ j'.recode.length ≤ 8 ∧ homeTag w line = mkTag (tagFmt t) vcRecode (tagLxp t) ∧
          lineData w line = lineData s line) ∧
      (j.kind = .demote e5 sw core i asn e → nthLine j.runs (j.taken + 1) = none → ¬ half → ∃ w : State, out = .next w ∧ w.mem = s.mem ∧ w.tags = s.tags ∧
          (w.kiln kiln).jobs = { j with taken := j.taken + 1, done := j.done + 1, skipped := j.skipped + 1 } :: js)) ∧
    (j.recode = (line, n, vc) :: rest → rest.length < 8 → tagVc t = vcRecode → vc < 8 → vc ≠ vcForeign → apart line →
      let switched := fun (w : State) => out = .next w ∧ others w ∧ ∃ j', (w.kiln kiln).jobs = j' :: js ∧ j'.recode.length ≤ 8 ∧
        (nthLine j.runs j.taken = none → j' = { j with recode := rest, done := j.done + 1 })
      (j.kind = .demote e5 sw core i asn e → vc = vcValid → half → s.entry core i = e' → e'.valid = true → e'.owner = e.owner →
          let vals := lineValues (if tagFmt t = Fmt.f16.toCode then .f16 else .bf16) (tagLxp t) (lineData s line)
          let k := demoteLxp (largest vals) tgt
          let value := fun (c : Nat) => satFloat tgt .rne (vals.getD c (.nan false)) ((k : Int) - 127)
          ∃ w : State, switched w ∧ homeTag w line = mkTag tgt.toCode vcValid k ∧
            (∀ c < 128, elemOf (lineData w line) 8 c = if c < 64 then (value c).1 % 256 else 0) ∧
            w.entry core i = e'.addOvf ((List.range 64).filter fun c => (value c).2.1).length) ∧
      (j.kind = .rekeyIn win → ∃ w : State, switched w ∧ lineData w line = lineData s line ∧ homeTag w line = mkTag (tagFmt t) vc (tagLxp t) ∧
          line % 16384 < (w.granule (line / 16384)).prog ∧ (g.rk = true → g.rdir = false → (lineKeys w line).1 = windowKey s g.win)) ∧
      (j.kind = .rekeyOut win zero → ∃ w : State, switched w ∧
          (if zero then homeTag w line = mkTag (tagFmt t) vcZero 127
           else lineData w line = lineData s line ∧ homeTag w line = mkTag (tagFmt t) vc (tagLxp t)) ∧
          (g.rk = true → g.rdir = true → (lineKeys w line).1 = ownerKey g))) ∧
    (j.total ≤ j.done →
      (j.kind = .demote e5 sw core i asn e → s.entry core i = e' → e'.valid = true → e'.owner = e.owner →
        ∃ w : State, ended = .next w ∧ (w.kiln kiln).jobs = js ∧ w.mem = s.mem ∧ w.tags = s.tags ∧
          let x := { e'.setFmt tgt.toCode with busy := e'.busy - 1, skipped := min j.skipped (2 ^ 32 - 1) }
          w.entry core i = if sw then { x with sync := creditWord x.sync (128 * e.footprint) } else x) ∧
      (j.kind = .rekeyIn win → ∃ w : State, ended = .next w ∧ (w.kiln kiln).jobs = js ∧ w.mem = s.mem ∧ w.tags = s.tags ∧
        w.window win = { y with state := .openW } ∧
        ∀ r, w.granule r = if r ∈ y.granules then { s.granule r with rk := false, prog := 0 } else s.granule r) ∧
      (j.kind = .rekeyOut win zero → ∃ w : State, ended = .next w ∧ (w.kiln kiln).jobs = js ∧ w.mem = s.mem ∧ w.tags = s.tags ∧
        w.window win = { closer := y.closer } ∧
        SMap.get none (w.vd y.owner).slots y.oslot = (if SMap.get none (s.vd y.owner).slots y.oslot = some (.window win y.gen) then none
          else SMap.get none (s.vd y.owner).slots y.oslot) ∧
        ∀ r, w.granule r = if r ∈ y.granules then { s.granule r with rk := false, rdir := false, prog := 0, wk := false, win := 0 }
          else s.granule r))

/-- R41, R122, R169, R177 to R182, R223, R467, R468: granules are assigned unwritten to a new owner, one of the sequence store's region only to a VD whose
aperture maps it; the scrubber corrects or marks a line; a fill and a crossing
write-back advance what they concern; accesses from outside read, write and operate on HBM lines under their key, and are aborted elsewhere; an invalidation
drops translations, a snoop drops a line's copies. -/
def Obligations.MemoryEventResults : Prop :=
  ∀ (s : State) (g owner line kiln tensor sec old core page size port : Nat) (excl : Bool) (r : Resident) (a : BusAccess) (f : BitVec 6) (l : Nat),
    let h := s.granule g
    let here := a.addr / 128
    let off := a.addr % 128
    let reach := fun (key : Option KeyId) => region a.addr = .hbm ∧ 0 < a.size ∧ off + a.size ≤ 128 ∧ health s here = .good ∧
      keyCheck s key here = .current ∧ homeTag s here = mkTag f vcValid l ∧ l < 256 ∧ f ≠ Fmt.code.toCode ∧ SMap.get false s.hbm.marked here = false ∧
      ∀ w q, key ≠ some (.window w q)
    let region' := decide (field s.pkg.sqrange 18 0 ≤ g ∧ g < field s.pkg.sqrange 18 0 + field s.pkg.sqrange 63 32)
    let elsewhere := fun (w : State) => (∀ b, b < a.addr ∨ a.addr + a.size ≤ b → w.byte b = s.byte b) ∧ ∀ i, i ≠ here → homeTag w i = homeTag s i
    let oldWord := wordOfBytes (s.bytes a.addr a.size)
    (region (g * 2 ^ 21) = .hbm → owner ≤ 64 → h.rk = false → h.wk = false → recoding s g = false →
      (region' = false ∨ owner = 64 ∨ (∃ x ∈ (s.vd owner).aperture, 4096 ≤ x.1 ∧ x.2 = g + 1) → ∃ w : State, exec (.granuleAssign g owner) s = .next w ∧
        w.granule g = { h with owner := owner, wk := false, win := 0, rk := false, rdir := false, prog := 0, gen := (s.vd owner).keyGen, root := h.root + 16384 } ∧
        (∀ i, i ≠ g → w.granule i = s.granule i) ∧ (∀ r ∈ w.coh.resident, ∀ y ∈ r.copies, y.1 / 16384 ≠ g) ∧
        ∀ i, if i / 16384 = g then homeTag w i = mkTag 0 vcUndef 127
          else homeTag w i = homeTag s i ∧ (region (i * 128) ≠ .carveOut → lineData w i = lineData s i)) ∧
      (region' = true → owner ≠ 64 → (∀ x ∈ (s.vd owner).aperture, x.1 < 4096) → exec (.granuleAssign g owner) s = .next s)) ∧
    (∀ m, region (line * 128) = .hbm → s.hbm.failed.contains (stackOf line) = false → SMap.get false s.hbm.marked line = false → onPoison s line = false →
      SMap.get none s.hbm.errors line = some (.symbols m) →
      ∃ w : State, exec (.scrubLine line) s = .next w ∧ SMap.get none w.hbm.errors line = none ∧ w.mem = s.mem ∧
        if m ≤ 2 then w.tags = s.tags ∧ SMap.get 0 w.hbm.correctable (stackOf line) = SMap.get 0 s.hbm.correctable (stackOf line) + 1 ∧ w.out = s.out
        else tagVc (homeTag w line) = vcPoison ∧ lineData w line = 0 ∧ w.out = .pfLog 2 (BitVec.ofNat 64 (line * 128)) :: s.out) ∧
    (s.coh.resident[tensor]? = some r → exec (.residencyFill kiln tensor) s = .next (if r.kiln = kiln ∧ r.filled < r.lines then
      { s with coh := { s.coh with resident := s.coh.resident.set tensor { r with filled := r.filled + 1 } } } else s)) ∧
    (s.coh.writebacks.contains (sec * 256 + old) = true → old < 256 →
      let left := s.coh.writebacks.filter fun k => k ≠ sec * 256 + old
      ((core = old ∨ 192 ≤ core) → exec (.lineWritebackCross (sec * 256 + old) core excl) s = .next { s with coh := { s.coh with writebacks := left } }) ∧
      (core ≠ old → core < 192 → ∃ w : State, exec (.lineWritebackCross (sec * 256 + old) core excl) s = .next w ∧
        { w with coh := { w.coh with sectors := s.coh.sectors, writebacks := s.coh.writebacks }, ctxs := s.ctxs, tasks := s.tasks } = s ∧
        w.coh.writebacks = left ∧
        (∀ j, w.ctx j = { s.ctx j with monitor := (s.ctx j).monitor.map fun y => { y with
          fired := y.fired || (excl && decide (coreOf j ≠ core ∧ coreOf j < 256 ∧ sec / 4 = y.line) &&
            s.coh.sectors.any fun x => x.1 = sec * 256 + coreOf j) } }) ∧
        (∀ j, (w.task j).map unwatched = (s.task j).map unwatched) ∧
        ∀ i, SMap.get .i w.coh.sectors i = if i = sec * 256 + core then (if excl then .m else .o)
          else if excl = true ∧ i / 256 = sec then .i else SMap.get .i s.coh.sectors i)) ∧
    (s.coh.writebacks.contains sec = false → exec (.lineWritebackCross sec core excl) s = .next s) ∧
    (reach (slotKey s 64 0) →
      (a.kind = .read → exec (.hostAccess a) s = .next (s.send (.reply (s.bytes a.addr a.size) (homeTag s here)))) ∧
      (a.kind = .write → a.data.length = a.size → ∃ w : State, exec (.hostAccess a) s = .next w ∧ elsewhere w ∧ homeTag w here = homeTag s here ∧
        w.out = s.out ∧ ∀ j < a.size, w.byte (a.addr + j) = a.data.getD j 0)) ∧
    (reach (slotKey s a.vd a.slot) →
      (∀ t, a.kind = .fullLine t → a.size = 128 → a.data.length = 128 → tagFmt t ≠ Fmt.code.toCode → tagVc t = vcValid → t = mkTag (tagFmt t) vcValid (tagLxp t) →
        ∃ w : State, exec (.peerAccess a) s = .next w ∧ elsewhere w ∧ homeTag w here = t ∧ ∀ j < 128, w.byte (a.addr + j) = a.data.getD j 0) ∧
      (a.kind = .atomic .add → (a.size = 4 ∨ a.size = 8) → ∃ w : State, exec (.peerAccess a) s = .next w ∧ elsewhere w ∧ homeTag w here = homeTag s here ∧
        w.out = .reply (s.bytes a.addr a.size) (homeTag s here) :: s.out ∧
        wordOfBytes (w.bytes a.addr a.size) = (oldWord + wordOfBytes a.data % 2 ^ (8 * a.size)) % 2 ^ (8 * a.size))) ∧
    (region a.addr ≠ .hbm → exec (.hostAccess a) s = .next (s.send (.abort a.addr)) ∧ exec (.peerAccess a) s = .next (s.send (.abort a.addr))) ∧
    (∃ w : State, exec (.atsInvalidate page size) s = .next w ∧ w.out = .atsDone page size :: s.out ∧ w.mem = s.mem ∧ w.tags = s.tags ∧
      (∀ i, SMap.get false w.pkg.hostAbsent i = if page ≤ i ∧ i < page + size then true else SMap.get false s.pkg.hostAbsent i) ∧
      ∀ i, (w.core i).tlb = (s.core i).tlb.filter fun t => !(decide (t.hpa < (page + size) * 4096) && decide (page * 4096 < t.hpa + t.size))) ∧
    (let at_ := 2 ^ 44 + port % 2 * 2 ^ 43 + line % 2 ^ 43
     ∃ w : State, exec (.cxlCacheSnoop port line) s = .next w ∧ (∀ x ∈ w.coh.sectors, x.1 / 1024 ≠ at_) ∧
      (∀ x ∈ w.coh.resident, ∀ y ∈ x.copies, y.1 ≠ at_) ∧
      ((∀ x ∈ s.coh.resident, x.copies = []) → w.mem = s.mem ∧ w.tags = s.tags))

/-! The launch unit, the flues, the registers (chapters 9, 18 to 21). -/

/-- R448, R449, R451, R458, R462 to R464: a notify moves its queue's write index, or puts the queue in ERROR; a queue is enabled where stage 2 maps its ring;
the next record is read and made a live launch, or rejected with NO_VD while the VD has no stage 2 or has not locked its features; a task is made of a ready
node's next index, its CR written, in the lowest free slots (the model's choice, log entry 63); a finished launch's record is written and its vector signalled. Each does so wherever the part reaches what it reads and writes. -/
def Obligations.LaunchEventResults : Prop :=
  ∀ (s : State) (vd q launch node kiln i slot fr : Nat) (val : BitVec 32) (x : Launch) (n : Node) (arg : Word) (runs : List (Nat × Nat × Nat × Word))
    (rec : List Byte) (ns : List RawNode),
    let y := s.queue vd q
    let w16 := val.toNat % 2 ^ 16
    let ring := field y.base 51 7 * 128
    let others := fun (w : State) => ∀ j, j ≠ vd → w.vd j = s.vd j
    (val.toNat < 2 ^ 16 → q ≤ 255 → vd ≤ 63 → vdEnabled s vd = true → (s.vd vd).rst = false → (s.vd vd).lock = true → y.state = 1 →
      (w16 < 2 * y.slots ∧ (w16 + 2 * y.slots - y.rd) % (2 * y.slots) ≤ y.slots →
        exec (.queueNotify vd q 0 val) s = .next (s.setQueue vd q { y with wr := w16 })) ∧
      (2 * y.slots ≤ w16 → ∃ w : State, exec (.queueNotify vd q 0 val) s = .next w ∧ (w.queue vd q).state = 2 ∧ (w.queue vd q).wr = y.wr)) ∧
    ((s.vd vd).rst = false → y.state = 0 → y.en = false → q ≤ 255 →
      (field y.base 3 0 ≠ 0 → rangeMapped s vd ring (128 * y.slots) = (true, s) →
        ∃ w : State, exec (.queueEnable vd q) s = .next w ∧ others w ∧ w.queue vd q = { y with state := 1, en := true, rd := 0, wr := 0 }) ∧
      (field y.base 3 0 = 0 → ∃ w : State, exec (.queueEnable vd q) s = .next w ∧ (w.queue vd q).state = 2)) ∧
    (∃ w : State, exec (.queueDisable vd q) s = .next w ∧ others w ∧ w.queue vd q = { y with state := 0, en := false }) ∧
    (y.state = 1 → y.rd ≠ y.wr → s.launches.length < 4096 → (s.vd vd).rst = false →
      let taken := fun (w : State) => (w.queue vd q).rd = (y.rd + 1) % (2 * y.slots) ∧ w.nextLaunch = s.nextLaunch + 1
      let rejected := ∃ w : State, exec (.launchValidate vd q) s = .next w ∧ taken w ∧ (∀ l, w.launch s.nextLaunch = some l → l.status = 3 ∧ l.nodes = [])
      (bit (s.vd vd).s2root 0 = false → rejected) ∧
      (bit (s.vd vd).s2root 0 = true → SlotAt s vd (ring + 128 * (y.rd % y.slots)) rec →
        ((s.vd vd).lock = true → NodesAt s vd rec ns → launchStatus s vd rec ns = 0 →
          ∃ (w : State) (l : Launch), exec (.launchValidate vd q) s = .next w ∧ taken w ∧
            w.launch s.nextLaunch = some l ∧ l.vd = vd ∧ l.queue = q ∧ l.lid = field (wordAt rec 0) 63 32 ∧ l.asn = field (wordAt rec 0) 31 24 ∧
            l.compl = wordAt rec 0x30 ∧ l.nodes.length = ns.length ∧
            ∀ (j : Nat) (m : RawNode), ns[j]? = some m → ∃ m' : Node, l.nodes[j]? = some m' ∧ m'.count = m.count ∧ m'.succ = m.succ ∧ (m.deps = 0 → m'.ready = true)) ∧
        ((s.vd vd).lock = false → rejected))) ∧
    (s.launch launch = some x → (x.nodes.all (fun m => m.complete) = false → exec (.launchCompletion launch) s = .next s) ∧
      (x.nodes.all (fun m => m.complete) = true → x.compl.toNat % 16 = 0 → PartReaches s 0 x.vd x.asn .store x.compl.toNat 16 →
        let head := x.status * 2 ^ 56 + (if x.gu then 2 ^ 55 else 0) + (if x.ds then 2 ^ 54 else 0) + x.lid % 2 ^ 32
        ∃ v : State, FoundAt v 0 x.vd x.asn x.compl.toNat (wordBytes [head, s.now]) ∧ v.launches = s.launches ∧ v.vds = s.vds ∧ v.out = s.out ∧
          exec (.launchCompletion launch) s = .next (if x.irq then signalVector (v.setLaunch launch none) x.vd x.vec else v.setLaunch launch none))) ∧
    (s.launch launch = some x → x.nodes[node]? = some n → n.ready = true → n.complete = false → kiln < 8 →
      freeSlotOf s launch x.nconts (·.crSlot) = some slot → freeSlotOf s launch x.nframes (·.frameSlot) = some fr →
      takeIndex s x.vd kiln n = some (i, arg, runs) → CrReached s (newTask s launch x node n kiln i arg slot fr) →
      ∃ (w : State) (t : Task), exec (.taskCreate kiln launch node) s = .next w ∧ CrReads w t t ∧ w.task s.nextTask = some t ∧
        w.nextTask = s.nextTask + 1 ∧ (w.kiln kiln).ready = (s.kiln kiln).ready ++ [s.nextTask] ∧
        t.status = .ready ∧ t.vd = x.vd ∧ t.asn = x.asn ∧ t.index = i ∧ t.prio = n.prio ∧
        t.xpc = n.xpc ∧ t.apc = n.apc ∧ t.arg = (if arg ≠ 0 then arg else if n.arg ≠ 0 then n.arg else x.args) ∧
        t.frame = x.frames + BitVec.ofNat 64 (0x5000 * fr) ∧ t.cr = x.conts + BitVec.ofNat 64 (64 * slot) ∧
        t.rank = (if n.csize = 0 then 0 else i % n.csize))

/-- R233, R241, R304, R439 to R441, R452, R454, R455, R457: a round dispatches a READY task to the core of its kiln where most of its stokers are free; a deadline
wakes its task; a task leaves its stoker, and ends, once nothing of it is under way; requests to make room reach running tasks whose VD allows it,
and a requested task is saved where its area takes it, or its request is dropped and logged. A task's CR reads as the task has become, wherever the part reaches it; the REASON and wait object of one
that becomes READY are the model's choice (log entry 64). -/
def Obligations.FlueEventResults : Prop :=
  ∀ (s : State) (t k kiln : Nat) (x : Task) (l : Launch) (n : Node) (val : Word),
    let woken := fun (i : Instr) (r : Reason) => x.status = .suspended → x.reason = r →
      (∀ d, x.waitUntil = some d → d ≤ s.now → CrReached s x → ∃ w : State, exec i s = .next w ∧
        (w.kiln x.kiln).ready = (s.kiln x.kiln).ready ++ [t] ∧ (∀ j, j ≠ t → (w.task j).map unwatched = (s.task j).map unwatched) ∧
        ∃ y, w.task t = some y ∧ CrReads w y y ∧ y.status = .ready ∧ y.waitUntil = none ∧ y.monitor = none ∧ y.readySince = s.now ∧
          y.reason = (if x.pre then .preempted else .none)) ∧
      (∀ d, x.waitUntil = some d → s.now < d → exec i s = .next s)
    let cores := (List.range 24).map fun j => 24 * kiln + j
    let asked := fun (i : Instr) (u : Nat) (y : Task) (reg : Bool) => ∃ w : State, exec i s = .next w ∧ { w with tasks := s.tasks } = s ∧
      w.task u = some { y with preReq := true, preqReg := y.preqReg || reg } ∧ ∀ j, j ≠ u → w.task j = s.task j
    let allowed := fun (y : Task) => y.status = .running ∧ y.reason = .none ∧ y.cord = false ∧ bit (s.vd y.vd).psbase 0 = true
    let core := field val 55 48
    s.task t = some x →
    (woken (.suspendDeadline t) .suspend ∧ woken (.mwaitTimeout t) .mwait) ∧
    (s.tasks = [(t, some x)] → (s.kiln kiln).ready = [t] → x.kiln = kiln → x.status = .ready → x.energyWait = false → x.pre = false → x.energy = 0 →
      x.cord = false → vdEnabled s x.vd = true → s.launch x.launch = some l → l.nodes[x.node]? = some n → n.bar < 2 →
      (∃ c ∈ cores, fits s x [t] c = true) → ∃ (w : State) (c : Nat) (y : Task), exec (.flueRound kiln) s = .next w ∧ c ∈ cores ∧ fits s x [t] c = true ∧
        (∀ d ∈ cores, fits s x [t] d = true → (freeStokers s x [t] d).length ≤ (freeStokers s x [t] c).length) ∧
        (w.kiln kiln).ready = [] ∧ w.task t = some y ∧ y.status = .running ∧ y.core = c ∧ y.runSince = s.now ∧
        y.xctx = (freeStokers s x [t] c)[0]?.map (ctxId c) ∧ (CrReached s { x with core := c } → y.crDue = false ∧ CrReads w y y)) ∧
    (x.xctx = some k → x.status = .running → x.reason ≠ .none → mayPass s x = true → heldTask s k = false → (s.ctx k).lost = none → FrameReached s x →
      let x' := leavingTask s t x k x.reason x.waitObj x.waitUntil x.monitor
      ∃ w : State, LeavesAt k t x x.reason x.waitObj x.waitUntil x.monitor s w ∧ CrReads w x x' ∧
        exec (.taskLeaveStoker t) s = .next (leftState w t x x' k (windowOf s x.core x.win))) ∧
    (x.xctx = some k → queuesEmpty s x = true → unretired s x.core t = false → heldTask s k = false →
      (∀ j ∈ x.streams, (s.ctx j).halted = true ∧ (s.ctx j).faulted = false) → CrReached s x →
      ∃ w : State, exec (.haltRetire t) s = .next w ∧ w = endTask s t x .done ∧ (s.coh.resident = [] → w.task t = none) ∧ ∀ j ∈ x.streams, w.ctx j = {}) ∧
    (∀ since c j u, (s.kiln kiln).gangSince = some since → since + 2 ^ 20 ≤ s.now → (s.kiln kiln).reserved = [(c, j, u)] →
      (s.ctx (ctxId c j)).task = some t → allowed x → asked (.gangReserveTimeout kiln) t x false) ∧
    (∀ u y, (readyTasks s kiln).find? (fun z => decide (z.2.readySince + 2 ^ 22 ≤ s.now) && !placeable s kiln [] z.1 z.2) = some (u, y) →
      (s.tasksWhere fun z => z.kiln = kiln && z.status = .running && bit (s.vd z.vd).psbase 0 &&
        decide (SMap.get 0 (s.kiln kiln).vtime y.vd < SMap.get 0 (s.kiln kiln).vtime z.vd)) = [(t, x)] →
      allowed x → asked (.starvationPreempt kiln) t x false) ∧
    (bit val 63 = true → core ≤ 191 → field val 61 56 = 0 → field val 43 33 = 0 → s.tasks = [(t, some x)] → allowed x → x.core = core →
      (bit val 62 = true ∨ x.win = field val 47 44) → (field val 31 0 = 0 ∨ x.lid % 2 ^ 32 = field val 31 0) → asked (.preqGo x.vd val) t x true) ∧
    (x.preReq = true → x.cord = false → x.status = .running → x.reason = .none → x.xctx = some k →
      (preemptWaits s x = true → exec (.preempt t) s = .next s) ∧
      (preemptWaits s x = false → SaveReached s x → ∃ (v : State) (y : Task), exec (.preempt t) s = .next v ∧ v.task t = some y ∧ CrReads v x y ∧
        y.status = .suspended ∧ y.reason = .preempted ∧ y.pre = true ∧ y.av = true ∧ y.preReq = false ∧ y.cur = true ∧ y.xctx = none ∧ y.actx = none ∧
        y.saved.map (·.1) = x.streams ∧ ∀ j ∈ x.streams, v.ctx j = {}) ∧
      (preemptWaits s x = false → saveTask t x k s = .error .wait → exec (.preempt t) s = .next s) ∧
      (preemptWaits s x = false → saveTask t x k s = .error .abandon → exec (.preempt t) s =
        .next ((s.modTask t fun y => { y with preReq := false, preqReg := false }).send (.pfLog 3 (saveBase s x)))))

/-- R41, R52, R57, R74, R419, R460, R464, R469 to R473, R476: PCTL checks a core's records, and accepted ones are applied once no task of the old holds a
place; the sequence store's region falls to the physical function; register writes take their fields and drop reserved bits (space 68 is the model's choice, log entry 26); a VD's reset clears its registers, a module reset everything but memory beyond the
module; firmware that verifies restarts the management core. -/
def Obligations.RegisterAndResetEventResults : Prop :=
  ∀ (s : State) (core vd space off : Nat) (val : Word) (a0 b0 a1 b1 : Word) (at_ : Nat) (byte : BitVec 8) (held : List (Nat × BitVec 8)) (ok : Bool),
    let c := s.core core
    let y := s.vd vd
    let vdIs := fun (i : Instr) (z : Vd) => ∃ w : State, exec i s = .next w ∧ { w with vds := s.vds } = s ∧ w.vd vd = z ∧ ∀ j, j ≠ vd → w.vd j = s.vd j
    let coreIs := fun (i : Instr) (z : Core) => ∃ w : State, exec i s = .next w ∧ { w with cores := s.cores } = s ∧ w.core core = z ∧
      ∀ j, j ≠ core → w.core j = s.core j
    (core < 192 → coreIs (.pctlApply core) (if badRecords c.rec0A c.rec0B c.rec1A c.rec1B then { c with pctlErr := true }
      else { c with pctlNext := some (c.rec0A, c.rec0B, c.rec1A, c.rec1B) })) ∧
    (c.pctlNext = some (a0, b0, a1, b1) →
      ((∀ z ∈ s.tasks, ∀ x, z.2 = some x → x.core = core → x.status ≠ .running ∧ x.ran = false) →
        coreIs (.partitionApply core) { c with part0A := a0, part0B := b0, part1A := a1, part1B := b1, pctlNext := none }) ∧
      (∀ z ∈ s.tasks, ∀ x, z.2 = some x → x.core = core → x.status = .running → bit c.part0A 0 = true → field c.part0A 6 1 = x.vd →
        exec (.partitionApply core) s = .next s)) ∧
    ((s.vds.any fun z => z.2.lock) = false → (field val 63 32 = 0 ∨ field val 18 0 + field val 63 32 ≤ 386048) →
      let inside := fun (g : Nat) => field val 18 0 ≤ g ∧ g < field val 18 0 + field val 63 32
      ∃ w : State, exec (.sqrangeWrite val) s = .next w ∧ w.pkg = { s.pkg with sqrange := val &&& 0xFFFFFFFF0007FFFF } ∧
        (∀ g, inside g → (w.granule g).owner = 64) ∧ (∀ g, ¬ inside g → w.granule g = s.granule g) ∧
        ∀ i, ¬ inside (i / 2 ^ 21) → w.byte i = s.byte i) ∧
    ((s.vds.any fun z => z.2.lock) = true → exec (.sqrangeWrite val) s = .next s) ∧
    (vd < 64 → s.pkg.prqWait = [] → ((List.range 64).filter fun j => j ≠ vd).foldl (fun a j => a + prqQuota s j) 0 + max 4 (field val 55 46) ≤ 704 →
      vdIs (.vdcfgWrite vd val) { y with cfg := if y.lock then (val &&& 0xFFFFFFFFFE000000) ||| (y.cfg &&& 0x1800000) else val &&& 0xFFFFFFFFFF800000 }) ∧
    (at_ < 8192 → vdIs (.latticeWrite vd [(at_, byte)]) { y with latHeld := y.latHeld ++ [(at_, byte)] }) ∧
    (y.latHeld = held → (launching s vd = true → exec (.latticeApply vd) s = .next s) ∧
      (launching s vd = false → ∃ w : State, exec (.latticeApply vd) s = .next w ∧ { w with vds := s.vds } = s ∧ (w.vd vd).latHeld = [] ∧
        ∀ i, SMap.get (latByte i) (w.vd vd).lat i = match (held.filter fun z => z.1 = i).getLast? with
          | some z => z.2
          | none => SMap.get (latByte i) y.lat i)) ∧
    (vd < 64 → y.rst = false →
      vdIs (.registerWrite vd 0 val) { y with astbase := val &&& 0x000FFFFFFFFFF001 } ∧
      vdIs (.registerWrite vd 0x100 val) { y with tvec := val &&& 0x00FFFFFFFFFFFFF9 } ∧ vdIs (.registerWrite vd 0x108 val) { y with tscr := val } ∧
      vdIs (.registerWrite vd 0x110 val) { y with psbase := val &&& (if y.featacc.getLsbD 3 then 0x000FFFFFFFE00001 else 0x000FFFFFFFE00000) } ∧
      vdIs (.registerWrite vd 0x200 val) { y with errbase := val &&& 0x000FFFFFFFFFFF01 } ∧ vdIs (.registerWrite vd 0x6000 val) { y with btidx := val } ∧
      vdIs (.registerWrite 64 (0x10000 * vd) val) { y with s2root := val &&& 0x000FFFFFFFFFF001 } ∧
      vdIs (.registerWrite 64 (0x10000 * vd + 0x200) val) { y with refillNext := val &&& 0xFFFFFFFF } ∧
      vdIs (.registerWrite 64 (0x10000 * vd + 0x300) val) { y with dbgcfg := val &&& 3 } ∧
      exec (.registerWrite vd 0x300 val) s = .next s) ∧
    (192 ≤ space → exec (.registerWrite space off val) s = .next s) ∧
    (s.pkg.prqWait = [] → exec (.registerWrite 68 off val) s = .next { s with pkg := { s.pkg with priAlloc := min val.toNat 704 } }) ∧
    (vd < 64 → s.tasks = [] → (∀ z ∈ s.launches, ∀ l, z.2 = some l → l.vd ≠ vd) → s.pkg.windows = [] →
      ∃ w : State, exec (.vdReset vd) s = .next w ∧ w.vd vd = { y with
        slots := [], astbase := 0, tvec := 0, tscr := 0, psbase := 0, errbase := 0, erridx := 0, featacc := 0, pasid := [], btidx := 0, queues := []
        lock := false, rst := false } ∧ ∀ j, j ≠ vd → (w.vd j).s2root = (s.vd j).s2root ∧ (w.vd j).queues = (s.vd j).queues) ∧
    (∃ w : State, exec .moduleReset s = .next w ∧ w.ctxs = State.reset.ctxs ∧ w.cores = State.reset.cores ∧ w.kilns = State.reset.kilns ∧
      w.vds = State.reset.vds ∧ w.tasks = State.reset.tasks ∧ w.launches = State.reset.launches ∧ w.hbm = State.reset.hbm ∧ w.pkg = State.reset.pkg ∧
      w.coh = State.reset.coh ∧ w.now = State.reset.now ∧ w.out = s.out ∧
      ∀ i, w.byte i = if 0x4000000000000 ≤ i ∧ i < 2 ^ 52 then s.byte i else unlistedByte) ∧
    ((∀ z ∈ s.vds, 64 ≤ z.1) → ∃ w : State, exec (.firmwareLoad ok) s = .next w ∧ w.pkg = { s.pkg with firmware := ok } ∧ w.mem = s.mem ∧
      (w.ctx managementCtx).live = ok ∧ (ok = true → (w.ctx managementCtx).mode = .m ∧ (w.ctx managementCtx).pc = 0) ∧
      ∀ j, j ≠ managementCtx → w.ctx j = s.ctx j)

/-- R474 to R478, R481 to R483: metered energy is drawn from the task's reservation, then its VD's account; a refill pays debts only; the snapshot trigger
latches 64 cycles after it fired and is armed again by the read; RESUME frees the VD's stopped stokers, STEP lets one run. -/
def Obligations.EnergyAndDebugEventResults : Prop :=
  ∀ (s : State) (vd stk t n num den source tag due : Nat) (x : Task),
    let y := s.vd vd
    let p := s.pkg
    let k := ctxId (stk / 4) (stk % 4)
    let snap := fun (i : Instr) (z : Snapshot) => exec i s = .next { s with pkg := { p with snapshot := z } }
    (s.task t = some x → x.vd = vd → ∃ w : State, exec (.energyMeter [(t, n)] []) s = .next w ∧ { w with tasks := s.tasks, vds := s.vds } = s ∧
      w.task t = some { x with ebud := x.ebud - min n x.ebud } ∧ w.vd vd = { y with rem := y.rem - ((n - min n x.ebud : Nat) : Int) }) ∧
    (∃ w : State, exec (.energyMeter [] [(vd, n)]) s = .next w ∧ { w with vds := s.vds } = s ∧ w.vd vd = { y with rem := y.rem - (n : Int) }) ∧
    (if s.now / 1600000 ≤ p.refills then exec .energyRefill s = .next s
     else ∃ w : State, exec .energyRefill s = .next w ∧ { w with vds := s.vds, tasks := s.tasks } = { s with pkg := { p with refills := p.refills + 1 } } ∧
       (∀ z, s.vds = [(vd, z)] → w.vd vd = { z with refill := z.refillNext, rem := ((field z.refillNext 31 0 * p.powerNum / p.powerDen : Nat) : Int) + min z.rem 0 }) ∧
       (s.task t = some x → w.task t = some { x with energyWait := false })) ∧
    (exec (.powerLimit num den) s = .next (if den = 0 then s else { s with pkg := { p with powerNum := num, powerDen := den } })) ∧
    (p.snapshot.armed = some (source, tag, due) →
      (due ≤ s.now → snap .snapshotLatch { p.snapshot with armed := none, record := some (source, tag, due) }) ∧
      (s.now < due → exec .snapshotLatch s = .next s)) ∧
    (p.snapshot.armed = none → p.snapshot.record = none →
      snap .snapin { p.snapshot with armed := some (2, 0xFE, s.now + 64) } ∧ snap .snapshotCommand { p.snapshot with armed := some (3, 0xFF, s.now + 64) }) ∧
    (p.snapshot.record = some (source, tag, due) →
      (∃ w : State, exec .snapshotRead s = .next w ∧ w.pkg = { p with snapshot := { p.snapshot with record := none } } ∧
        ∃ word, w.out = .pfLog 4 word :: s.out) ∧
      snap .snapin { p.snapshot with missed := min 255 (p.snapshot.missed + 1) }) ∧
    (∃ w : State, exec (.dbgctlResume vd) s = .next w ∧ { w with ctxs := s.ctxs, vds := s.vds } = s ∧
      (∀ j, w.ctx j = if (s.ctx j).vd = vd ∧ (s.ctx j).stopped = true then { s.ctx j with stopped := false, stepping := false } else s.ctx j) ∧
      w.vd vd = { y with stopinfo := y.stopinfo &&& 0x7FFFFFFFFFFFFFFF, skid := [], dbgWaiting := false }) ∧
    (stk < 768 → (s.ctx k).vd = vd → ∃ w : State, exec (.dbgctlStep vd stk) s = .next w ∧ { w with ctxs := s.ctxs, vds := s.vds } = s ∧
      (∀ j, j ≠ k → w.ctx j = s.ctx j) ∧ w.ctx k = (if (s.ctx k).stopped then { s.ctx k with stepping := true } else s.ctx k) ∧
      w.vd vd = if (s.ctx k).stopped then { y with dbgStk := stk, dbgWaiting := false } else { y with dbgStk := stk })

/-! The machine as a whole. -/

/-- R256, Table 10.9 and the worked encodings of spec/10 to spec/18: these words decode to these instructions; with a reserved bit set, or an opcode that
no row has, a word decodes to none. -/
def Obligations.DecodedWords : Prop :=
  decodeWord 0x0045180FFF2000FD = .ok (.addi { g1 := 2 } 5 6 (-3)) ∧
  decodeWord 0x21C0080000100000 = .ok (.br { g1 := 1 } 0 2) ∧
  decodeWord 0x424928B009004000 = .ok (.aadd {} 9 10 11 true .acq .kiln) ∧
  decodeWord 0x610624A000002000 = .ok (.htenWrite {} 6 9 10) ∧
  decodeWord 0x80C420C40F000213 = .ok (.vfma { cb := true } 4 8 12 16 15 (some 3)) ∧
  decodeWord 0xC080400018008000 = .ok (.mma {} 0 16 0 none (some 24) 0) ∧
  decodeWord 0xD00910228B001000 = .ok (.cpy {} 9 4 2 10 11 1 false) ∧
  decodeWord 0xE009000001000001 = .ok (.csrr {} 9 0x101) ∧
  decodeWord 0 = .ok (.add {} 0 0 0) ∧
  (∃ i, decodeWord 0x0045181FFF2000FD = .illegal i) ∧ decodeWord 0x3000000000000000 = .unassigned ∧
  decodeTableWord 64 0x2340000000000000 = some (.halt {})

/-- R256, R257: the word of every well-formed instruction decodes to it, whatever its operands, alone and as bytes in front of any others; and a
word that decodes to an instruction is the word of that well-formed instruction and of no other. -/
def Obligations.EncodeDecodeAgree : Prop :=
  (∀ i : Instr, i.wf = true → i.traits.word = true →
    decodeWord (encode i) = .ok i ∧
    ∀ rest : List Byte, decodeBytes (bytesOfNat 8 (encode i).toNat ++ rest) = some (i, rest)) ∧
  (∀ (w : Word) (i : Instr), decodeWord w = .ok i → i.wf = true ∧ i.traits.word = true ∧ encode i = w)

/-- R219, R256 and log entry 1 (the model's choice): a turn of a stream that may issue fetches at its program counter, decodes, and is the meaning of the instruction, after which
the turn's cycles pass; the word is that of the line the fetch agent holds, or the eight bytes of published code where the program counter points, whose line the
agent then holds. A turn of another agent is the meaning of its step. -/
def Obligations.StepRunsDecoded : Prop :=
  ∀ (s : State) (rest : List Turn) (i : Instr),
    let s0 := { s with sched := rest }
    (s.sched = .occur i :: rest → step s = tick (exec i s0)) ∧
    (∀ (k : Nat) (w : Word), s.sched = .run k :: rest → mayIssue s k = true → bootOf s k = none → (s.ctx k).stepping = false →
      decodeWord w = .ok i →
      (∀ v, fetchWord k s0 = .ok (w, v) → step s = tick (exec i (latch v k w))) ∧
      (∀ (h : Nat) (key : Option KeyId), let held := (s.ctx k).fetched.find? fun f => f.line = h / 128 && f.key = key
        (CodeAt s k h key → held = none → w = BitVec.ofNat 64 (wordOfBytes (s.bytes h 8)) →
          step s = tick (exec i (latch (takeFetched s0 k { line := h / 128, key := key, bytes := s.bytes (h / 128 * 128) 128 }) k w))) ∧
        ∀ f, FetchesAt s k h key → held = some f → w = BitVec.ofNat 64 (wordOfBytes ((f.bytes.drop (h % 128)).take 8)) →
          step s = tick (exec i (latch s0 k w))))

/-- R259, R262, R264, R266, R289, R421, R236: the checks before an instruction is performed. A privileged form in U mode raises PRIV_OP; in S mode the forms of the
groups and names that R421 lists, a form that the access stream may not issue, and one that no delay slot may hold, raise ILLEGAL_OP; in an open
convoy BSM, VSETVL, a write of vl or vstart and an RMODE that names the vector queue raise ILLEGAL_CONVOY, whatever their guards; etval is the word, and nothing
else changes. A pending register stalls the stream, and one whose guards do not hold only moves it on. -/
def Obligations.IssueChecks : Prop :=
  ∀ (i : Instr) (s : State), i.traits.word = true →
    let c := s.ctx s.focus
    let op := (encodeF i).opc.toNat
    (c.mode = .u → i.traits.modes = .s ∨ i.traits.modes = .m → exec i s = Faulted s .privOp c.ir) ∧
    (c.mode = .s → i.traits.modes = .m ∨ i.traits.modes = .u ∨ op / 128 ∈ [3, 4, 5, 6] ∨
        op ∈ [0x8A, 0x8B, 0x8C, 0x8D, 0x8E, 0x8F, 0x114, 0x115, 0x119, 0x11A, 0x11B, 0x11C, 0x11D, 0x11E, 0x384, 0x385] →
      exec i s = Faulted s .illegalOp c.ir) ∧
    (c.mode = .u → privFault .u i = false → c.access = true → i.traits.access = false → exec i s = Faulted s .illegalOp c.ir) ∧
    (c.mode ≠ .m → privFault c.mode i = false → c.pend.isSome = true → i.traits.slot = false → exec i s = Faulted s .illegalOp c.ir) ∧
    (c.mode ≠ .m → privFault c.mode i = false → placeFault c i = false → c.convoy.isSome = true →
        (∃ k ra imm, i = .bsm k ra imm ∨ i = .bsmT k ra imm) ∨ (∃ k rd ra, i = .vsetvl k rd ra) ∨
          (∃ k csr ra, i = .csrw k csr ra ∧ csr.toNat ≤ 1) ∨ (∃ k qs m, i = .rmode k qs m ∧ qs.getLsbD 0 = true) →
      exec i s = Faulted s .illegalConvoy c.ir) ∧
    (issueFault i c = none → i.traits.queue ≠ .matrix → c.stalls i = true → exec i s = .next s) ∧
    (issueFault i c = none → i.traits.queue = .stream → c.stalls i = false →
      (c.p (i.ctl.g1.setWidth 3) ^^ i.ctl.g1.getLsbD 3) = false ∨ (c.p (i.ctl.g2.setWidth 3) ^^ i.ctl.g2.getLsbD 3) = false →
      exec i s = .next (s.modCtx s.focus Ctx.advance))

/-- R418, R419 and log entry 25 (the model's choice): no instruction and no step of any other agent stops the machine: outside the management core, whose own traps the firmware defines, every
one of them and every step answers a next state. -/
def Obligations.MachineGoesOn : Prop :=
  ∀ s : State, NoFirmware s → (∀ i : Instr, GoesOn (exec i s)) ∧ GoesOn (step s)

/-- Memory and tags keep their one canonical form (log entry 8, the model's choice): addresses strictly rising, nothing listed that reads as an unlisted place does; so equal memories are equal
data. Every step keeps it. -/
def Obligations.StepKeepsMemoryForm : Prop :=
  ∀ s t : State, MemOk s → step s = .next t → MemOk t

/-- What reset leaves. R57: every line of HBM {RAW, UNDEF, 127}, reading zeros; R64: vector rows the same; R73: the lattice tables; R395: transfers number from 1, the watermark 1;
R41, R52: no sequence store, 4 page-request entries for each virtual device and 448 shared; R473: no virtual function enabled, no image verified; memory in its canonical form (log entry 8, the model's choice). -/
def Obligations.ResetState : Prop :=
  let r := State.reset
  let groups : List (List Fmt) := [[.e2m1], [.e4m3, .e5m2], [.bf16], [.f16], [.f32], [.i8, .ob8, .ob4], [.i16], [.i32]]
  let sums : List (List Fmt) :=
    [[.bf16, .bf16, .bf16, .f16, .f32, .bf16, .f32, .f32], [.bf16, .bf16, .bf16, .f16, .f32, .bf16, .f32, .f32],
     [.bf16, .bf16, .bf16, .f32, .f32, .bf16, .f32, .f32], [.f16, .f16, .f32, .f16, .f32, .f16, .f32, .f32],
     [.f32, .f32, .f32, .f32, .f32, .f32, .f32, .f32], [.bf16, .bf16, .bf16, .f16, .f32, .i16, .i16, .i32],
     [.f32, .f32, .f32, .f32, .f32, .i16, .i16, .i32], [.f32, .f32, .f32, .f32, .f32, .i32, .i32, .i32]]
  MemOk r ∧
  (∀ line, region (line * 128) = .hbm → homeTag r line = 0x013F80 ∧ lineData r line = 0) ∧
  (∀ k v j, (r.ctx k).row v j = { tag := 0x013F80, data := Vector.replicate 64 0 }) ∧
  (∀ vd, ∀ f g : Fmt, if f.isArith && g.isArith then
      ∀ i j : Nat, f ∈ groups.getD i [] → g ∈ groups.getD j [] →
        lattice r vd false f g = some ((sums.getD i []).getD j .raw) ∧
        lattice r vd true f g = some (if (i = 5 ∨ i = 6) ∧ (j = 5 ∨ j = 6) then .i32 else (sums.getD i []).getD j .raw)
    else lattice r vd false f g = none ∧ lattice r vd true f g = none) ∧
  (∀ c, ∀ ch < 4, (r.chan c ch).next = 1 ∧ (r.chan c ch).done = 1) ∧
  r.pkg.sqrange = 0 ∧ (∀ vd < 64, prqQuota r vd = 4) ∧ prqPool r = 448 ∧
  r.pkg.firmware = false ∧ ∀ vd < 64, (r.vd vd).enabled = false
end

