-- ==== Sys2Proof/Laws/State.lean ====
section
/-!
SUPPORT. Sys2Proof/Laws/State.lean: one lemma for each field of State under each update of Store.lean: every field but the
one an update writes reads as before.
-/

namespace Sys2Proof.Machine

open Sys2Proof

/-! setByte writes mem alone. -/

@[simp] theorem State.setByte_now (s : State) (a : Nat) (b : Byte) : (s.setByte a b).now = s.now := rfl
@[simp] theorem State.setByte_ticks (s : State) (a : Nat) (b : Byte) : (s.setByte a b).ticks = s.ticks := rfl
@[simp] theorem State.setByte_sched (s : State) (a : Nat) (b : Byte) : (s.setByte a b).sched = s.sched := rfl
@[simp] theorem State.setByte_focus (s : State) (a : Nat) (b : Byte) : (s.setByte a b).focus = s.focus := rfl
@[simp] theorem State.setByte_ctxs (s : State) (a : Nat) (b : Byte) : (s.setByte a b).ctxs = s.ctxs := rfl
@[simp] theorem State.setByte_tasks (s : State) (a : Nat) (b : Byte) : (s.setByte a b).tasks = s.tasks := rfl
@[simp] theorem State.setByte_nextTask (s : State) (a : Nat) (b : Byte) : (s.setByte a b).nextTask = s.nextTask := rfl
@[simp] theorem State.setByte_cores (s : State) (a : Nat) (b : Byte) : (s.setByte a b).cores = s.cores := rfl
@[simp] theorem State.setByte_kilns (s : State) (a : Nat) (b : Byte) : (s.setByte a b).kilns = s.kilns := rfl
@[simp] theorem State.setByte_vds (s : State) (a : Nat) (b : Byte) : (s.setByte a b).vds = s.vds := rfl
@[simp] theorem State.setByte_tags (s : State) (a : Nat) (b : Byte) : (s.setByte a b).tags = s.tags := rfl
@[simp] theorem State.setByte_hbm (s : State) (a : Nat) (b : Byte) : (s.setByte a b).hbm = s.hbm := rfl
@[simp] theorem State.setByte_pkg (s : State) (a : Nat) (b : Byte) : (s.setByte a b).pkg = s.pkg := rfl
@[simp] theorem State.setByte_coh (s : State) (a : Nat) (b : Byte) : (s.setByte a b).coh = s.coh := rfl
@[simp] theorem State.setByte_launches (s : State) (a : Nat) (b : Byte) : (s.setByte a b).launches = s.launches := rfl
@[simp] theorem State.setByte_nextLaunch (s : State) (a : Nat) (b : Byte) : (s.setByte a b).nextLaunch = s.nextLaunch := rfl
@[simp] theorem State.setByte_creds (s : State) (a : Nat) (b : Byte) : (s.setByte a b).creds = s.creds := rfl
@[simp] theorem State.setByte_out (s : State) (a : Nat) (b : Byte) : (s.setByte a b).out = s.out := rfl

/-! setTag writes tags alone. -/

@[simp] theorem State.setTag_now (s : State) (n : Nat) (t : Tag) : (s.setTag n t).now = s.now := rfl
@[simp] theorem State.setTag_ticks (s : State) (n : Nat) (t : Tag) : (s.setTag n t).ticks = s.ticks := rfl
@[simp] theorem State.setTag_sched (s : State) (n : Nat) (t : Tag) : (s.setTag n t).sched = s.sched := rfl
@[simp] theorem State.setTag_focus (s : State) (n : Nat) (t : Tag) : (s.setTag n t).focus = s.focus := rfl
@[simp] theorem State.setTag_ctxs (s : State) (n : Nat) (t : Tag) : (s.setTag n t).ctxs = s.ctxs := rfl
@[simp] theorem State.setTag_tasks (s : State) (n : Nat) (t : Tag) : (s.setTag n t).tasks = s.tasks := rfl
@[simp] theorem State.setTag_nextTask (s : State) (n : Nat) (t : Tag) : (s.setTag n t).nextTask = s.nextTask := rfl
@[simp] theorem State.setTag_cores (s : State) (n : Nat) (t : Tag) : (s.setTag n t).cores = s.cores := rfl
@[simp] theorem State.setTag_kilns (s : State) (n : Nat) (t : Tag) : (s.setTag n t).kilns = s.kilns := rfl
@[simp] theorem State.setTag_vds (s : State) (n : Nat) (t : Tag) : (s.setTag n t).vds = s.vds := rfl
@[simp] theorem State.setTag_mem (s : State) (n : Nat) (t : Tag) : (s.setTag n t).mem = s.mem := rfl
@[simp] theorem State.setTag_hbm (s : State) (n : Nat) (t : Tag) : (s.setTag n t).hbm = s.hbm := rfl
@[simp] theorem State.setTag_pkg (s : State) (n : Nat) (t : Tag) : (s.setTag n t).pkg = s.pkg := rfl
@[simp] theorem State.setTag_coh (s : State) (n : Nat) (t : Tag) : (s.setTag n t).coh = s.coh := rfl
@[simp] theorem State.setTag_launches (s : State) (n : Nat) (t : Tag) : (s.setTag n t).launches = s.launches := rfl
@[simp] theorem State.setTag_nextLaunch (s : State) (n : Nat) (t : Tag) : (s.setTag n t).nextLaunch = s.nextLaunch := rfl
@[simp] theorem State.setTag_creds (s : State) (n : Nat) (t : Tag) : (s.setTag n t).creds = s.creds := rfl
@[simp] theorem State.setTag_out (s : State) (n : Nat) (t : Tag) : (s.setTag n t).out = s.out := rfl

/-! setCtx writes ctxs alone. -/

@[simp] theorem State.setCtx_now (s : State) (k : Nat) (c : Ctx) : (s.setCtx k c).now = s.now := rfl
@[simp] theorem State.setCtx_ticks (s : State) (k : Nat) (c : Ctx) : (s.setCtx k c).ticks = s.ticks := rfl
@[simp] theorem State.setCtx_sched (s : State) (k : Nat) (c : Ctx) : (s.setCtx k c).sched = s.sched := rfl
@[simp] theorem State.setCtx_focus (s : State) (k : Nat) (c : Ctx) : (s.setCtx k c).focus = s.focus := rfl
@[simp] theorem State.setCtx_tasks (s : State) (k : Nat) (c : Ctx) : (s.setCtx k c).tasks = s.tasks := rfl
@[simp] theorem State.setCtx_nextTask (s : State) (k : Nat) (c : Ctx) : (s.setCtx k c).nextTask = s.nextTask := rfl
@[simp] theorem State.setCtx_cores (s : State) (k : Nat) (c : Ctx) : (s.setCtx k c).cores = s.cores := rfl
@[simp] theorem State.setCtx_kilns (s : State) (k : Nat) (c : Ctx) : (s.setCtx k c).kilns = s.kilns := rfl
@[simp] theorem State.setCtx_vds (s : State) (k : Nat) (c : Ctx) : (s.setCtx k c).vds = s.vds := rfl
@[simp] theorem State.setCtx_mem (s : State) (k : Nat) (c : Ctx) : (s.setCtx k c).mem = s.mem := rfl
@[simp] theorem State.setCtx_tags (s : State) (k : Nat) (c : Ctx) : (s.setCtx k c).tags = s.tags := rfl
@[simp] theorem State.setCtx_hbm (s : State) (k : Nat) (c : Ctx) : (s.setCtx k c).hbm = s.hbm := rfl
@[simp] theorem State.setCtx_pkg (s : State) (k : Nat) (c : Ctx) : (s.setCtx k c).pkg = s.pkg := rfl
@[simp] theorem State.setCtx_coh (s : State) (k : Nat) (c : Ctx) : (s.setCtx k c).coh = s.coh := rfl
@[simp] theorem State.setCtx_launches (s : State) (k : Nat) (c : Ctx) : (s.setCtx k c).launches = s.launches := rfl
@[simp] theorem State.setCtx_nextLaunch (s : State) (k : Nat) (c : Ctx) : (s.setCtx k c).nextLaunch = s.nextLaunch := rfl
@[simp] theorem State.setCtx_creds (s : State) (k : Nat) (c : Ctx) : (s.setCtx k c).creds = s.creds := rfl
@[simp] theorem State.setCtx_out (s : State) (k : Nat) (c : Ctx) : (s.setCtx k c).out = s.out := rfl

/-! modCtx writes ctxs alone. -/

@[simp] theorem State.modCtx_now (s : State) (k : Nat) (f : Ctx → Ctx) : (s.modCtx k f).now = s.now := rfl
@[simp] theorem State.modCtx_ticks (s : State) (k : Nat) (f : Ctx → Ctx) : (s.modCtx k f).ticks = s.ticks := rfl
@[simp] theorem State.modCtx_sched (s : State) (k : Nat) (f : Ctx → Ctx) : (s.modCtx k f).sched = s.sched := rfl
@[simp] theorem State.modCtx_focus (s : State) (k : Nat) (f : Ctx → Ctx) : (s.modCtx k f).focus = s.focus := rfl
@[simp] theorem State.modCtx_tasks (s : State) (k : Nat) (f : Ctx → Ctx) : (s.modCtx k f).tasks = s.tasks := rfl
@[simp] theorem State.modCtx_nextTask (s : State) (k : Nat) (f : Ctx → Ctx) : (s.modCtx k f).nextTask = s.nextTask := rfl
@[simp] theorem State.modCtx_cores (s : State) (k : Nat) (f : Ctx → Ctx) : (s.modCtx k f).cores = s.cores := rfl
@[simp] theorem State.modCtx_kilns (s : State) (k : Nat) (f : Ctx → Ctx) : (s.modCtx k f).kilns = s.kilns := rfl
@[simp] theorem State.modCtx_vds (s : State) (k : Nat) (f : Ctx → Ctx) : (s.modCtx k f).vds = s.vds := rfl
@[simp] theorem State.modCtx_mem (s : State) (k : Nat) (f : Ctx → Ctx) : (s.modCtx k f).mem = s.mem := rfl
@[simp] theorem State.modCtx_tags (s : State) (k : Nat) (f : Ctx → Ctx) : (s.modCtx k f).tags = s.tags := rfl
@[simp] theorem State.modCtx_hbm (s : State) (k : Nat) (f : Ctx → Ctx) : (s.modCtx k f).hbm = s.hbm := rfl
@[simp] theorem State.modCtx_pkg (s : State) (k : Nat) (f : Ctx → Ctx) : (s.modCtx k f).pkg = s.pkg := rfl
@[simp] theorem State.modCtx_coh (s : State) (k : Nat) (f : Ctx → Ctx) : (s.modCtx k f).coh = s.coh := rfl
@[simp] theorem State.modCtx_launches (s : State) (k : Nat) (f : Ctx → Ctx) : (s.modCtx k f).launches = s.launches := rfl
@[simp] theorem State.modCtx_nextLaunch (s : State) (k : Nat) (f : Ctx → Ctx) : (s.modCtx k f).nextLaunch = s.nextLaunch := rfl
@[simp] theorem State.modCtx_creds (s : State) (k : Nat) (f : Ctx → Ctx) : (s.modCtx k f).creds = s.creds := rfl
@[simp] theorem State.modCtx_out (s : State) (k : Nat) (f : Ctx → Ctx) : (s.modCtx k f).out = s.out := rfl

/-! setCore writes cores alone. -/

@[simp] theorem State.setCore_now (s : State) (k : Nat) (x : Core) : (s.setCore k x).now = s.now := rfl
@[simp] theorem State.setCore_ticks (s : State) (k : Nat) (x : Core) : (s.setCore k x).ticks = s.ticks := rfl
@[simp] theorem State.setCore_sched (s : State) (k : Nat) (x : Core) : (s.setCore k x).sched = s.sched := rfl
@[simp] theorem State.setCore_focus (s : State) (k : Nat) (x : Core) : (s.setCore k x).focus = s.focus := rfl
@[simp] theorem State.setCore_ctxs (s : State) (k : Nat) (x : Core) : (s.setCore k x).ctxs = s.ctxs := rfl
@[simp] theorem State.setCore_tasks (s : State) (k : Nat) (x : Core) : (s.setCore k x).tasks = s.tasks := rfl
@[simp] theorem State.setCore_nextTask (s : State) (k : Nat) (x : Core) : (s.setCore k x).nextTask = s.nextTask := rfl
@[simp] theorem State.setCore_kilns (s : State) (k : Nat) (x : Core) : (s.setCore k x).kilns = s.kilns := rfl
@[simp] theorem State.setCore_vds (s : State) (k : Nat) (x : Core) : (s.setCore k x).vds = s.vds := rfl
@[simp] theorem State.setCore_mem (s : State) (k : Nat) (x : Core) : (s.setCore k x).mem = s.mem := rfl
@[simp] theorem State.setCore_tags (s : State) (k : Nat) (x : Core) : (s.setCore k x).tags = s.tags := rfl
@[simp] theorem State.setCore_hbm (s : State) (k : Nat) (x : Core) : (s.setCore k x).hbm = s.hbm := rfl
@[simp] theorem State.setCore_pkg (s : State) (k : Nat) (x : Core) : (s.setCore k x).pkg = s.pkg := rfl
@[simp] theorem State.setCore_coh (s : State) (k : Nat) (x : Core) : (s.setCore k x).coh = s.coh := rfl
@[simp] theorem State.setCore_launches (s : State) (k : Nat) (x : Core) : (s.setCore k x).launches = s.launches := rfl
@[simp] theorem State.setCore_nextLaunch (s : State) (k : Nat) (x : Core) : (s.setCore k x).nextLaunch = s.nextLaunch := rfl
@[simp] theorem State.setCore_creds (s : State) (k : Nat) (x : Core) : (s.setCore k x).creds = s.creds := rfl
@[simp] theorem State.setCore_out (s : State) (k : Nat) (x : Core) : (s.setCore k x).out = s.out := rfl

/-! modCore writes cores alone. -/

@[simp] theorem State.modCore_now (s : State) (k : Nat) (f : Core → Core) : (s.modCore k f).now = s.now := rfl
@[simp] theorem State.modCore_ticks (s : State) (k : Nat) (f : Core → Core) : (s.modCore k f).ticks = s.ticks := rfl
@[simp] theorem State.modCore_sched (s : State) (k : Nat) (f : Core → Core) : (s.modCore k f).sched = s.sched := rfl
@[simp] theorem State.modCore_focus (s : State) (k : Nat) (f : Core → Core) : (s.modCore k f).focus = s.focus := rfl
@[simp] theorem State.modCore_ctxs (s : State) (k : Nat) (f : Core → Core) : (s.modCore k f).ctxs = s.ctxs := rfl
@[simp] theorem State.modCore_tasks (s : State) (k : Nat) (f : Core → Core) : (s.modCore k f).tasks = s.tasks := rfl
@[simp] theorem State.modCore_nextTask (s : State) (k : Nat) (f : Core → Core) : (s.modCore k f).nextTask = s.nextTask := rfl
@[simp] theorem State.modCore_kilns (s : State) (k : Nat) (f : Core → Core) : (s.modCore k f).kilns = s.kilns := rfl
@[simp] theorem State.modCore_vds (s : State) (k : Nat) (f : Core → Core) : (s.modCore k f).vds = s.vds := rfl
@[simp] theorem State.modCore_mem (s : State) (k : Nat) (f : Core → Core) : (s.modCore k f).mem = s.mem := rfl
@[simp] theorem State.modCore_tags (s : State) (k : Nat) (f : Core → Core) : (s.modCore k f).tags = s.tags := rfl
@[simp] theorem State.modCore_hbm (s : State) (k : Nat) (f : Core → Core) : (s.modCore k f).hbm = s.hbm := rfl
@[simp] theorem State.modCore_pkg (s : State) (k : Nat) (f : Core → Core) : (s.modCore k f).pkg = s.pkg := rfl
@[simp] theorem State.modCore_coh (s : State) (k : Nat) (f : Core → Core) : (s.modCore k f).coh = s.coh := rfl
@[simp] theorem State.modCore_launches (s : State) (k : Nat) (f : Core → Core) : (s.modCore k f).launches = s.launches := rfl
@[simp] theorem State.modCore_nextLaunch (s : State) (k : Nat) (f : Core → Core) : (s.modCore k f).nextLaunch = s.nextLaunch := rfl
@[simp] theorem State.modCore_creds (s : State) (k : Nat) (f : Core → Core) : (s.modCore k f).creds = s.creds := rfl
@[simp] theorem State.modCore_out (s : State) (k : Nat) (f : Core → Core) : (s.modCore k f).out = s.out := rfl

/-! setKiln writes kilns alone. -/

@[simp] theorem State.setKiln_now (s : State) (k : Nat) (x : Kiln) : (s.setKiln k x).now = s.now := rfl
@[simp] theorem State.setKiln_ticks (s : State) (k : Nat) (x : Kiln) : (s.setKiln k x).ticks = s.ticks := rfl
@[simp] theorem State.setKiln_sched (s : State) (k : Nat) (x : Kiln) : (s.setKiln k x).sched = s.sched := rfl
@[simp] theorem State.setKiln_focus (s : State) (k : Nat) (x : Kiln) : (s.setKiln k x).focus = s.focus := rfl
@[simp] theorem State.setKiln_ctxs (s : State) (k : Nat) (x : Kiln) : (s.setKiln k x).ctxs = s.ctxs := rfl
@[simp] theorem State.setKiln_tasks (s : State) (k : Nat) (x : Kiln) : (s.setKiln k x).tasks = s.tasks := rfl
@[simp] theorem State.setKiln_nextTask (s : State) (k : Nat) (x : Kiln) : (s.setKiln k x).nextTask = s.nextTask := rfl
@[simp] theorem State.setKiln_cores (s : State) (k : Nat) (x : Kiln) : (s.setKiln k x).cores = s.cores := rfl
@[simp] theorem State.setKiln_vds (s : State) (k : Nat) (x : Kiln) : (s.setKiln k x).vds = s.vds := rfl
@[simp] theorem State.setKiln_mem (s : State) (k : Nat) (x : Kiln) : (s.setKiln k x).mem = s.mem := rfl
@[simp] theorem State.setKiln_tags (s : State) (k : Nat) (x : Kiln) : (s.setKiln k x).tags = s.tags := rfl
@[simp] theorem State.setKiln_hbm (s : State) (k : Nat) (x : Kiln) : (s.setKiln k x).hbm = s.hbm := rfl
@[simp] theorem State.setKiln_pkg (s : State) (k : Nat) (x : Kiln) : (s.setKiln k x).pkg = s.pkg := rfl
@[simp] theorem State.setKiln_coh (s : State) (k : Nat) (x : Kiln) : (s.setKiln k x).coh = s.coh := rfl
@[simp] theorem State.setKiln_launches (s : State) (k : Nat) (x : Kiln) : (s.setKiln k x).launches = s.launches := rfl
@[simp] theorem State.setKiln_nextLaunch (s : State) (k : Nat) (x : Kiln) : (s.setKiln k x).nextLaunch = s.nextLaunch := rfl
@[simp] theorem State.setKiln_creds (s : State) (k : Nat) (x : Kiln) : (s.setKiln k x).creds = s.creds := rfl
@[simp] theorem State.setKiln_out (s : State) (k : Nat) (x : Kiln) : (s.setKiln k x).out = s.out := rfl

/-! modKiln writes kilns alone. -/

@[simp] theorem State.modKiln_now (s : State) (k : Nat) (f : Kiln → Kiln) : (s.modKiln k f).now = s.now := rfl
@[simp] theorem State.modKiln_ticks (s : State) (k : Nat) (f : Kiln → Kiln) : (s.modKiln k f).ticks = s.ticks := rfl
@[simp] theorem State.modKiln_sched (s : State) (k : Nat) (f : Kiln → Kiln) : (s.modKiln k f).sched = s.sched := rfl
@[simp] theorem State.modKiln_focus (s : State) (k : Nat) (f : Kiln → Kiln) : (s.modKiln k f).focus = s.focus := rfl
@[simp] theorem State.modKiln_ctxs (s : State) (k : Nat) (f : Kiln → Kiln) : (s.modKiln k f).ctxs = s.ctxs := rfl
@[simp] theorem State.modKiln_tasks (s : State) (k : Nat) (f : Kiln → Kiln) : (s.modKiln k f).tasks = s.tasks := rfl
@[simp] theorem State.modKiln_nextTask (s : State) (k : Nat) (f : Kiln → Kiln) : (s.modKiln k f).nextTask = s.nextTask := rfl
@[simp] theorem State.modKiln_cores (s : State) (k : Nat) (f : Kiln → Kiln) : (s.modKiln k f).cores = s.cores := rfl
@[simp] theorem State.modKiln_vds (s : State) (k : Nat) (f : Kiln → Kiln) : (s.modKiln k f).vds = s.vds := rfl
@[simp] theorem State.modKiln_mem (s : State) (k : Nat) (f : Kiln → Kiln) : (s.modKiln k f).mem = s.mem := rfl
@[simp] theorem State.modKiln_tags (s : State) (k : Nat) (f : Kiln → Kiln) : (s.modKiln k f).tags = s.tags := rfl
@[simp] theorem State.modKiln_hbm (s : State) (k : Nat) (f : Kiln → Kiln) : (s.modKiln k f).hbm = s.hbm := rfl
@[simp] theorem State.modKiln_pkg (s : State) (k : Nat) (f : Kiln → Kiln) : (s.modKiln k f).pkg = s.pkg := rfl
@[simp] theorem State.modKiln_coh (s : State) (k : Nat) (f : Kiln → Kiln) : (s.modKiln k f).coh = s.coh := rfl
@[simp] theorem State.modKiln_launches (s : State) (k : Nat) (f : Kiln → Kiln) : (s.modKiln k f).launches = s.launches := rfl
@[simp] theorem State.modKiln_nextLaunch (s : State) (k : Nat) (f : Kiln → Kiln) : (s.modKiln k f).nextLaunch = s.nextLaunch := rfl
@[simp] theorem State.modKiln_creds (s : State) (k : Nat) (f : Kiln → Kiln) : (s.modKiln k f).creds = s.creds := rfl
@[simp] theorem State.modKiln_out (s : State) (k : Nat) (f : Kiln → Kiln) : (s.modKiln k f).out = s.out := rfl

/-! setVd writes vds alone. -/

@[simp] theorem State.setVd_now (s : State) (v : Nat) (x : Vd) : (s.setVd v x).now = s.now := rfl
@[simp] theorem State.setVd_ticks (s : State) (v : Nat) (x : Vd) : (s.setVd v x).ticks = s.ticks := rfl
@[simp] theorem State.setVd_sched (s : State) (v : Nat) (x : Vd) : (s.setVd v x).sched = s.sched := rfl
@[simp] theorem State.setVd_focus (s : State) (v : Nat) (x : Vd) : (s.setVd v x).focus = s.focus := rfl
@[simp] theorem State.setVd_ctxs (s : State) (v : Nat) (x : Vd) : (s.setVd v x).ctxs = s.ctxs := rfl
@[simp] theorem State.setVd_tasks (s : State) (v : Nat) (x : Vd) : (s.setVd v x).tasks = s.tasks := rfl
@[simp] theorem State.setVd_nextTask (s : State) (v : Nat) (x : Vd) : (s.setVd v x).nextTask = s.nextTask := rfl
@[simp] theorem State.setVd_cores (s : State) (v : Nat) (x : Vd) : (s.setVd v x).cores = s.cores := rfl
@[simp] theorem State.setVd_kilns (s : State) (v : Nat) (x : Vd) : (s.setVd v x).kilns = s.kilns := rfl
@[simp] theorem State.setVd_mem (s : State) (v : Nat) (x : Vd) : (s.setVd v x).mem = s.mem := rfl
@[simp] theorem State.setVd_tags (s : State) (v : Nat) (x : Vd) : (s.setVd v x).tags = s.tags := rfl
@[simp] theorem State.setVd_hbm (s : State) (v : Nat) (x : Vd) : (s.setVd v x).hbm = s.hbm := rfl
@[simp] theorem State.setVd_pkg (s : State) (v : Nat) (x : Vd) : (s.setVd v x).pkg = s.pkg := rfl
@[simp] theorem State.setVd_coh (s : State) (v : Nat) (x : Vd) : (s.setVd v x).coh = s.coh := rfl
@[simp] theorem State.setVd_launches (s : State) (v : Nat) (x : Vd) : (s.setVd v x).launches = s.launches := rfl
@[simp] theorem State.setVd_nextLaunch (s : State) (v : Nat) (x : Vd) : (s.setVd v x).nextLaunch = s.nextLaunch := rfl
@[simp] theorem State.setVd_creds (s : State) (v : Nat) (x : Vd) : (s.setVd v x).creds = s.creds := rfl
@[simp] theorem State.setVd_out (s : State) (v : Nat) (x : Vd) : (s.setVd v x).out = s.out := rfl

/-! modVd writes vds alone. -/

@[simp] theorem State.modVd_now (s : State) (v : Nat) (f : Vd → Vd) : (s.modVd v f).now = s.now := rfl
@[simp] theorem State.modVd_ticks (s : State) (v : Nat) (f : Vd → Vd) : (s.modVd v f).ticks = s.ticks := rfl
@[simp] theorem State.modVd_sched (s : State) (v : Nat) (f : Vd → Vd) : (s.modVd v f).sched = s.sched := rfl
@[simp] theorem State.modVd_focus (s : State) (v : Nat) (f : Vd → Vd) : (s.modVd v f).focus = s.focus := rfl
@[simp] theorem State.modVd_ctxs (s : State) (v : Nat) (f : Vd → Vd) : (s.modVd v f).ctxs = s.ctxs := rfl
@[simp] theorem State.modVd_tasks (s : State) (v : Nat) (f : Vd → Vd) : (s.modVd v f).tasks = s.tasks := rfl
@[simp] theorem State.modVd_nextTask (s : State) (v : Nat) (f : Vd → Vd) : (s.modVd v f).nextTask = s.nextTask := rfl
@[simp] theorem State.modVd_cores (s : State) (v : Nat) (f : Vd → Vd) : (s.modVd v f).cores = s.cores := rfl
@[simp] theorem State.modVd_kilns (s : State) (v : Nat) (f : Vd → Vd) : (s.modVd v f).kilns = s.kilns := rfl
@[simp] theorem State.modVd_mem (s : State) (v : Nat) (f : Vd → Vd) : (s.modVd v f).mem = s.mem := rfl
@[simp] theorem State.modVd_tags (s : State) (v : Nat) (f : Vd → Vd) : (s.modVd v f).tags = s.tags := rfl
@[simp] theorem State.modVd_hbm (s : State) (v : Nat) (f : Vd → Vd) : (s.modVd v f).hbm = s.hbm := rfl
@[simp] theorem State.modVd_pkg (s : State) (v : Nat) (f : Vd → Vd) : (s.modVd v f).pkg = s.pkg := rfl
@[simp] theorem State.modVd_coh (s : State) (v : Nat) (f : Vd → Vd) : (s.modVd v f).coh = s.coh := rfl
@[simp] theorem State.modVd_launches (s : State) (v : Nat) (f : Vd → Vd) : (s.modVd v f).launches = s.launches := rfl
@[simp] theorem State.modVd_nextLaunch (s : State) (v : Nat) (f : Vd → Vd) : (s.modVd v f).nextLaunch = s.nextLaunch := rfl
@[simp] theorem State.modVd_creds (s : State) (v : Nat) (f : Vd → Vd) : (s.modVd v f).creds = s.creds := rfl
@[simp] theorem State.modVd_out (s : State) (v : Nat) (f : Vd → Vd) : (s.modVd v f).out = s.out := rfl

/-! setTask writes tasks alone. -/

@[simp] theorem State.setTask_now (s : State) (t : Nat) (x : Option Task) : (s.setTask t x).now = s.now := rfl
@[simp] theorem State.setTask_ticks (s : State) (t : Nat) (x : Option Task) : (s.setTask t x).ticks = s.ticks := rfl
@[simp] theorem State.setTask_sched (s : State) (t : Nat) (x : Option Task) : (s.setTask t x).sched = s.sched := rfl
@[simp] theorem State.setTask_focus (s : State) (t : Nat) (x : Option Task) : (s.setTask t x).focus = s.focus := rfl
@[simp] theorem State.setTask_ctxs (s : State) (t : Nat) (x : Option Task) : (s.setTask t x).ctxs = s.ctxs := rfl
@[simp] theorem State.setTask_nextTask (s : State) (t : Nat) (x : Option Task) : (s.setTask t x).nextTask = s.nextTask := rfl
@[simp] theorem State.setTask_cores (s : State) (t : Nat) (x : Option Task) : (s.setTask t x).cores = s.cores := rfl
@[simp] theorem State.setTask_kilns (s : State) (t : Nat) (x : Option Task) : (s.setTask t x).kilns = s.kilns := rfl
@[simp] theorem State.setTask_vds (s : State) (t : Nat) (x : Option Task) : (s.setTask t x).vds = s.vds := rfl
@[simp] theorem State.setTask_mem (s : State) (t : Nat) (x : Option Task) : (s.setTask t x).mem = s.mem := rfl
@[simp] theorem State.setTask_tags (s : State) (t : Nat) (x : Option Task) : (s.setTask t x).tags = s.tags := rfl
@[simp] theorem State.setTask_hbm (s : State) (t : Nat) (x : Option Task) : (s.setTask t x).hbm = s.hbm := rfl
@[simp] theorem State.setTask_pkg (s : State) (t : Nat) (x : Option Task) : (s.setTask t x).pkg = s.pkg := rfl
@[simp] theorem State.setTask_coh (s : State) (t : Nat) (x : Option Task) : (s.setTask t x).coh = s.coh := rfl
@[simp] theorem State.setTask_launches (s : State) (t : Nat) (x : Option Task) : (s.setTask t x).launches = s.launches := rfl
@[simp] theorem State.setTask_nextLaunch (s : State) (t : Nat) (x : Option Task) : (s.setTask t x).nextLaunch = s.nextLaunch := rfl
@[simp] theorem State.setTask_creds (s : State) (t : Nat) (x : Option Task) : (s.setTask t x).creds = s.creds := rfl
@[simp] theorem State.setTask_out (s : State) (t : Nat) (x : Option Task) : (s.setTask t x).out = s.out := rfl

/-! modTask writes tasks alone. -/

@[simp] theorem State.modTask_now (s : State) (t : Nat) (f : Task → Task) : (s.modTask t f).now = s.now := rfl
@[simp] theorem State.modTask_ticks (s : State) (t : Nat) (f : Task → Task) : (s.modTask t f).ticks = s.ticks := rfl
@[simp] theorem State.modTask_sched (s : State) (t : Nat) (f : Task → Task) : (s.modTask t f).sched = s.sched := rfl
@[simp] theorem State.modTask_focus (s : State) (t : Nat) (f : Task → Task) : (s.modTask t f).focus = s.focus := rfl
@[simp] theorem State.modTask_ctxs (s : State) (t : Nat) (f : Task → Task) : (s.modTask t f).ctxs = s.ctxs := rfl
@[simp] theorem State.modTask_nextTask (s : State) (t : Nat) (f : Task → Task) : (s.modTask t f).nextTask = s.nextTask := rfl
@[simp] theorem State.modTask_cores (s : State) (t : Nat) (f : Task → Task) : (s.modTask t f).cores = s.cores := rfl
@[simp] theorem State.modTask_kilns (s : State) (t : Nat) (f : Task → Task) : (s.modTask t f).kilns = s.kilns := rfl
@[simp] theorem State.modTask_vds (s : State) (t : Nat) (f : Task → Task) : (s.modTask t f).vds = s.vds := rfl
@[simp] theorem State.modTask_mem (s : State) (t : Nat) (f : Task → Task) : (s.modTask t f).mem = s.mem := rfl
@[simp] theorem State.modTask_tags (s : State) (t : Nat) (f : Task → Task) : (s.modTask t f).tags = s.tags := rfl
@[simp] theorem State.modTask_hbm (s : State) (t : Nat) (f : Task → Task) : (s.modTask t f).hbm = s.hbm := rfl
@[simp] theorem State.modTask_pkg (s : State) (t : Nat) (f : Task → Task) : (s.modTask t f).pkg = s.pkg := rfl
@[simp] theorem State.modTask_coh (s : State) (t : Nat) (f : Task → Task) : (s.modTask t f).coh = s.coh := rfl
@[simp] theorem State.modTask_launches (s : State) (t : Nat) (f : Task → Task) : (s.modTask t f).launches = s.launches := rfl
@[simp] theorem State.modTask_nextLaunch (s : State) (t : Nat) (f : Task → Task) : (s.modTask t f).nextLaunch = s.nextLaunch := rfl
@[simp] theorem State.modTask_creds (s : State) (t : Nat) (f : Task → Task) : (s.modTask t f).creds = s.creds := rfl
@[simp] theorem State.modTask_out (s : State) (t : Nat) (f : Task → Task) : (s.modTask t f).out = s.out := rfl

/-! setLaunch writes launches alone. -/

@[simp] theorem State.setLaunch_now (s : State) (l : Nat) (x : Option Launch) : (s.setLaunch l x).now = s.now := rfl
@[simp] theorem State.setLaunch_ticks (s : State) (l : Nat) (x : Option Launch) : (s.setLaunch l x).ticks = s.ticks := rfl
@[simp] theorem State.setLaunch_sched (s : State) (l : Nat) (x : Option Launch) : (s.setLaunch l x).sched = s.sched := rfl
@[simp] theorem State.setLaunch_focus (s : State) (l : Nat) (x : Option Launch) : (s.setLaunch l x).focus = s.focus := rfl
@[simp] theorem State.setLaunch_ctxs (s : State) (l : Nat) (x : Option Launch) : (s.setLaunch l x).ctxs = s.ctxs := rfl
@[simp] theorem State.setLaunch_tasks (s : State) (l : Nat) (x : Option Launch) : (s.setLaunch l x).tasks = s.tasks := rfl
@[simp] theorem State.setLaunch_nextTask (s : State) (l : Nat) (x : Option Launch) : (s.setLaunch l x).nextTask = s.nextTask := rfl
@[simp] theorem State.setLaunch_cores (s : State) (l : Nat) (x : Option Launch) : (s.setLaunch l x).cores = s.cores := rfl
@[simp] theorem State.setLaunch_kilns (s : State) (l : Nat) (x : Option Launch) : (s.setLaunch l x).kilns = s.kilns := rfl
@[simp] theorem State.setLaunch_vds (s : State) (l : Nat) (x : Option Launch) : (s.setLaunch l x).vds = s.vds := rfl
@[simp] theorem State.setLaunch_mem (s : State) (l : Nat) (x : Option Launch) : (s.setLaunch l x).mem = s.mem := rfl
@[simp] theorem State.setLaunch_tags (s : State) (l : Nat) (x : Option Launch) : (s.setLaunch l x).tags = s.tags := rfl
@[simp] theorem State.setLaunch_hbm (s : State) (l : Nat) (x : Option Launch) : (s.setLaunch l x).hbm = s.hbm := rfl
@[simp] theorem State.setLaunch_pkg (s : State) (l : Nat) (x : Option Launch) : (s.setLaunch l x).pkg = s.pkg := rfl
@[simp] theorem State.setLaunch_coh (s : State) (l : Nat) (x : Option Launch) : (s.setLaunch l x).coh = s.coh := rfl
@[simp] theorem State.setLaunch_nextLaunch (s : State) (l : Nat) (x : Option Launch) : (s.setLaunch l x).nextLaunch = s.nextLaunch := rfl
@[simp] theorem State.setLaunch_creds (s : State) (l : Nat) (x : Option Launch) : (s.setLaunch l x).creds = s.creds := rfl
@[simp] theorem State.setLaunch_out (s : State) (l : Nat) (x : Option Launch) : (s.setLaunch l x).out = s.out := rfl

/-! modLaunch writes launches alone. -/

@[simp] theorem State.modLaunch_now (s : State) (l : Nat) (f : Launch → Launch) : (s.modLaunch l f).now = s.now := rfl
@[simp] theorem State.modLaunch_ticks (s : State) (l : Nat) (f : Launch → Launch) : (s.modLaunch l f).ticks = s.ticks := rfl
@[simp] theorem State.modLaunch_sched (s : State) (l : Nat) (f : Launch → Launch) : (s.modLaunch l f).sched = s.sched := rfl
@[simp] theorem State.modLaunch_focus (s : State) (l : Nat) (f : Launch → Launch) : (s.modLaunch l f).focus = s.focus := rfl
@[simp] theorem State.modLaunch_ctxs (s : State) (l : Nat) (f : Launch → Launch) : (s.modLaunch l f).ctxs = s.ctxs := rfl
@[simp] theorem State.modLaunch_tasks (s : State) (l : Nat) (f : Launch → Launch) : (s.modLaunch l f).tasks = s.tasks := rfl
@[simp] theorem State.modLaunch_nextTask (s : State) (l : Nat) (f : Launch → Launch) : (s.modLaunch l f).nextTask = s.nextTask := rfl
@[simp] theorem State.modLaunch_cores (s : State) (l : Nat) (f : Launch → Launch) : (s.modLaunch l f).cores = s.cores := rfl
@[simp] theorem State.modLaunch_kilns (s : State) (l : Nat) (f : Launch → Launch) : (s.modLaunch l f).kilns = s.kilns := rfl
@[simp] theorem State.modLaunch_vds (s : State) (l : Nat) (f : Launch → Launch) : (s.modLaunch l f).vds = s.vds := rfl
@[simp] theorem State.modLaunch_mem (s : State) (l : Nat) (f : Launch → Launch) : (s.modLaunch l f).mem = s.mem := rfl
@[simp] theorem State.modLaunch_tags (s : State) (l : Nat) (f : Launch → Launch) : (s.modLaunch l f).tags = s.tags := rfl
@[simp] theorem State.modLaunch_hbm (s : State) (l : Nat) (f : Launch → Launch) : (s.modLaunch l f).hbm = s.hbm := rfl
@[simp] theorem State.modLaunch_pkg (s : State) (l : Nat) (f : Launch → Launch) : (s.modLaunch l f).pkg = s.pkg := rfl
@[simp] theorem State.modLaunch_coh (s : State) (l : Nat) (f : Launch → Launch) : (s.modLaunch l f).coh = s.coh := rfl
@[simp] theorem State.modLaunch_nextLaunch (s : State) (l : Nat) (f : Launch → Launch) : (s.modLaunch l f).nextLaunch = s.nextLaunch := rfl
@[simp] theorem State.modLaunch_creds (s : State) (l : Nat) (f : Launch → Launch) : (s.modLaunch l f).creds = s.creds := rfl
@[simp] theorem State.modLaunch_out (s : State) (l : Nat) (f : Launch → Launch) : (s.modLaunch l f).out = s.out := rfl

/-! setGranule writes hbm alone. -/

@[simp] theorem State.setGranule_now (s : State) (g : Nat) (x : Granule) : (s.setGranule g x).now = s.now := rfl
@[simp] theorem State.setGranule_ticks (s : State) (g : Nat) (x : Granule) : (s.setGranule g x).ticks = s.ticks := rfl
@[simp] theorem State.setGranule_sched (s : State) (g : Nat) (x : Granule) : (s.setGranule g x).sched = s.sched := rfl
@[simp] theorem State.setGranule_focus (s : State) (g : Nat) (x : Granule) : (s.setGranule g x).focus = s.focus := rfl
@[simp] theorem State.setGranule_ctxs (s : State) (g : Nat) (x : Granule) : (s.setGranule g x).ctxs = s.ctxs := rfl
@[simp] theorem State.setGranule_tasks (s : State) (g : Nat) (x : Granule) : (s.setGranule g x).tasks = s.tasks := rfl
@[simp] theorem State.setGranule_nextTask (s : State) (g : Nat) (x : Granule) : (s.setGranule g x).nextTask = s.nextTask := rfl
@[simp] theorem State.setGranule_cores (s : State) (g : Nat) (x : Granule) : (s.setGranule g x).cores = s.cores := rfl
@[simp] theorem State.setGranule_kilns (s : State) (g : Nat) (x : Granule) : (s.setGranule g x).kilns = s.kilns := rfl
@[simp] theorem State.setGranule_vds (s : State) (g : Nat) (x : Granule) : (s.setGranule g x).vds = s.vds := rfl
@[simp] theorem State.setGranule_mem (s : State) (g : Nat) (x : Granule) : (s.setGranule g x).mem = s.mem := rfl
@[simp] theorem State.setGranule_tags (s : State) (g : Nat) (x : Granule) : (s.setGranule g x).tags = s.tags := rfl
@[simp] theorem State.setGranule_pkg (s : State) (g : Nat) (x : Granule) : (s.setGranule g x).pkg = s.pkg := rfl
@[simp] theorem State.setGranule_coh (s : State) (g : Nat) (x : Granule) : (s.setGranule g x).coh = s.coh := rfl
@[simp] theorem State.setGranule_launches (s : State) (g : Nat) (x : Granule) : (s.setGranule g x).launches = s.launches := rfl
@[simp] theorem State.setGranule_nextLaunch (s : State) (g : Nat) (x : Granule) : (s.setGranule g x).nextLaunch = s.nextLaunch := rfl
@[simp] theorem State.setGranule_creds (s : State) (g : Nat) (x : Granule) : (s.setGranule g x).creds = s.creds := rfl
@[simp] theorem State.setGranule_out (s : State) (g : Nat) (x : Granule) : (s.setGranule g x).out = s.out := rfl

/-! setWindow writes pkg alone. -/

@[simp] theorem State.setWindow_now (s : State) (w : Nat) (x : Window) : (s.setWindow w x).now = s.now := rfl
@[simp] theorem State.setWindow_ticks (s : State) (w : Nat) (x : Window) : (s.setWindow w x).ticks = s.ticks := rfl
@[simp] theorem State.setWindow_sched (s : State) (w : Nat) (x : Window) : (s.setWindow w x).sched = s.sched := rfl
@[simp] theorem State.setWindow_focus (s : State) (w : Nat) (x : Window) : (s.setWindow w x).focus = s.focus := rfl
@[simp] theorem State.setWindow_ctxs (s : State) (w : Nat) (x : Window) : (s.setWindow w x).ctxs = s.ctxs := rfl
@[simp] theorem State.setWindow_tasks (s : State) (w : Nat) (x : Window) : (s.setWindow w x).tasks = s.tasks := rfl
@[simp] theorem State.setWindow_nextTask (s : State) (w : Nat) (x : Window) : (s.setWindow w x).nextTask = s.nextTask := rfl
@[simp] theorem State.setWindow_cores (s : State) (w : Nat) (x : Window) : (s.setWindow w x).cores = s.cores := rfl
@[simp] theorem State.setWindow_kilns (s : State) (w : Nat) (x : Window) : (s.setWindow w x).kilns = s.kilns := rfl
@[simp] theorem State.setWindow_vds (s : State) (w : Nat) (x : Window) : (s.setWindow w x).vds = s.vds := rfl
@[simp] theorem State.setWindow_mem (s : State) (w : Nat) (x : Window) : (s.setWindow w x).mem = s.mem := rfl
@[simp] theorem State.setWindow_tags (s : State) (w : Nat) (x : Window) : (s.setWindow w x).tags = s.tags := rfl
@[simp] theorem State.setWindow_hbm (s : State) (w : Nat) (x : Window) : (s.setWindow w x).hbm = s.hbm := rfl
@[simp] theorem State.setWindow_coh (s : State) (w : Nat) (x : Window) : (s.setWindow w x).coh = s.coh := rfl
@[simp] theorem State.setWindow_launches (s : State) (w : Nat) (x : Window) : (s.setWindow w x).launches = s.launches := rfl
@[simp] theorem State.setWindow_nextLaunch (s : State) (w : Nat) (x : Window) : (s.setWindow w x).nextLaunch = s.nextLaunch := rfl
@[simp] theorem State.setWindow_creds (s : State) (w : Nat) (x : Window) : (s.setWindow w x).creds = s.creds := rfl
@[simp] theorem State.setWindow_out (s : State) (w : Nat) (x : Window) : (s.setWindow w x).out = s.out := rfl

/-! send writes out alone. -/

@[simp] theorem State.send_now (s : State) (x : Signal) : (s.send x).now = s.now := rfl
@[simp] theorem State.send_ticks (s : State) (x : Signal) : (s.send x).ticks = s.ticks := rfl
@[simp] theorem State.send_sched (s : State) (x : Signal) : (s.send x).sched = s.sched := rfl
@[simp] theorem State.send_focus (s : State) (x : Signal) : (s.send x).focus = s.focus := rfl
@[simp] theorem State.send_ctxs (s : State) (x : Signal) : (s.send x).ctxs = s.ctxs := rfl
@[simp] theorem State.send_tasks (s : State) (x : Signal) : (s.send x).tasks = s.tasks := rfl
@[simp] theorem State.send_nextTask (s : State) (x : Signal) : (s.send x).nextTask = s.nextTask := rfl
@[simp] theorem State.send_cores (s : State) (x : Signal) : (s.send x).cores = s.cores := rfl
@[simp] theorem State.send_kilns (s : State) (x : Signal) : (s.send x).kilns = s.kilns := rfl
@[simp] theorem State.send_vds (s : State) (x : Signal) : (s.send x).vds = s.vds := rfl
@[simp] theorem State.send_mem (s : State) (x : Signal) : (s.send x).mem = s.mem := rfl
@[simp] theorem State.send_tags (s : State) (x : Signal) : (s.send x).tags = s.tags := rfl
@[simp] theorem State.send_hbm (s : State) (x : Signal) : (s.send x).hbm = s.hbm := rfl
@[simp] theorem State.send_pkg (s : State) (x : Signal) : (s.send x).pkg = s.pkg := rfl
@[simp] theorem State.send_coh (s : State) (x : Signal) : (s.send x).coh = s.coh := rfl
@[simp] theorem State.send_launches (s : State) (x : Signal) : (s.send x).launches = s.launches := rfl
@[simp] theorem State.send_nextLaunch (s : State) (x : Signal) : (s.send x).nextLaunch = s.nextLaunch := rfl
@[simp] theorem State.send_creds (s : State) (x : Signal) : (s.send x).creds = s.creds := rfl

/-! What the accessors read after a write of another part. -/

@[simp] theorem State.setByte_ctx (s : State) (a : Nat) (b : Byte) (k : Nat) : (s.setByte a b).ctx k = s.ctx k := rfl
@[simp] theorem State.setByte_core (s : State) (a : Nat) (b : Byte) (k : Nat) : (s.setByte a b).core k = s.core k := rfl
@[simp] theorem State.setByte_kiln (s : State) (a : Nat) (b : Byte) (k : Nat) : (s.setByte a b).kiln k = s.kiln k := rfl
@[simp] theorem State.setByte_vd (s : State) (a : Nat) (b : Byte) (k : Nat) : (s.setByte a b).vd k = s.vd k := rfl
@[simp] theorem State.setByte_task (s : State) (a : Nat) (b : Byte) (k : Nat) : (s.setByte a b).task k = s.task k := rfl
@[simp] theorem State.setByte_launch (s : State) (a : Nat) (b : Byte) (k : Nat) : (s.setByte a b).launch k = s.launch k := rfl
@[simp] theorem State.setByte_tag (s : State) (a : Nat) (b : Byte) (k : Nat) : (s.setByte a b).tag k = s.tag k := rfl
@[simp] theorem State.setByte_granule (s : State) (a : Nat) (b : Byte) (k : Nat) : (s.setByte a b).granule k = s.granule k := rfl
@[simp] theorem State.setByte_window (s : State) (a : Nat) (b : Byte) (k : Nat) : (s.setByte a b).window k = s.window k := rfl
@[simp] theorem State.setTag_ctx (s : State) (n : Nat) (t : Tag) (k : Nat) : (s.setTag n t).ctx k = s.ctx k := rfl
@[simp] theorem State.setTag_core (s : State) (n : Nat) (t : Tag) (k : Nat) : (s.setTag n t).core k = s.core k := rfl
@[simp] theorem State.setTag_kiln (s : State) (n : Nat) (t : Tag) (k : Nat) : (s.setTag n t).kiln k = s.kiln k := rfl
@[simp] theorem State.setTag_vd (s : State) (n : Nat) (t : Tag) (k : Nat) : (s.setTag n t).vd k = s.vd k := rfl
@[simp] theorem State.setTag_task (s : State) (n : Nat) (t : Tag) (k : Nat) : (s.setTag n t).task k = s.task k := rfl
@[simp] theorem State.setTag_launch (s : State) (n : Nat) (t : Tag) (k : Nat) : (s.setTag n t).launch k = s.launch k := rfl
@[simp] theorem State.setTag_byte (s : State) (n : Nat) (t : Tag) (k : Nat) : (s.setTag n t).byte k = s.byte k := rfl
@[simp] theorem State.setTag_granule (s : State) (n : Nat) (t : Tag) (k : Nat) : (s.setTag n t).granule k = s.granule k := rfl
@[simp] theorem State.setTag_window (s : State) (n : Nat) (t : Tag) (k : Nat) : (s.setTag n t).window k = s.window k := rfl
@[simp] theorem State.setCtx_core (s : State) (j : Nat) (c : Ctx) (k : Nat) : (s.setCtx j c).core k = s.core k := rfl
@[simp] theorem State.setCtx_kiln (s : State) (j : Nat) (c : Ctx) (k : Nat) : (s.setCtx j c).kiln k = s.kiln k := rfl
@[simp] theorem State.setCtx_vd (s : State) (j : Nat) (c : Ctx) (k : Nat) : (s.setCtx j c).vd k = s.vd k := rfl
@[simp] theorem State.setCtx_task (s : State) (j : Nat) (c : Ctx) (k : Nat) : (s.setCtx j c).task k = s.task k := rfl
@[simp] theorem State.setCtx_launch (s : State) (j : Nat) (c : Ctx) (k : Nat) : (s.setCtx j c).launch k = s.launch k := rfl
@[simp] theorem State.setCtx_byte (s : State) (j : Nat) (c : Ctx) (k : Nat) : (s.setCtx j c).byte k = s.byte k := rfl
@[simp] theorem State.setCtx_tag (s : State) (j : Nat) (c : Ctx) (k : Nat) : (s.setCtx j c).tag k = s.tag k := rfl
@[simp] theorem State.setCtx_granule (s : State) (j : Nat) (c : Ctx) (k : Nat) : (s.setCtx j c).granule k = s.granule k := rfl
@[simp] theorem State.setCtx_window (s : State) (j : Nat) (c : Ctx) (k : Nat) : (s.setCtx j c).window k = s.window k := rfl
@[simp] theorem State.modCtx_core (s : State) (j : Nat) (f : Ctx → Ctx) (k : Nat) : (s.modCtx j f).core k = s.core k := rfl
@[simp] theorem State.modCtx_kiln (s : State) (j : Nat) (f : Ctx → Ctx) (k : Nat) : (s.modCtx j f).kiln k = s.kiln k := rfl
@[simp] theorem State.modCtx_vd (s : State) (j : Nat) (f : Ctx → Ctx) (k : Nat) : (s.modCtx j f).vd k = s.vd k := rfl
@[simp] theorem State.modCtx_task (s : State) (j : Nat) (f : Ctx → Ctx) (k : Nat) : (s.modCtx j f).task k = s.task k := rfl
@[simp] theorem State.modCtx_launch (s : State) (j : Nat) (f : Ctx → Ctx) (k : Nat) : (s.modCtx j f).launch k = s.launch k := rfl
@[simp] theorem State.modCtx_byte (s : State) (j : Nat) (f : Ctx → Ctx) (k : Nat) : (s.modCtx j f).byte k = s.byte k := rfl
@[simp] theorem State.modCtx_tag (s : State) (j : Nat) (f : Ctx → Ctx) (k : Nat) : (s.modCtx j f).tag k = s.tag k := rfl
@[simp] theorem State.modCtx_granule (s : State) (j : Nat) (f : Ctx → Ctx) (k : Nat) : (s.modCtx j f).granule k = s.granule k := rfl
@[simp] theorem State.modCtx_window (s : State) (j : Nat) (f : Ctx → Ctx) (k : Nat) : (s.modCtx j f).window k = s.window k := rfl
@[simp] theorem State.setCore_ctx (s : State) (j : Nat) (x : Core) (k : Nat) : (s.setCore j x).ctx k = s.ctx k := rfl
@[simp] theorem State.setCore_kiln (s : State) (j : Nat) (x : Core) (k : Nat) : (s.setCore j x).kiln k = s.kiln k := rfl
@[simp] theorem State.setCore_vd (s : State) (j : Nat) (x : Core) (k : Nat) : (s.setCore j x).vd k = s.vd k := rfl
@[simp] theorem State.setCore_task (s : State) (j : Nat) (x : Core) (k : Nat) : (s.setCore j x).task k = s.task k := rfl
@[simp] theorem State.setCore_launch (s : State) (j : Nat) (x : Core) (k : Nat) : (s.setCore j x).launch k = s.launch k := rfl
@[simp] theorem State.setCore_byte (s : State) (j : Nat) (x : Core) (k : Nat) : (s.setCore j x).byte k = s.byte k := rfl
@[simp] theorem State.setCore_tag (s : State) (j : Nat) (x : Core) (k : Nat) : (s.setCore j x).tag k = s.tag k := rfl
@[simp] theorem State.setCore_granule (s : State) (j : Nat) (x : Core) (k : Nat) : (s.setCore j x).granule k = s.granule k := rfl
@[simp] theorem State.setCore_window (s : State) (j : Nat) (x : Core) (k : Nat) : (s.setCore j x).window k = s.window k := rfl
@[simp] theorem State.modCore_ctx (s : State) (j : Nat) (f : Core → Core) (k : Nat) : (s.modCore j f).ctx k = s.ctx k := rfl
@[simp] theorem State.modCore_kiln (s : State) (j : Nat) (f : Core → Core) (k : Nat) : (s.modCore j f).kiln k = s.kiln k := rfl
@[simp] theorem State.modCore_vd (s : State) (j : Nat) (f : Core → Core) (k : Nat) : (s.modCore j f).vd k = s.vd k := rfl
@[simp] theorem State.modCore_task (s : State) (j : Nat) (f : Core → Core) (k : Nat) : (s.modCore j f).task k = s.task k := rfl
@[simp] theorem State.modCore_launch (s : State) (j : Nat) (f : Core → Core) (k : Nat) : (s.modCore j f).launch k = s.launch k := rfl
@[simp] theorem State.modCore_byte (s : State) (j : Nat) (f : Core → Core) (k : Nat) : (s.modCore j f).byte k = s.byte k := rfl
@[simp] theorem State.modCore_tag (s : State) (j : Nat) (f : Core → Core) (k : Nat) : (s.modCore j f).tag k = s.tag k := rfl
@[simp] theorem State.modCore_granule (s : State) (j : Nat) (f : Core → Core) (k : Nat) : (s.modCore j f).granule k = s.granule k := rfl
@[simp] theorem State.modCore_window (s : State) (j : Nat) (f : Core → Core) (k : Nat) : (s.modCore j f).window k = s.window k := rfl
@[simp] theorem State.setKiln_ctx (s : State) (j : Nat) (x : Kiln) (k : Nat) : (s.setKiln j x).ctx k = s.ctx k := rfl
@[simp] theorem State.setKiln_core (s : State) (j : Nat) (x : Kiln) (k : Nat) : (s.setKiln j x).core k = s.core k := rfl
@[simp] theorem State.setKiln_vd (s : State) (j : Nat) (x : Kiln) (k : Nat) : (s.setKiln j x).vd k = s.vd k := rfl
@[simp] theorem State.setKiln_task (s : State) (j : Nat) (x : Kiln) (k : Nat) : (s.setKiln j x).task k = s.task k := rfl
@[simp] theorem State.setKiln_launch (s : State) (j : Nat) (x : Kiln) (k : Nat) : (s.setKiln j x).launch k = s.launch k := rfl
@[simp] theorem State.setKiln_byte (s : State) (j : Nat) (x : Kiln) (k : Nat) : (s.setKiln j x).byte k = s.byte k := rfl
@[simp] theorem State.setKiln_tag (s : State) (j : Nat) (x : Kiln) (k : Nat) : (s.setKiln j x).tag k = s.tag k := rfl
@[simp] theorem State.setKiln_granule (s : State) (j : Nat) (x : Kiln) (k : Nat) : (s.setKiln j x).granule k = s.granule k := rfl
@[simp] theorem State.setKiln_window (s : State) (j : Nat) (x : Kiln) (k : Nat) : (s.setKiln j x).window k = s.window k := rfl
@[simp] theorem State.modKiln_ctx (s : State) (j : Nat) (f : Kiln → Kiln) (k : Nat) : (s.modKiln j f).ctx k = s.ctx k := rfl
@[simp] theorem State.modKiln_core (s : State) (j : Nat) (f : Kiln → Kiln) (k : Nat) : (s.modKiln j f).core k = s.core k := rfl
@[simp] theorem State.modKiln_vd (s : State) (j : Nat) (f : Kiln → Kiln) (k : Nat) : (s.modKiln j f).vd k = s.vd k := rfl
@[simp] theorem State.modKiln_task (s : State) (j : Nat) (f : Kiln → Kiln) (k : Nat) : (s.modKiln j f).task k = s.task k := rfl
@[simp] theorem State.modKiln_launch (s : State) (j : Nat) (f : Kiln → Kiln) (k : Nat) : (s.modKiln j f).launch k = s.launch k := rfl
@[simp] theorem State.modKiln_byte (s : State) (j : Nat) (f : Kiln → Kiln) (k : Nat) : (s.modKiln j f).byte k = s.byte k := rfl
@[simp] theorem State.modKiln_tag (s : State) (j : Nat) (f : Kiln → Kiln) (k : Nat) : (s.modKiln j f).tag k = s.tag k := rfl
@[simp] theorem State.modKiln_granule (s : State) (j : Nat) (f : Kiln → Kiln) (k : Nat) : (s.modKiln j f).granule k = s.granule k := rfl
@[simp] theorem State.modKiln_window (s : State) (j : Nat) (f : Kiln → Kiln) (k : Nat) : (s.modKiln j f).window k = s.window k := rfl
@[simp] theorem State.setVd_ctx (s : State) (v : Nat) (x : Vd) (k : Nat) : (s.setVd v x).ctx k = s.ctx k := rfl
@[simp] theorem State.setVd_core (s : State) (v : Nat) (x : Vd) (k : Nat) : (s.setVd v x).core k = s.core k := rfl
@[simp] theorem State.setVd_kiln (s : State) (v : Nat) (x : Vd) (k : Nat) : (s.setVd v x).kiln k = s.kiln k := rfl
@[simp] theorem State.setVd_task (s : State) (v : Nat) (x : Vd) (k : Nat) : (s.setVd v x).task k = s.task k := rfl
@[simp] theorem State.setVd_launch (s : State) (v : Nat) (x : Vd) (k : Nat) : (s.setVd v x).launch k = s.launch k := rfl
@[simp] theorem State.setVd_byte (s : State) (v : Nat) (x : Vd) (k : Nat) : (s.setVd v x).byte k = s.byte k := rfl
@[simp] theorem State.setVd_tag (s : State) (v : Nat) (x : Vd) (k : Nat) : (s.setVd v x).tag k = s.tag k := rfl
@[simp] theorem State.setVd_granule (s : State) (v : Nat) (x : Vd) (k : Nat) : (s.setVd v x).granule k = s.granule k := rfl
@[simp] theorem State.setVd_window (s : State) (v : Nat) (x : Vd) (k : Nat) : (s.setVd v x).window k = s.window k := rfl
@[simp] theorem State.modVd_ctx (s : State) (v : Nat) (f : Vd → Vd) (k : Nat) : (s.modVd v f).ctx k = s.ctx k := rfl
@[simp] theorem State.modVd_core (s : State) (v : Nat) (f : Vd → Vd) (k : Nat) : (s.modVd v f).core k = s.core k := rfl
@[simp] theorem State.modVd_kiln (s : State) (v : Nat) (f : Vd → Vd) (k : Nat) : (s.modVd v f).kiln k = s.kiln k := rfl
@[simp] theorem State.modVd_task (s : State) (v : Nat) (f : Vd → Vd) (k : Nat) : (s.modVd v f).task k = s.task k := rfl
@[simp] theorem State.modVd_launch (s : State) (v : Nat) (f : Vd → Vd) (k : Nat) : (s.modVd v f).launch k = s.launch k := rfl
@[simp] theorem State.modVd_byte (s : State) (v : Nat) (f : Vd → Vd) (k : Nat) : (s.modVd v f).byte k = s.byte k := rfl
@[simp] theorem State.modVd_tag (s : State) (v : Nat) (f : Vd → Vd) (k : Nat) : (s.modVd v f).tag k = s.tag k := rfl
@[simp] theorem State.modVd_granule (s : State) (v : Nat) (f : Vd → Vd) (k : Nat) : (s.modVd v f).granule k = s.granule k := rfl
@[simp] theorem State.modVd_window (s : State) (v : Nat) (f : Vd → Vd) (k : Nat) : (s.modVd v f).window k = s.window k := rfl
@[simp] theorem State.setTask_ctx (s : State) (t : Nat) (x : Option Task) (k : Nat) : (s.setTask t x).ctx k = s.ctx k := rfl
@[simp] theorem State.setTask_core (s : State) (t : Nat) (x : Option Task) (k : Nat) : (s.setTask t x).core k = s.core k := rfl
@[simp] theorem State.setTask_kiln (s : State) (t : Nat) (x : Option Task) (k : Nat) : (s.setTask t x).kiln k = s.kiln k := rfl
@[simp] theorem State.setTask_vd (s : State) (t : Nat) (x : Option Task) (k : Nat) : (s.setTask t x).vd k = s.vd k := rfl
@[simp] theorem State.setTask_launch (s : State) (t : Nat) (x : Option Task) (k : Nat) : (s.setTask t x).launch k = s.launch k := rfl
@[simp] theorem State.setTask_byte (s : State) (t : Nat) (x : Option Task) (k : Nat) : (s.setTask t x).byte k = s.byte k := rfl
@[simp] theorem State.setTask_tag (s : State) (t : Nat) (x : Option Task) (k : Nat) : (s.setTask t x).tag k = s.tag k := rfl
@[simp] theorem State.setTask_granule (s : State) (t : Nat) (x : Option Task) (k : Nat) : (s.setTask t x).granule k = s.granule k := rfl
@[simp] theorem State.setTask_window (s : State) (t : Nat) (x : Option Task) (k : Nat) : (s.setTask t x).window k = s.window k := rfl
@[simp] theorem State.modTask_ctx (s : State) (t : Nat) (f : Task → Task) (k : Nat) : (s.modTask t f).ctx k = s.ctx k := rfl
@[simp] theorem State.modTask_core (s : State) (t : Nat) (f : Task → Task) (k : Nat) : (s.modTask t f).core k = s.core k := rfl
@[simp] theorem State.modTask_kiln (s : State) (t : Nat) (f : Task → Task) (k : Nat) : (s.modTask t f).kiln k = s.kiln k := rfl
@[simp] theorem State.modTask_vd (s : State) (t : Nat) (f : Task → Task) (k : Nat) : (s.modTask t f).vd k = s.vd k := rfl
@[simp] theorem State.modTask_launch (s : State) (t : Nat) (f : Task → Task) (k : Nat) : (s.modTask t f).launch k = s.launch k := rfl
@[simp] theorem State.modTask_byte (s : State) (t : Nat) (f : Task → Task) (k : Nat) : (s.modTask t f).byte k = s.byte k := rfl
@[simp] theorem State.modTask_tag (s : State) (t : Nat) (f : Task → Task) (k : Nat) : (s.modTask t f).tag k = s.tag k := rfl
@[simp] theorem State.modTask_granule (s : State) (t : Nat) (f : Task → Task) (k : Nat) : (s.modTask t f).granule k = s.granule k := rfl
@[simp] theorem State.modTask_window (s : State) (t : Nat) (f : Task → Task) (k : Nat) : (s.modTask t f).window k = s.window k := rfl
@[simp] theorem State.setLaunch_ctx (s : State) (l : Nat) (x : Option Launch) (k : Nat) : (s.setLaunch l x).ctx k = s.ctx k := rfl
@[simp] theorem State.setLaunch_core (s : State) (l : Nat) (x : Option Launch) (k : Nat) : (s.setLaunch l x).core k = s.core k := rfl
@[simp] theorem State.setLaunch_kiln (s : State) (l : Nat) (x : Option Launch) (k : Nat) : (s.setLaunch l x).kiln k = s.kiln k := rfl
@[simp] theorem State.setLaunch_vd (s : State) (l : Nat) (x : Option Launch) (k : Nat) : (s.setLaunch l x).vd k = s.vd k := rfl
@[simp] theorem State.setLaunch_task (s : State) (l : Nat) (x : Option Launch) (k : Nat) : (s.setLaunch l x).task k = s.task k := rfl
@[simp] theorem State.setLaunch_byte (s : State) (l : Nat) (x : Option Launch) (k : Nat) : (s.setLaunch l x).byte k = s.byte k := rfl
@[simp] theorem State.setLaunch_tag (s : State) (l : Nat) (x : Option Launch) (k : Nat) : (s.setLaunch l x).tag k = s.tag k := rfl
@[simp] theorem State.setLaunch_granule (s : State) (l : Nat) (x : Option Launch) (k : Nat) : (s.setLaunch l x).granule k = s.granule k := rfl
@[simp] theorem State.setLaunch_window (s : State) (l : Nat) (x : Option Launch) (k : Nat) : (s.setLaunch l x).window k = s.window k := rfl
@[simp] theorem State.modLaunch_ctx (s : State) (l : Nat) (f : Launch → Launch) (k : Nat) : (s.modLaunch l f).ctx k = s.ctx k := rfl
@[simp] theorem State.modLaunch_core (s : State) (l : Nat) (f : Launch → Launch) (k : Nat) : (s.modLaunch l f).core k = s.core k := rfl
@[simp] theorem State.modLaunch_kiln (s : State) (l : Nat) (f : Launch → Launch) (k : Nat) : (s.modLaunch l f).kiln k = s.kiln k := rfl
@[simp] theorem State.modLaunch_vd (s : State) (l : Nat) (f : Launch → Launch) (k : Nat) : (s.modLaunch l f).vd k = s.vd k := rfl
@[simp] theorem State.modLaunch_task (s : State) (l : Nat) (f : Launch → Launch) (k : Nat) : (s.modLaunch l f).task k = s.task k := rfl
@[simp] theorem State.modLaunch_byte (s : State) (l : Nat) (f : Launch → Launch) (k : Nat) : (s.modLaunch l f).byte k = s.byte k := rfl
@[simp] theorem State.modLaunch_tag (s : State) (l : Nat) (f : Launch → Launch) (k : Nat) : (s.modLaunch l f).tag k = s.tag k := rfl
@[simp] theorem State.modLaunch_granule (s : State) (l : Nat) (f : Launch → Launch) (k : Nat) : (s.modLaunch l f).granule k = s.granule k := rfl
@[simp] theorem State.modLaunch_window (s : State) (l : Nat) (f : Launch → Launch) (k : Nat) : (s.modLaunch l f).window k = s.window k := rfl
@[simp] theorem State.setGranule_ctx (s : State) (g : Nat) (x : Granule) (k : Nat) : (s.setGranule g x).ctx k = s.ctx k := rfl
@[simp] theorem State.setGranule_core (s : State) (g : Nat) (x : Granule) (k : Nat) : (s.setGranule g x).core k = s.core k := rfl
@[simp] theorem State.setGranule_kiln (s : State) (g : Nat) (x : Granule) (k : Nat) : (s.setGranule g x).kiln k = s.kiln k := rfl
@[simp] theorem State.setGranule_vd (s : State) (g : Nat) (x : Granule) (k : Nat) : (s.setGranule g x).vd k = s.vd k := rfl
@[simp] theorem State.setGranule_task (s : State) (g : Nat) (x : Granule) (k : Nat) : (s.setGranule g x).task k = s.task k := rfl
@[simp] theorem State.setGranule_launch (s : State) (g : Nat) (x : Granule) (k : Nat) : (s.setGranule g x).launch k = s.launch k := rfl
@[simp] theorem State.setGranule_byte (s : State) (g : Nat) (x : Granule) (k : Nat) : (s.setGranule g x).byte k = s.byte k := rfl
@[simp] theorem State.setGranule_tag (s : State) (g : Nat) (x : Granule) (k : Nat) : (s.setGranule g x).tag k = s.tag k := rfl
@[simp] theorem State.setGranule_window (s : State) (g : Nat) (x : Granule) (k : Nat) : (s.setGranule g x).window k = s.window k := rfl
@[simp] theorem State.setWindow_ctx (s : State) (w : Nat) (x : Window) (k : Nat) : (s.setWindow w x).ctx k = s.ctx k := rfl
@[simp] theorem State.setWindow_core (s : State) (w : Nat) (x : Window) (k : Nat) : (s.setWindow w x).core k = s.core k := rfl
@[simp] theorem State.setWindow_kiln (s : State) (w : Nat) (x : Window) (k : Nat) : (s.setWindow w x).kiln k = s.kiln k := rfl
@[simp] theorem State.setWindow_vd (s : State) (w : Nat) (x : Window) (k : Nat) : (s.setWindow w x).vd k = s.vd k := rfl
@[simp] theorem State.setWindow_task (s : State) (w : Nat) (x : Window) (k : Nat) : (s.setWindow w x).task k = s.task k := rfl
@[simp] theorem State.setWindow_launch (s : State) (w : Nat) (x : Window) (k : Nat) : (s.setWindow w x).launch k = s.launch k := rfl
@[simp] theorem State.setWindow_byte (s : State) (w : Nat) (x : Window) (k : Nat) : (s.setWindow w x).byte k = s.byte k := rfl
@[simp] theorem State.setWindow_tag (s : State) (w : Nat) (x : Window) (k : Nat) : (s.setWindow w x).tag k = s.tag k := rfl
@[simp] theorem State.setWindow_granule (s : State) (w : Nat) (x : Window) (k : Nat) : (s.setWindow w x).granule k = s.granule k := rfl
@[simp] theorem State.send_ctx (s : State) (x : Signal) (k : Nat) : (s.send x).ctx k = s.ctx k := rfl
@[simp] theorem State.send_core (s : State) (x : Signal) (k : Nat) : (s.send x).core k = s.core k := rfl
@[simp] theorem State.send_kiln (s : State) (x : Signal) (k : Nat) : (s.send x).kiln k = s.kiln k := rfl
@[simp] theorem State.send_vd (s : State) (x : Signal) (k : Nat) : (s.send x).vd k = s.vd k := rfl
@[simp] theorem State.send_task (s : State) (x : Signal) (k : Nat) : (s.send x).task k = s.task k := rfl
@[simp] theorem State.send_launch (s : State) (x : Signal) (k : Nat) : (s.send x).launch k = s.launch k := rfl
@[simp] theorem State.send_byte (s : State) (x : Signal) (k : Nat) : (s.send x).byte k = s.byte k := rfl
@[simp] theorem State.send_tag (s : State) (x : Signal) (k : Nat) : (s.send x).tag k = s.tag k := rfl
@[simp] theorem State.send_granule (s : State) (x : Signal) (k : Nat) : (s.send x).granule k = s.granule k := rfl
@[simp] theorem State.send_window (s : State) (x : Signal) (k : Nat) : (s.send x).window k = s.window k := rfl

end Sys2Proof.Machine
end

