-- ==== Sys2Proof/Laws/Store.lean ====
section
/-!
SUPPORT. Sys2Proof/Laws/Store.lean: the laws of the sparse map (read after write, the canonical form kept, equal maps from
equal readings) and of memory, tags and contexts, which are such maps.
-/

namespace Sys2Proof.Machine

open Sys2Proof

variable {β : Type} [DecidableEq β]

omit [DecidableEq β] in
theorem SMap.get_filter_ne (d : β) (k j : Nat) (h : j ≠ k) :
    ∀ m : SMap β, SMap.get d (m.filter fun x => x.1 ≠ k) j = SMap.get d m j
  | [] => rfl
  | (k', v') :: m => by
    have ih := SMap.get_filter_ne d k j h m
    by_cases hk : k' = k
    · have : k' ≠ j := fun e => h (e ▸ hk)
      rw [List.filter_cons_of_neg (by simp [hk]), ih]
      simp [SMap.get, this]
    · rw [List.filter_cons_of_pos (by simp [hk])]
      simp only [SMap.get]
      split
      · rfl
      · exact ih

omit [DecidableEq β] in
theorem SMap.get_filter_self (d : β) (k : Nat) : ∀ m : SMap β, SMap.get d (m.filter fun x => x.1 ≠ k) k = d
  | [] => rfl
  | (k', v') :: m => by
    by_cases hk : k' = k
    · rw [List.filter_cons_of_neg (by simp [hk])]
      exact SMap.get_filter_self d k m
    · rw [List.filter_cons_of_pos (by simp [hk])]
      simp only [SMap.get, hk, if_false]
      exact SMap.get_filter_self d k m

omit [DecidableEq β] in
theorem SMap.get_ins_ne (d : β) (k j : Nat) (v : β) (h : j ≠ k) :
    ∀ m : SMap β, SMap.get d (SMap.ins m k v) j = SMap.get d m j
  | [] => by simp [SMap.ins, SMap.get, Ne.symm h]
  | (k', v') :: m => by
    have ih := SMap.get_ins_ne d k j v h m
    have hk : k ≠ j := Ne.symm h
    unfold SMap.ins
    split
    · simp [SMap.get, hk]
    · split
      · rename_i _ e; subst e; simp [SMap.get, hk]
      · simp only [SMap.get]
        split
        · rfl
        · exact ih

omit [DecidableEq β] in
theorem SMap.get_ins_self (d : β) (k : Nat) (v : β) : ∀ m : SMap β, SMap.get d (SMap.ins m k v) k = v
  | [] => by simp [SMap.ins, SMap.get]
  | (k', v') :: m => by
    unfold SMap.ins
    split
    · simp [SMap.get]
    · split
      · simp [SMap.get]
      · rename_i _ e
        have : k' ≠ k := fun h => e h.symm
        simp only [SMap.get, this, if_false]
        exact SMap.get_ins_self d k v m

/-- A write leaves every other key alone. -/
theorem SMap.get_set_ne (d : β) (m : SMap β) (k j : Nat) (v : β) (h : j ≠ k) :
    SMap.get d (SMap.set d m k v) j = SMap.get d m j := by
  unfold SMap.set
  split
  · exact SMap.get_filter_ne d k j h m
  · exact SMap.get_ins_ne d k j v h m

/-- A read after a write to the same key gives the value written. -/
@[simp] theorem SMap.get_set_self (d : β) (m : SMap β) (k : Nat) (v : β) : SMap.get d (SMap.set d m k v) k = v := by
  unfold SMap.set
  split
  · rename_i h; rw [h]; exact SMap.get_filter_self d k m
  · exact SMap.get_ins_self d k v m

/-- The canonical form from a bound holds from every lower bound. -/
theorem SMap.wfFrom_mono (d : β) {lo lo' : Nat} (h : lo' ≤ lo) :
    ∀ m : SMap β, SMap.wfFrom d lo m = true → SMap.wfFrom d lo' m = true
  | [], _ => rfl
  | (k, v) :: m, hm => by
    simp only [SMap.wfFrom, Bool.and_eq_true, decide_eq_true_eq] at hm ⊢
    exact ⟨⟨by omega, hm.1.2⟩, hm.2⟩

theorem SMap.wfFrom_ins (d : β) (k : Nat) (v : β) (hv : v ≠ d) :
    ∀ (lo : Nat) (m : SMap β), lo ≤ k → SMap.wfFrom d lo m = true → SMap.wfFrom d lo (SMap.ins m k v) = true
  | lo, [], hk, _ => by simp [SMap.ins, SMap.wfFrom, hk, hv]
  | lo, (k', v') :: m, hk, hm => by
    simp only [SMap.wfFrom, Bool.and_eq_true, decide_eq_true_eq] at hm
    obtain ⟨⟨h1, h2⟩, h3⟩ := hm
    unfold SMap.ins
    split
    · simp only [SMap.wfFrom, Bool.and_eq_true, decide_eq_true_eq]
      exact ⟨⟨hk, hv⟩, ⟨by omega, h2⟩, h3⟩
    · split
      · rename_i _ e
        subst e
        simp only [SMap.wfFrom, Bool.and_eq_true, decide_eq_true_eq]
        exact ⟨⟨hk, hv⟩, h3⟩
      · simp only [SMap.wfFrom, Bool.and_eq_true, decide_eq_true_eq]
        exact ⟨⟨h1, h2⟩, SMap.wfFrom_ins d k v hv (k' + 1) m (by omega) h3⟩

/-- Filtering keeps the canonical form. -/
theorem SMap.wfFrom_filter (d : β) (p : Nat × β → Bool) :
    ∀ (lo : Nat) (m : SMap β), SMap.wfFrom d lo m = true → SMap.wfFrom d lo (m.filter p) = true
  | _, [], _ => rfl
  | lo, (k, v) :: m, hm => by
    simp only [SMap.wfFrom, Bool.and_eq_true, decide_eq_true_eq] at hm
    obtain ⟨⟨h1, h2⟩, h3⟩ := hm
    have ih := SMap.wfFrom_filter d p (k + 1) m h3
    by_cases hp : p (k, v) = true
    · rw [List.filter_cons_of_pos hp]
      simp only [SMap.wfFrom, Bool.and_eq_true, decide_eq_true_eq]
      exact ⟨⟨h1, h2⟩, ih⟩
    · rw [List.filter_cons_of_neg hp]
      exact SMap.wfFrom_mono d (by omega) _ ih

theorem SMap.wf_filter (d : β) (p : Nat × β → Bool) (m : SMap β) (h : SMap.wf d m = true) : SMap.wf d (m.filter p) = true :=
  SMap.wfFrom_filter d p 0 m h

/-- A write keeps the canonical form. -/
theorem SMap.wf_set (d : β) (m : SMap β) (k : Nat) (v : β) (h : SMap.wf d m = true) : SMap.wf d (SMap.set d m k v) = true := by
  unfold SMap.set
  split
  · exact SMap.wf_filter d _ m h
  · rename_i hv; exact SMap.wfFrom_ins d k v hv 0 m (Nat.zero_le k) h

/-- What a map gives is its default or listed in it. -/
theorem SMap.get_listed {β : Type} (d : β) (k : Nat) : ∀ m : SMap β, SMap.get d m k = d ∨ ∃ x ∈ m, x.2 = SMap.get d m k
  | [] => .inl rfl
  | (j, v) :: m => by
    by_cases h : j = k
    · exact .inr ⟨(j, v), by simp, by simp [SMap.get, h]⟩
    · rcases get_listed d k m with e | ⟨x, hx, e⟩
      · exact .inl (by simpa [SMap.get, h] using e)
      · exact .inr ⟨x, by simp [hx], by simpa [SMap.get, h] using e⟩

/-! Memory (bytes) and tags. -/

theorem State.setByte_byte_ne (s : State) (a b : Nat) (x : Byte) (h : b ≠ a) : (s.setByte a x).byte b = s.byte b :=
  SMap.get_set_ne _ s.mem a b x h
@[simp] theorem State.setByte_byte (s : State) (a : Nat) (x : Byte) : (s.setByte a x).byte a = x :=
  SMap.get_set_self _ s.mem a x
theorem State.setByte_wf (s : State) (a : Nat) (x : Byte) (h : Memory.wf s.mem = true) : Memory.wf (s.setByte a x).mem = true :=
  SMap.wf_set _ s.mem a x h

theorem State.setBytes_wf (bs : List Byte) : ∀ (s : State) (a : Nat), Memory.wf s.mem = true → Memory.wf (s.setBytes a bs).mem = true := by
  induction bs with
  | nil => intro s a h; exact h
  | cons b bs ih => intro s a h; exact ih _ _ (s.setByte_wf a b h)

/-- A byte of a run that is read. -/
theorem State.bytes_byte (s : State) : ∀ (n a i : Nat), i < n → (s.bytes a n)[i]? = some (s.byte (a + i))
  | 0, _, _, h => absurd h (Nat.not_lt_zero _)
  | _ + 1, _, 0, _ => rfl
  | n + 1, a, i + 1, h => by
    rw [State.bytes, List.getElem?_cons_succ, bytes_byte s n (a + 1) i (by omega), show a + 1 + i = a + (i + 1) by omega]

/-- Bytes outside a written range read as before. -/
theorem State.setBytes_byte_ne (bs : List Byte) :
    ∀ (s : State) (a b : Nat), (b < a ∨ a + bs.length ≤ b) → (s.setBytes a bs).byte b = s.byte b := by
  induction bs with
  | nil => intro s a b _; rfl
  | cons x bs ih =>
    intro s a b h
    simp only [List.length_cons] at h
    rw [State.setBytes, ih _ _ _ (by omega), State.setByte_byte_ne _ _ _ _ (by omega)]

/-- A byte of a written range reads as written. -/
theorem State.setBytes_byte (bs : List Byte) :
    ∀ (s : State) (a i : Nat) (h : i < bs.length), (s.setBytes a bs).byte (a + i) = bs[i] := by
  induction bs with
  | nil => intro s a i h; exact absurd h (Nat.not_lt_zero i)
  | cons x bs ih =>
    intro s a i h
    cases i with
    | zero => rw [State.setBytes, State.setBytes_byte_ne _ _ _ _ (by omega)]; exact s.setByte_byte a x
    | succ i =>
      have h' : i < bs.length := by simpa using h
      have := ih (s.setByte a x) (a + 1) i h'
      rw [State.setBytes, show a + (i + 1) = a + 1 + i by omega, this]; rfl

theorem State.setTag_tag_ne (s : State) (n m : Nat) (t : Tag) (h : m ≠ n) : (s.setTag n t).tag m = s.tag m :=
  SMap.get_set_ne _ s.tags n m t h
@[simp] theorem State.setTag_tag (s : State) (n : Nat) (t : Tag) : (s.setTag n t).tag n = t := SMap.get_set_self _ s.tags n t
theorem State.setTag_wf (s : State) (n : Nat) (t : Tag) (h : SMap.wf unlistedTag s.tags = true) :
    SMap.wf unlistedTag (s.setTag n t).tags = true := SMap.wf_set _ s.tags n t h

/-! Contexts, tasks and the other tables. -/

theorem State.setCtx_ctx_ne (s : State) (k : Nat) (c : Ctx) (j : Nat) (h : j ≠ k) : (s.setCtx k c).ctx j = s.ctx j :=
  SMap.get_set_ne _ s.ctxs k j c h
@[simp] theorem State.setCtx_ctx (s : State) (k : Nat) (c : Ctx) : (s.setCtx k c).ctx k = c := SMap.get_set_self _ s.ctxs k c
theorem State.setTask_task_ne (s : State) (t : Nat) (x : Option Task) (j : Nat) (h : j ≠ t) : (s.setTask t x).task j = s.task j :=
  SMap.get_set_ne _ s.tasks t j x h
@[simp] theorem State.setTask_task (s : State) (t : Nat) (x : Option Task) : (s.setTask t x).task t = x := SMap.get_set_self _ s.tasks t x
theorem State.setCore_core_ne (s : State) (c : Nat) (x : Core) (j : Nat) (h : j ≠ c) : (s.setCore c x).core j = s.core j :=
  SMap.get_set_ne _ s.cores c j x h
@[simp] theorem State.setCore_core (s : State) (c : Nat) (x : Core) : (s.setCore c x).core c = x := SMap.get_set_self _ s.cores c x
theorem State.setKiln_kiln_ne (s : State) (k : Nat) (x : Kiln) (j : Nat) (h : j ≠ k) : (s.setKiln k x).kiln j = s.kiln j :=
  SMap.get_set_ne _ s.kilns k j x h
@[simp] theorem State.setKiln_kiln (s : State) (k : Nat) (x : Kiln) : (s.setKiln k x).kiln k = x := SMap.get_set_self _ s.kilns k x
theorem State.setVd_vd_ne (s : State) (v : Nat) (x : Vd) (j : Nat) (h : j ≠ v) : (s.setVd v x).vd j = s.vd j :=
  SMap.get_set_ne _ s.vds v j x h
@[simp] theorem State.setVd_vd (s : State) (v : Nat) (x : Vd) : (s.setVd v x).vd v = x := SMap.get_set_self _ s.vds v x
theorem State.setLaunch_launch_ne (s : State) (l : Nat) (x : Option Launch) (j : Nat) (h : j ≠ l) : (s.setLaunch l x).launch j = s.launch j :=
  SMap.get_set_ne _ s.launches l j x h
@[simp] theorem State.setLaunch_launch (s : State) (l : Nat) (x : Option Launch) : (s.setLaunch l x).launch l = x := SMap.get_set_self _ s.launches l x
@[simp] theorem State.modCtx_ctx (s : State) (k : Nat) (f : Ctx → Ctx) : (s.modCtx k f).ctx k = f (s.ctx k) := SMap.get_set_self _ _ k _
theorem State.modCtx_ctx_ne (s : State) (k j : Nat) (f : Ctx → Ctx) (h : j ≠ k) : (s.modCtx k f).ctx j = s.ctx j :=
  SMap.get_set_ne _ _ k j _ h
@[simp] theorem State.modCore_core (s : State) (c : Nat) (f : Core → Core) : (s.modCore c f).core c = f (s.core c) := SMap.get_set_self _ _ c _
theorem State.modCore_core_ne (s : State) (c j : Nat) (f : Core → Core) (h : j ≠ c) : (s.modCore c f).core j = s.core j :=
  SMap.get_set_ne _ _ c j _ h
@[simp] theorem State.modKiln_kiln (s : State) (k : Nat) (f : Kiln → Kiln) : (s.modKiln k f).kiln k = f (s.kiln k) := SMap.get_set_self _ _ k _
theorem State.modKiln_kiln_ne (s : State) (k j : Nat) (f : Kiln → Kiln) (h : j ≠ k) : (s.modKiln k f).kiln j = s.kiln j :=
  SMap.get_set_ne _ _ k j _ h
@[simp] theorem State.modVd_vd (s : State) (v : Nat) (f : Vd → Vd) : (s.modVd v f).vd v = f (s.vd v) := SMap.get_set_self _ _ v _
theorem State.modVd_vd_ne (s : State) (v j : Nat) (f : Vd → Vd) (h : j ≠ v) : (s.modVd v f).vd j = s.vd j :=
  SMap.get_set_ne _ _ v j _ h
@[simp] theorem State.modTask_task (s : State) (t : Nat) (f : Task → Task) : (s.modTask t f).task t = (s.task t).map f :=
  SMap.get_set_self _ _ t _
theorem State.modTask_task_ne (s : State) (t j : Nat) (f : Task → Task) (h : j ≠ t) : (s.modTask t f).task j = s.task j :=
  SMap.get_set_ne _ _ t j _ h

end Sys2Proof.Machine
end

