-- ==== Sys2Proof/Laws/Memory.lean ====
section
/-!
SUPPORT. Sys2Proof/Laws/Memory.lean: every operation that writes memory or tags keeps their canonical form, and what each changes: the bytes
under a store's mask, a line's tag, and nothing else of memory.
-/

namespace Sys2Proof.Machine

open Sys2Proof

/-- The form speaks of memory and tags alone. -/
theorem MemOk.congr {s t : State} (h : MemOk s) (m : t.mem = s.mem) (g : t.tags = s.tags) : MemOk t := by
  unfold MemOk at *; rw [m, g]; exact h

theorem MemOk.reset : MemOk State.reset := ⟨rfl, rfl⟩

/-! One byte, a run of bytes, a tag. -/

theorem MemOk.setByte {s : State} (h : MemOk s) (a : Nat) (x : Byte) : MemOk (s.setByte a x) := ⟨State.setByte_wf s a x h.1, h.2⟩

@[simp] theorem State.setBytes_tags (bs : List Byte) : ∀ (s : State) (a : Nat), (s.setBytes a bs).tags = s.tags := by
  induction bs with
  | nil => intro s a; rfl
  | cons b bs ih => intro s a; simpa [State.setBytes, State.setByte] using ih (s.setByte a b) (a + 1)

theorem MemOk.setBytes {s : State} (h : MemOk s) (a : Nat) (bs : List Byte) : MemOk (s.setBytes a bs) :=
  ⟨State.setBytes_wf bs s a h.1, by rw [State.setBytes_tags]; exact h.2⟩

theorem MemOk.setTag {s : State} (h : MemOk s) (n : Nat) (t : Tag) : MemOk (s.setTag n t) := ⟨h.1, State.setTag_wf s n t h.2⟩

/-- Dropping what lies in a region keeps the form. -/
theorem MemOk.drop {s : State} (h : MemOk s) (p q : Nat → Bool) :
    MemOk { s with mem := s.mem.filter fun x => p x.1, tags := s.tags.filter fun x => q x.1 } :=
  ⟨SMap.wf_filter _ _ _ h.1, SMap.wf_filter _ _ _ h.2⟩

/-! A line. -/

/-- The store of masked bytes: its fold, one byte at a time. -/
theorem storeMasked_fold (P : State → Prop) (line : Nat) (data : BitVec 1024) (m : BitVec 128)
    (step : ∀ s j x, P s → P (State.setByte s (line * 128 + j) x)) : ∀ (js : List Nat) (s : State), P s →
    P (js.foldl (fun s j => if m.getLsbD j then State.setByte s (line * 128 + j) (data.extractLsb' (8 * j) 8) else s) s) := by
  intro js
  induction js with
  | nil => intro s h; exact h
  | cons j js ih =>
    intro s h
    simp only [List.foldl_cons]
    split
    · exact ih _ (step _ _ _ h)
    · exact ih _ h

theorem MemOk.storeMasked {s : State} (h : MemOk s) (line : Nat) (data : BitVec 1024) (m : BitVec 128) : MemOk (s.storeMasked line data m) :=
  storeMasked_fold MemOk line data m (fun _ _ _ h => h.setByte _ _) _ _ h

/-- It leaves the bytes of every other line. -/
theorem storeMasked_byte_ne (s : State) (line : Nat) (data : BitVec 1024) (m : BitVec 128) (a : Nat) (h : a / 128 ≠ line) :
    (s.storeMasked line data m).byte a = s.byte a := by
  unfold State.storeMasked
  have key : ∀ (js : List Nat) (v : State), (∀ j ∈ js, j < 128) → v.byte a = s.byte a →
      (js.foldl (fun s j => if m.getLsbD j then State.setByte s (line * 128 + j) (data.extractLsb' (8 * j) 8) else s) v).byte a = s.byte a := by
    intro js
    induction js with
    | nil => intro v _ e; exact e
    | cons j js ih =>
      intro v hj e
      simp only [List.foldl_cons]
      have hlt : j < 128 := hj j (by simp)
      have hjs : ∀ i ∈ js, i < 128 := fun i hi => hj i (by simp [hi])
      split
      · exact ih _ hjs (by rw [State.setByte_byte_ne _ _ _ _ (by omega)]; exact e)
      · exact ih _ hjs e
  exact key _ _ (by simp) rfl

theorem MemOk.setHomeTag {s : State} (h : MemOk s) (line : Nat) (t : Tag) : MemOk (setHomeTag s line t) := by
  unfold Machine.setHomeTag
  dsimp only
  split
  · split
    · exact h
    · exact h.setBytes _ _
  · exact h.setTag _ _

theorem MemOk.mapMonitors {s : State} (h : MemOk s) (f : Nat → Nat → Monitor → Monitor) : MemOk (mapMonitors s f) := h.congr rfl rfl

theorem MemOk.fireMonitors {s : State} (h : MemOk s) (line : Nat) : MemOk (fireMonitors s line) := h.mapMonitors _

theorem MemOk.dropSectors {s : State} (h : MemOk s) (p : Nat → Bool) : MemOk (dropSectors s p) :=
  h.congr rfl rfl

theorem MemOk.forgetLayer {s : State} (h : MemOk s) (p : Nat → Bool) : MemOk (forgetLayer s p) := h.congr rfl rfl

theorem MemOk.dropLines {s : State} (h : MemOk s) (p : Nat → Bool) (fetch : Bool) : MemOk (dropLines s p fetch) :=
  h.congr rfl rfl

theorem MemOk.bumpCounters {s : State} (h : MemOk s) (line : Nat) : MemOk (bumpCounters s line) := by
  unfold Machine.bumpCounters
  split
  · exact h.congr rfl rfl
  · exact h

theorem MemOk.logLine {s : State} (h : MemOk s) (what line : Nat) : MemOk (logLine s what line) := by
  unfold Machine.logLine
  dsimp only
  split <;> exact h.congr rfl rfl

theorem MemOk.clearError {s : State} (h : MemOk s) (line : Nat) : MemOk (Machine.clearError s line) := h.congr rfl rfl

theorem MemOk.markLine {s : State} (h : MemOk s) (line : Nat) : MemOk (Machine.markLine s line) :=
  MemOk.congr (h.setTag line (mkTag (tagFmt (s.tag line)) vcPoison (tagLxp (s.tag line)))) rfl rfl

/-- A write's transfer changes neither memory nor tags. -/
theorem MemOk.meetWrite {s : State} (h : MemOk s) (line : Nat) : MemOk (meetWrite s line).1 := by
  unfold Machine.meetWrite
  split
  · split
    · exact h.logLine _ _
    · split
      · split
        · exact h.congr rfl rfl
        · exact MemOk.congr ((h.clearError line).logLine 6 line) rfl rfl
      · exact h.logLine _ _
      all_goals exact h
  · exact h

/-- A read's errors change no byte, and no tag but the marked line's. -/
theorem MemOk.meetErrors {s : State} (h : MemOk s) (line : Nat) : MemOk (meetErrors s line).1 := by
  unfold Machine.meetErrors
  split
  · exact h
  · exact h.congr rfl rfl
  · exact h.congr rfl rfl
  · exact (h.markLine _).logLine _ _
  · exact h.logLine _ _
  · exact (h.clearError _).logLine _ _

theorem MemOk.landHome {s : State} (h : MemOk s) (line : Nat) (data : BitVec 1024) (m : BitVec 128) (t : Tag) :
    MemOk (landHome s line data m t) := by
  unfold Machine.landHome
  split
  · exact h
  · have k := h.meetWrite line
    split
    · rename_i e; rw [e] at k; exact k
    · rename_i v e
      rw [e] at k
      dsimp only at k ⊢
      generalize (if unmarks v line t then (mergeBytes 0 data m, BitVec.allOnes 128) else (data, m)) = p
      have k := (MemOk.storeMasked k line p.1 p.2).setHomeTag line t
      refine MemOk.forgetLayer (MemOk.fireMonitors (MemOk.bumpCounters ?_ line) line) _
      split
      · exact k.congr rfl rfl
      · exact k

theorem MemOk.landOver {s : State} (h : MemOk s) (line : Nat) (data : BitVec 1024) (m : BitVec 128) (t : Tag) :
    MemOk (landOver s line data m t) := by
  unfold Machine.landOver
  split <;> exact h.landHome _ _ _ _

theorem MemOk.agentLand {s : State} (h : MemOk s) (key : Option KeyId) (a : Nat) (bs : List Byte) : MemOk (agentLand s key a bs).1 := by
  have k := h.meetErrors (a / 128)
  unfold Machine.agentLand
  split <;> rename_i e <;> rw [e] at k
  · exact k
  · dsimp only
    split
    · exact k
    · exact k.landOver _ _ _ _

/-! Translation. -/

theorem MemOk.tlbFill {s : State} (h : MemOk s) (core : Nat) (t : TlbEntry) : MemOk (tlbFill s core t) := h.congr rfl rfl

theorem MemOk.setLeafBits {s : State} (h : MemOk s) (addr : Nat) (mask : Word) : MemOk (setLeafBits s addr mask) := by
  unfold Machine.setLeafBits
  dsimp only
  split
  · exact h
  · exact h.landHome _ _ _ _

theorem MemOk.setDirty {s t : State} {core : Nat} {e : TlbEntry} (h : MemOk s) (w : setDirty s core e = some t) : MemOk t := by
  unfold Machine.setDirty at w
  split at w
  · cases w; exact h
  · split at w
    · cases w
    · cases w; exact (h.setLeafBits _ _).tlbFill _ _

/-! The sequence store and windows. -/

/-- A fold over lines each of whose steps keeps the form. -/
theorem MemOk.fold {s : State} (h : MemOk s) {α : Type} (f : State → α → State) (step : ∀ v x, MemOk v → MemOk (f v x)) :
    ∀ xs : List α, MemOk (xs.foldl f s) := by
  intro xs
  induction xs generalizing s with
  | nil => exact h
  | cons x xs ih => exact ih (step _ _ h)

theorem MemOk.setName {s : State} (h : MemOk s) (vd name : Nat) (f : Option Nat) : MemOk (s.setName vd name f) := h.congr rfl rfl

theorem MemOk.setFrame {s : State} (h : MemOk s) (f : Nat) (x : FrameWord) : MemOk (s.setFrame f x) := h.congr rfl rfl

/-- A computation that answers has had its first part answer. -/
theorem except_bind {ε α β : Type} {x : Except ε α} {f : α → Except ε β} {b : β} (w : (x >>= f) = .ok b) : ∃ a, x = .ok a ∧ f a = .ok b := by
  cases x with
  | error e => cases w
  | ok a => exact ⟨a, rfl, w⟩

theorem MemOk.retainWhole {s : State} (h : MemOk s) (r : Retained) : MemOk (retainWhole s r) := h.congr rfl rfl

/-- A frame's lines as a name takes it. -/
theorem MemOk.fillFrame {vd name f : Nat} {g : Tag} : ∀ (n j : Nat) {s t : State}, MemOk s → fillFrame vd name f g n j s = .ok t → MemOk t := by
  intro n
  induction n with
  | zero => intro j s t h w; cases w; exact h
  | succ n ih =>
    intro j s t h w
    unfold Machine.fillFrame at w
    obtain ⟨_, _, w⟩ := except_bind w
    refine ih (j + 1) ?_ w
    split
    · exact h.retainWhole _
    · exact h.landHome _ _ _ _

theorem MemOk.takeFrame {s t : State} {vd name f : Nat} {g : Tag} (h : MemOk s) (w : takeFrame s vd name f g = .ok t) : MemOk t := by
  unfold Machine.takeFrame at w
  obtain ⟨v, hv, w⟩ := except_bind w
  cases w
  exact MemOk.setFrame (MemOk.setName (h.fillFrame _ _ hv) _ _ _) _ _

/-- A copy of lines to a frame. -/
theorem MemOk.copyFrame {vd f g : Nat} : ∀ (n j : Nat) {s t : State}, MemOk s → copyFrame vd f g n j s = .ok t → MemOk t := by
  intro n
  induction n with
  | zero => intro j s t h w; cases w; exact h
  | succ n ih =>
    intro j s t h w
    unfold Machine.copyFrame at w
    have k := h.meetErrors (f * 128 + j)
    split at w <;> rename_i e <;> rw [e] at k
    · cases w
    · obtain ⟨_, _, w⟩ := except_bind w
      obtain ⟨_, _, w⟩ := except_bind w
      exact ih _ (k.landHome _ _ _ _) w

theorem MemOk.writeFrame {s t : State} {vd name f : Nat} {g : Tag} (h : MemOk s) (w : writeFrame s vd name g = .ok (t, f)) : MemOk t := by
  unfold Machine.writeFrame at w
  split at w
  · split at w
    · cases w
    · split at w
      · cases w
      · obtain ⟨v, hv, w⟩ := except_bind w
        cases w
        exact h.takeFrame hv
  · dsimp only at w
    split at w
    · cases w; exact h
    · split at w
      · cases w; exact h.congr rfl rfl
      · split at w
        · cases w
        · obtain ⟨v, hv, w⟩ := except_bind w
          cases w
          exact MemOk.setFrame (MemOk.setFrame (MemOk.setName (h.copyFrame _ _ hv) _ _ _) _ _) _ _

/-- A computation that stops has had its first part stop, or answer and the rest stop. -/
theorem except_stop {ε α β : Type} {x : Except ε α} {f : α → Except ε β} {e : ε} (w : (x >>= f) = .error e) :
    x = .error e ∨ ∃ a, x = .ok a ∧ f a = .error e := by
  cases x with
  | error d => cases w; exact .inl rfl
  | ok a => exact .inr ⟨a, rfl, w⟩

theorem MemOk.frameLine {s t : State} {vd f line : Nat} {c : Cause} (h : MemOk s) (w : frameLine s vd f line = .error (.fault c t)) : MemOk t := by
  unfold Machine.frameLine at w
  split at w
  · cases w
  · split at w <;> cases w
    exact h

/-- What a write through a name that stops on a line leaves keeps the form. -/
theorem MemOk.fillStop {vd name f : Nat} {g : Tag} {c : Cause} : ∀ (n j : Nat) {s t : State}, MemOk s →
    Machine.fillFrame vd name f g n j s = .error (.fault c t) → MemOk t := by
  intro n
  induction n with
  | zero => intro j s t h w; cases w
  | succ n ih =>
    intro j s t h w
    unfold Machine.fillFrame at w
    obtain w | ⟨_, _, w⟩ := except_stop w
    · exact h.frameLine w
    · refine ih (j + 1) ?_ w
      split
      · exact h.retainWhole _
      · exact h.landHome _ _ _ _

theorem MemOk.copyStop {vd f g : Nat} {c : Cause} : ∀ (n j : Nat) {s t : State}, MemOk s →
    Machine.copyFrame vd f g n j s = .error (.fault c t) → MemOk t := by
  intro n
  induction n with
  | zero => intro j s t h w; cases w
  | succ n ih =>
    intro j s t h w
    unfold Machine.copyFrame at w
    have k := h.meetErrors (f * 128 + j)
    split at w <;> rename_i e <;> rw [e] at k
    · cases w; exact k
    · obtain w | ⟨_, _, w⟩ := except_stop w
      · exact MemOk.frameLine k w
      · obtain w | ⟨_, _, w⟩ := except_stop w
        · exact MemOk.frameLine k w
        · exact ih _ (MemOk.landHome k _ _ _ _) w

theorem MemOk.writeStop {s t : State} {vd name : Nat} {g : Tag} {c : Cause} (h : MemOk s)
    (w : Machine.writeFrame s vd name g = .error (.fault c t)) : MemOk t := by
  unfold Machine.writeFrame at w
  split at w
  · split at w
    · cases w
    · split at w
      · cases w
      · obtain w | ⟨_, _, w⟩ := except_stop w
        · unfold Machine.takeFrame at w
          obtain w | ⟨_, _, w⟩ := except_stop w
          · exact h.fillStop _ _ w
          · cases w
        · cases w
  · dsimp only at w
    split at w
    · cases w
    · split at w
      · cases w
      · split at w
        · cases w
        · obtain w | ⟨_, _, w⟩ := except_stop w
          · exact h.copyStop _ _ w
          · cases w

/-- A retained line's flush keeps the form, whether it lands or stays. -/
theorem MemOk.flushLine {s t : State} {r : Retained} (h : MemOk s) (w : flushLine s r = .landed t ∨ flushLine s r = .blocked t) : MemOk t := by
  unfold Machine.flushLine at w
  dsimp only at w
  split at w
  · obtain w | w := w <;> split at w <;> cases w
    exact h.landOver _ _ _ _
  · obtain w | w := w <;> split at w
    all_goals try (cases w)
    · rename_i e
      split at w <;> cases w
      exact (h.writeFrame e).landOver _ _ _ _
    · exact h
    · rename_i e; exact h.writeStop e
    · split at w <;> cases w

theorem MemOk.flushList : ∀ (rs : List Retained) {s t : State} {l : List Retained}, MemOk s → flushList s rs = some (t, l) → MemOk t := by
  intro rs
  induction rs with
  | nil => intro s t l h w; cases w; exact h
  | cons r rs ih =>
    intro s t l h w
    unfold Machine.flushList at w
    split at w
    · rename_i e; exact ih (h.flushLine (.inl e)) w
    · rename_i e
      cases v : Machine.flushList _ rs with
      | none => rw [v] at w; cases w
      | some p => rw [v] at w; cases w; exact ih (h.flushLine (.inr e)) v
    · cases w

theorem MemOk.flushWhere {s t : State} {l : List Retained} {p : Retained → Bool} (h : MemOk s) (w : flushWhere s p = some (t, l)) : MemOk t := by
  unfold Machine.flushWhere at w
  cases v : Machine.flushList s (s.pkg.retained.filter p) with
  | none => rw [v] at w; cases w
  | some q => rw [v] at w; cases w; exact (MemOk.flushList _ h v).congr rfl rfl

end Sys2Proof.Machine
end

