-- ==== Sys2Proof/Laws/Ops.lean ====
section
/-!
SUPPORT. Sys2Proof/Laws/Ops.lean: what the shared operations of Ops.lean can do: how an issued instruction ends, and how a
fault, a wait or a hold is settled.
-/

namespace Sys2Proof.Machine

open Sys2Proof

/-! Settling. -/

@[simp] theorem settle_on (s t : State) (k : Nat) : settle s k (.ok (.on, t)) = .next (t.modCtx k Ctx.advance) := rfl
@[simp] theorem settle_jump (s t : State) (k : Nat) (a : Word) :
    settle s k (.ok (.jump a, t)) = .next (t.modCtx k fun c => { c.anew with pc := a }) := rfl
@[simp] theorem settle_stay (s t : State) (k : Nat) : settle s k (.ok (.stay, t)) = .next t := rfl
@[simp] theorem settle_wait (s : State) (k e : Nat) (t : Option State) :
    settle s k (.error (.wait e t)) = .next ((t.getD s).modCtx k fun c => { c with waitSince := some (c.waitSince.getD s.now) }) := rfl
theorem settle_fault (s : State) (k : Nat) (f : FaultInfo) (t : Option State) (h : (s.ctx k).mode ≠ .m) :
    settle s k (.error (.fault f t)) = .next (raiseFault (t.getD s) k ((s.ctx k).ownFault f)) := by
  simp [settle, h]
theorem settle_fault_firmware (s : State) (k : Nat) (f : FaultInfo) (t : Option State) (h : (s.ctx k).mode = .m) :
    settle s k (.error (.fault f t)) = .fault .firmwareTrap := by
  simp [settle, h]

/-- However an instruction ends, the machine goes on, unless it is a fault of the management core. -/
theorem settle_goesOn (s : State) (k : Nat) (r : Except Stop (Flow × State)) (h : (s.ctx k).mode ≠ .m) : GoesOn (settle s k r) := by
  unfold settle GoesOn
  split <;> first | exact ⟨_, rfl⟩ | (simp only [h, if_false]; exact ⟨_, rfl⟩)

/-! Issue. -/

/-- An instruction that its stream issues ends as its effect ends. -/
theorem issue_performed {i : Instr} {s : State} (body : Nat → Op Flow) (h : Issues i s) :
    issue i s body = settle s s.focus (body s.focus s) := by
  obtain ⟨h1, h2, h3⟩ := h
  unfold issue
  dsimp only
  rw [h1]
  simp [h2, h3]

/-- A check of Table 10.11 that fails raises its fault before anything is read. -/
theorem issue_fault {i : Instr} {s : State} {f : FaultInfo} (body : Nat → Op Flow) (h : issueFault i (s.ctx s.focus) = some f) :
    issue i s body = settle s s.focus (.error (.fault f none)) := by
  unfold issue
  dsimp only
  rw [h]

/-- A pending register stalls the stream: nothing happens (R264). -/
theorem issue_stalled {i : Instr} {s : State} (body : Nat → Op Flow) (h : issueFault i (s.ctx s.focus) = none)
    (h2 : (s.ctx s.focus).stalls i = true) : issue i s body = .next s := by
  unfold issue
  dsimp only
  rw [h]
  simp [h2]

/-- An instruction whose guards do not both hold only moves on (R259). -/
theorem issue_guarded {i : Instr} {s : State} (body : Nat → Op Flow) (h : issueFault i (s.ctx s.focus) = none)
    (h2 : (s.ctx s.focus).stalls i = false) (h3 : (s.ctx s.focus).guards i.ctl = false) :
    issue i s body = .next (s.modCtx s.focus Ctx.advance) := by
  unfold issue
  dsimp only
  rw [h]
  simp [h2, h3]

/-- An effect on the stream's own context. -/
theorem issue_onCtx {i : Instr} {s : State} (f : Ctx → Ctx) (h : Issues i s) : issue i s (onCtx f) = Done s f := by
  rw [issue_performed _ h]; rfl

/-- An issued instruction lets the machine go on. -/
theorem issue_goesOn (i : Instr) (s : State) (body : Nat → Op Flow) (h : (s.ctx s.focus).mode ≠ .m) : GoesOn (issue i s body) := by
  unfold issue
  dsimp only
  repeat' split
  all_goals first | exact settle_goesOn _ _ _ h | exact ⟨_, rfl⟩

/-- A stream whose handle has been freed while it waited ends its instruction with HANDLE_INVALID (R318). -/
theorem issue_lost {i : Instr} {s : State} {n : BitVec 6} (body : Nat → Op Flow) (h : issueFault i (s.ctx s.focus) = none)
    (h2 : (s.ctx s.focus).stalls i = false) (h3 : (s.ctx s.focus).guards i.ctl = true) (h4 : (s.ctx s.focus).lost = some n) :
    issue i s body = settle s s.focus (.error (.fault { cause := .handleInvalid, etval := n.setWidth 64 } none)) := by
  unfold issue
  dsimp only
  rw [h]
  simp only [h2, h3, h4, Bool.false_eq_true, ↓reduceIte]
  rfl

/-! Registers. -/

@[simp] theorem Ctx.s_zero (c : Ctx) : c.s 0 = 0 := by simp [Ctx.s]
@[simp] theorem Ctx.p_zero (c : Ctx) : c.p 0 = true := by simp [Ctx.p]
@[simp] theorem Ctx.setS_zero (c : Ctx) (v : Word) : c.setS 0 v = c := by simp [Ctx.setS]
@[simp] theorem Ctx.setP_zero (c : Ctx) (v : Bool) : c.setP 0 v = c := by simp [Ctx.setP]

theorem get_reg {α : Type} (v : Vector α 64) (r : BitVec 6) : v.get r.toFin = v[r.toNat]'r.isLt := rfl
theorem get_pred {α : Type} (v : Vector α 8) (r : BitVec 3) : v.get r.toFin = v[r.toNat]'r.isLt := rfl

/-- A register written reads back the value; s0 stays zero. -/
theorem Ctx.setS_s (c : Ctx) (r : BitVec 6) (v : Word) (h : r ≠ 0) : (c.setS r v).s r = v := by
  rw [Ctx.s, if_neg h, Ctx.setS, if_neg h, get_reg]; simp

/-- A write of one register leaves every other register. -/
theorem Ctx.setS_s_ne (c : Ctx) (r q : BitVec 6) (v : Word) (h : q ≠ r) : (c.setS r v).s q = c.s q := by
  unfold Ctx.setS Ctx.s
  by_cases hr : r = 0
  · rw [if_pos hr]
  · have : r.toNat ≠ q.toNat := fun e => h (BitVec.eq_of_toNat_eq e.symm)
    by_cases hq : q = 0
    · rw [if_pos hq, if_pos hq]
    · rw [if_neg hr, if_neg hq, if_neg hq, get_reg, get_reg]; simp [this]

theorem Ctx.setP_p (c : Ctx) (r : BitVec 3) (v : Bool) (h : r ≠ 0) : (c.setP r v).p r = v := by
  rw [Ctx.p, if_neg h, Ctx.setP, if_neg h, get_pred]; simp

theorem Ctx.setP_p_ne (c : Ctx) (r q : BitVec 3) (v : Bool) (h : q ≠ r) : (c.setP r v).p q = c.p q := by
  unfold Ctx.setP Ctx.p
  by_cases hr : r = 0
  · rw [if_pos hr]
  · have : r.toNat ≠ q.toNat := fun e => h (BitVec.eq_of_toNat_eq e.symm)
    by_cases hq : q = 0
    · rw [if_pos hq, if_pos hq]
    · rw [if_neg hr, if_neg hq, if_neg hq, get_pred, get_pred]; simp [this]

/-! Moving on (R256, R289). -/

theorem Ctx.advance_plain (c : Ctx) (h : c.pend = none) : c.advance = { c.anew with pc := c.pc + 8 } := by
  have e : c.anew.pend = none := h
  unfold Ctx.advance; simp only [e]; rfl

/-! Faults. -/

/-- Raising a fault touches the stream and its core alone. -/
theorem raiseFault_ownOnly (s : State) (k : Nat) (f : FaultInfo) : OwnOnly k s (raiseFault s k f) where
  mem := rfl
  tags := rfl
  others j h := by
    unfold raiseFault State.modCtx
    rw [State.setCtx_ctx_ne _ _ _ _ h]; rfl
  cores _ h := by
    unfold raiseFault State.modCore
    exact State.setCore_core_ne _ _ _ _ h
  rest := ⟨rfl, rfl, rfl, rfl, rfl, rfl, rfl, rfl, rfl, rfl, rfl⟩

theorem modCtx_ownOnly (s : State) (k : Nat) (f : Ctx → Ctx) : OwnOnly k s (s.modCtx k f) where
  mem := rfl
  tags := rfl
  others _ h := State.setCtx_ctx_ne _ _ _ _ h
  cores _ _ := rfl
  rest := ⟨rfl, rfl, rfl, rfl, rfl, rfl, rfl, rfl, rfl, rfl, rfl⟩

theorem OwnOnly.refl (k : Nat) (s : State) : OwnOnly k s s where
  mem := rfl
  tags := rfl
  others _ _ := rfl
  cores _ _ := rfl
  rest := ⟨rfl, rfl, rfl, rfl, rfl, rfl, rfl, rfl, rfl, rfl, rfl⟩

theorem OwnOnly.trans {k : Nat} {s t u : State} (a : OwnOnly k s t) (b : OwnOnly k t u) : OwnOnly k s u where
  mem := b.mem.trans a.mem
  tags := b.tags.trans a.tags
  others j h := (b.others j h).trans (a.others j h)
  cores j h := (b.cores j h).trans (a.cores j h)
  rest := by
    obtain ⟨a1, a2, a3, a4, a5, a6, a7, a8, a9, a10, a11⟩ := a.rest
    obtain ⟨b1, b2, b3, b4, b5, b6, b7, b8, b9, b10, b11⟩ := b.rest
    exact ⟨b1.trans a1, b2.trans a2, b3.trans a3, b4.trans a4, b5.trans a5, b6.trans a6, b7.trans a7, b8.trans a8,
      b9.trans a9, b10.trans a10, b11.trans a11⟩

/-- A fault, or what its own context's change leaves, touches the stream and its core alone. -/
theorem settle_fault_ownOnly (s t : State) (k : Nat) (f : FaultInfo) (h : settle s k (.error (.fault f none)) = .next t) : OwnOnly k s t := by
  unfold settle at h
  simp only at h
  split at h
  · cases h
  · cases h; exact raiseFault_ownOnly _ _ _

/-- An instruction whose effect is on its own context touches its stream and its core's faults alone, however it ends. -/
theorem issue_onCtx_ownOnly (i : Instr) (s t : State) (f : Ctx → Ctx) (h : issue i s (onCtx f) = .next t) : OwnOnly s.focus s t := by
  unfold issue at h
  dsimp only at h
  split at h
  · exact settle_fault_ownOnly _ _ _ _ h
  · split at h
    · cases h; exact OwnOnly.refl _ _
    · split at h
      · split at h
        · exact settle_fault_ownOnly _ _ _ _ h
        · cases h; exact (modCtx_ownOnly _ _ _).trans (modCtx_ownOnly _ _ _)
      · cases h; exact modCtx_ownOnly _ _ _

end Sys2Proof.Machine
end

