-- ==== Sys2Proof/Laws/PerInstr.lean ====
section
/-!
SUPPORT. Sys2Proof/Laws/PerInstr.lean: one lemma for each constructor: the guards, HINT, CB and YLD of an instruction stand in the fields that
R256 gives them, whatever the instruction.
-/

namespace Sys2Proof.Laws.Common

open Sys2Proof

/-- The common fields of an instruction's word are its own (R256). -/
def Statement (i : Instr) : Prop := (encodeF i).ctl = i.ctl

theorem add (c : Ctl) (rd : BitVec 6) (ra : BitVec 6) (rb : BitVec 6) : Statement (.add c rd ra rb) := rfl
theorem addi (c : Ctl) (rd : BitVec 6) (ra : BitVec 6) (imm : BitVec 20) : Statement (.addi c rd ra imm) := rfl
theorem sub (c : Ctl) (rd : BitVec 6) (ra : BitVec 6) (rb : BitVec 6) : Statement (.sub c rd ra rb) := rfl
theorem mul (c : Ctl) (rd : BitVec 6) (ra : BitVec 6) (rb : BitVec 6) : Statement (.mul c rd ra rb) := rfl
theorem mulh (c : Ctl) (rd : BitVec 6) (ra : BitVec 6) (rb : BitVec 6) : Statement (.mulh c rd ra rb) := rfl
theorem mulhu (c : Ctl) (rd : BitVec 6) (ra : BitVec 6) (rb : BitVec 6) : Statement (.mulhu c rd ra rb) := rfl
theorem div (c : Ctl) (rd : BitVec 6) (ra : BitVec 6) (rb : BitVec 6) : Statement (.div c rd ra rb) := rfl
theorem divu (c : Ctl) (rd : BitVec 6) (ra : BitVec 6) (rb : BitVec 6) : Statement (.divu c rd ra rb) := rfl
theorem rem (c : Ctl) (rd : BitVec 6) (ra : BitVec 6) (rb : BitVec 6) : Statement (.rem c rd ra rb) := rfl
theorem remu (c : Ctl) (rd : BitVec 6) (ra : BitVec 6) (rb : BitVec 6) : Statement (.remu c rd ra rb) := rfl
theorem and (c : Ctl) (rd : BitVec 6) (ra : BitVec 6) (rb : BitVec 6) : Statement (.and c rd ra rb) := rfl
theorem andi (c : Ctl) (rd : BitVec 6) (ra : BitVec 6) (imm : BitVec 20) : Statement (.andi c rd ra imm) := rfl
theorem or (c : Ctl) (rd : BitVec 6) (ra : BitVec 6) (rb : BitVec 6) : Statement (.or c rd ra rb) := rfl
theorem ori (c : Ctl) (rd : BitVec 6) (ra : BitVec 6) (imm : BitVec 20) : Statement (.ori c rd ra imm) := rfl
theorem xor (c : Ctl) (rd : BitVec 6) (ra : BitVec 6) (rb : BitVec 6) : Statement (.xor c rd ra rb) := rfl
theorem xori (c : Ctl) (rd : BitVec 6) (ra : BitVec 6) (imm : BitVec 20) : Statement (.xori c rd ra imm) := rfl
theorem andn (c : Ctl) (rd : BitVec 6) (ra : BitVec 6) (rb : BitVec 6) : Statement (.andn c rd ra rb) := rfl
theorem shl (c : Ctl) (rd : BitVec 6) (ra : BitVec 6) (rb : BitVec 6) : Statement (.shl c rd ra rb) := rfl
theorem shli (c : Ctl) (rd : BitVec 6) (ra : BitVec 6) (imm : BitVec 6) : Statement (.shli c rd ra imm) := rfl
theorem shr (c : Ctl) (rd : BitVec 6) (ra : BitVec 6) (rb : BitVec 6) : Statement (.shr c rd ra rb) := rfl
theorem shri (c : Ctl) (rd : BitVec 6) (ra : BitVec 6) (imm : BitVec 6) : Statement (.shri c rd ra imm) := rfl
theorem sra (c : Ctl) (rd : BitVec 6) (ra : BitVec 6) (rb : BitVec 6) : Statement (.sra c rd ra rb) := rfl
theorem srai (c : Ctl) (rd : BitVec 6) (ra : BitVec 6) (imm : BitVec 6) : Statement (.srai c rd ra imm) := rfl
theorem rot (c : Ctl) (rd : BitVec 6) (ra : BitVec 6) (rb : BitVec 6) : Statement (.rot c rd ra rb) := rfl
theorem clz (c : Ctl) (rd : BitVec 6) (ra : BitVec 6) : Statement (.clz c rd ra) := rfl
theorem ctz (c : Ctl) (rd : BitVec 6) (ra : BitVec 6) : Statement (.ctz c rd ra) := rfl
theorem popc (c : Ctl) (rd : BitVec 6) (ra : BitVec 6) : Statement (.popc c rd ra) := rfl
theorem min (c : Ctl) (rd : BitVec 6) (ra : BitVec 6) (rb : BitVec 6) : Statement (.min c rd ra rb) := rfl
theorem minu (c : Ctl) (rd : BitVec 6) (ra : BitVec 6) (rb : BitVec 6) : Statement (.minu c rd ra rb) := rfl
theorem max (c : Ctl) (rd : BitVec 6) (ra : BitVec 6) (rb : BitVec 6) : Statement (.max c rd ra rb) := rfl
theorem maxu (c : Ctl) (rd : BitVec 6) (ra : BitVec 6) (rb : BitVec 6) : Statement (.maxu c rd ra rb) := rfl
theorem sel (c : Ctl) (rd : BitVec 6) (ra : BitVec 6) (rb : BitVec 6) (pc : BitVec 3) : Statement (.sel c rd ra rb pc) := rfl
theorem li (c : Ctl) (rd : BitVec 6) (imm : BitVec 26) : Statement (.li c rd imm) := rfl
theorem lih (c : Ctl) (rd : BitVec 6) (imm : BitVec 16) (k : BitVec 2) : Statement (.lih c rd imm k) := rfl
theorem ext (c : Ctl) (rd : BitVec 6) (ra : BitVec 6) (pos : BitVec 6) (lenM1 : BitVec 6) (sgn : Bool) : Statement (.ext c rd ra pos lenM1 sgn) := rfl
theorem ins (c : Ctl) (rd : BitVec 6) (ra : BitVec 6) (pos : BitVec 6) (lenM1 : BitVec 6) : Statement (.ins c rd ra pos lenM1) := rfl
theorem addx (c : Ctl) (rd : BitVec 6) (ra : BitVec 6) (rb : BitVec 6) (sh : BitVec 3) : Statement (.addx c rd ra rb sh) := rfl
theorem fadd (c : Ctl) (rd : BitVec 6) (ra : BitVec 6) (rb : BitVec 6) (rm : BitVec 4) : Statement (.fadd c rd ra rb rm) := rfl
theorem fsub (c : Ctl) (rd : BitVec 6) (ra : BitVec 6) (rb : BitVec 6) (rm : BitVec 4) : Statement (.fsub c rd ra rb rm) := rfl
theorem fmul (c : Ctl) (rd : BitVec 6) (ra : BitVec 6) (rb : BitVec 6) (rm : BitVec 4) : Statement (.fmul c rd ra rb rm) := rfl
theorem ffma (c : Ctl) (rd : BitVec 6) (ra : BitVec 6) (rb : BitVec 6) (rc : BitVec 6) (rm : BitVec 4) : Statement (.ffma c rd ra rb rc rm) := rfl
theorem fmin (c : Ctl) (rd : BitVec 6) (ra : BitVec 6) (rb : BitVec 6) : Statement (.fmin c rd ra rb) := rfl
theorem fmax (c : Ctl) (rd : BitVec 6) (ra : BitVec 6) (rb : BitVec 6) : Statement (.fmax c rd ra rb) := rfl
theorem fcvt (c : Ctl) (rd : BitVec 6) (ra : BitVec 6) (dst : BitVec 6) (src : BitVec 6) (rm : BitVec 4) : Statement (.fcvt c rd ra dst src rm) := rfl
theorem fcmp (c : Ctl) (pd : BitVec 3) (ra : BitVec 6) (rb : BitVec 6) (cc : BitVec 4) : Statement (.fcmp c pd ra rb cc) := rfl
theorem cmp (c : Ctl) (pd : BitVec 3) (ra : BitVec 6) (rb : BitVec 6) (cc : BitVec 4) : Statement (.cmp c pd ra rb cc) := rfl
theorem pand (c : Ctl) (pd : BitVec 3) (pa : BitVec 3) (pb : BitVec 3) : Statement (.pand c pd pa pb) := rfl
theorem por (c : Ctl) (pd : BitVec 3) (pa : BitVec 3) (pb : BitVec 3) : Statement (.por c pd pa pb) := rfl
theorem pxor (c : Ctl) (pd : BitVec 3) (pa : BitVec 3) (pb : BitVec 3) : Statement (.pxor c pd pa pb) := rfl
theorem pnot (c : Ctl) (pd : BitVec 3) (pa : BitVec 3) : Statement (.pnot c pd pa) := rfl
theorem pmov (c : Ctl) (pd : BitVec 3) (pa : BitVec 3) : Statement (.pmov c pd pa) := rfl
theorem pmovGet (c : Ctl) (rd : BitVec 6) : Statement (.pmovGet c rd) := rfl
theorem pmovSet (c : Ctl) (ra : BitVec 6) : Statement (.pmovSet c ra) := rfl
theorem pbr (c : Ctl) (bt : BitVec 2) (tgt : PbrTarget) : Statement (.pbr c bt tgt) := rfl
theorem br (c : Ctl) (bt : BitVec 2) (d : BitVec 2) : Statement (.br c bt d) := rfl
theorem call (c : Ctl) (rd : BitVec 6) (bt : BitVec 2) (d : BitVec 2) : Statement (.call c rd bt d) := rfl
theorem ret (c : Ctl) (ra : BitVec 6) (d : BitVec 2) : Statement (.ret c ra d) := rfl
theorem bsm (c : Ctl) (ra : BitVec 6) (imm : BitVec 26) : Statement (.bsm c ra imm) := rfl
theorem bsmT (c : Ctl) (ra : BitVec 6) (imm : BitVec 26) : Statement (.bsmT c ra imm) := rfl
theorem vany (c : Ctl) (pd : BitVec 3) (vpa : BitVec 4) (vpm : Option (BitVec 4)) : Statement (.vany c pd vpa vpm) := rfl
theorem vall (c : Ctl) (pd : BitVec 3) (vpa : BitVec 4) (vpm : Option (BitVec 4)) : Statement (.vall c pd vpa vpm) := rfl
theorem halt (c : Ctl) : Statement (.halt c) := rfl
theorem yield (c : Ctl) : Statement (.yield c) := rfl
theorem suspend (c : Ctl) (ra : BitVec 6) : Statement (.suspend c ra) := rfl
theorem suspendRel (c : Ctl) (ra : BitVec 6) : Statement (.suspendRel c ra) := rfl
theorem nop (c : Ctl) : Statement (.nop c) := rfl
theorem ldb (c : Ctl) (rd : BitVec 6) (ra : BitVec 6) (sgn : Bool) (ord : Order) (imm : BitVec 20) (sc : Scope) : Statement (.ldb c rd ra sgn ord imm sc) := rfl
theorem ldh (c : Ctl) (rd : BitVec 6) (ra : BitVec 6) (sgn : Bool) (ord : Order) (imm : BitVec 20) (sc : Scope) : Statement (.ldh c rd ra sgn ord imm sc) := rfl
theorem ldw (c : Ctl) (rd : BitVec 6) (ra : BitVec 6) (sgn : Bool) (ord : Order) (imm : BitVec 20) (sc : Scope) : Statement (.ldw c rd ra sgn ord imm sc) := rfl
theorem ldd (c : Ctl) (rd : BitVec 6) (ra : BitVec 6) (ord : Order) (imm : BitVec 20) (sc : Scope) : Statement (.ldd c rd ra ord imm sc) := rfl
theorem stb (c : Ctl) (ra : BitVec 6) (imm : BitVec 20) (rb : BitVec 6) (ord : Order) (sc : Scope) : Statement (.stb c ra imm rb ord sc) := rfl
theorem sth (c : Ctl) (ra : BitVec 6) (imm : BitVec 20) (rb : BitVec 6) (ord : Order) (sc : Scope) : Statement (.sth c ra imm rb ord sc) := rfl
theorem stw (c : Ctl) (ra : BitVec 6) (imm : BitVec 20) (rb : BitVec 6) (ord : Order) (sc : Scope) : Statement (.stw c ra imm rb ord sc) := rfl
theorem std (c : Ctl) (ra : BitVec 6) (imm : BitVec 20) (rb : BitVec 6) (ord : Order) (sc : Scope) : Statement (.std c ra imm rb ord sc) := rfl
theorem pref (c : Ctl) (ra : BitVec 6) (imm : BitVec 20) (wr : BitVec 1) : Statement (.pref c ra imm wr) := rfl
theorem aadd (c : Ctl) (rd : BitVec 6) (ra : BitVec 6) (rb : BitVec 6) (dbl : Bool) (ord : Order) (sc : Scope) : Statement (.aadd c rd ra rb dbl ord sc) := rfl
theorem aand (c : Ctl) (rd : BitVec 6) (ra : BitVec 6) (rb : BitVec 6) (dbl : Bool) (ord : Order) (sc : Scope) : Statement (.aand c rd ra rb dbl ord sc) := rfl
theorem aor (c : Ctl) (rd : BitVec 6) (ra : BitVec 6) (rb : BitVec 6) (dbl : Bool) (ord : Order) (sc : Scope) : Statement (.aor c rd ra rb dbl ord sc) := rfl
theorem axor (c : Ctl) (rd : BitVec 6) (ra : BitVec 6) (rb : BitVec 6) (dbl : Bool) (ord : Order) (sc : Scope) : Statement (.axor c rd ra rb dbl ord sc) := rfl
theorem amin (c : Ctl) (rd : BitVec 6) (ra : BitVec 6) (rb : BitVec 6) (uns : Bool) (dbl : Bool) (ord : Order) (sc : Scope) : Statement (.amin c rd ra rb uns dbl ord sc) := rfl
theorem amax (c : Ctl) (rd : BitVec 6) (ra : BitVec 6) (rb : BitVec 6) (uns : Bool) (dbl : Bool) (ord : Order) (sc : Scope) : Statement (.amax c rd ra rb uns dbl ord sc) := rfl
theorem aswp (c : Ctl) (rd : BitVec 6) (ra : BitVec 6) (rb : BitVec 6) (dbl : Bool) (ord : Order) (sc : Scope) : Statement (.aswp c rd ra rb dbl ord sc) := rfl
theorem acas (c : Ctl) (rd : BitVec 6) (ra : BitVec 6) (rb : BitVec 6) (rc : BitVec 6) (dbl : Bool) (ord : Order) (sc : Scope) : Statement (.acas c rd ra rb rc dbl ord sc) := rfl
theorem monitor (c : Ctl) (ra : BitVec 6) (imm : BitVec 20) : Statement (.monitor c ra imm) := rfl
theorem mwait (c : Ctl) (ra : BitVec 6) : Statement (.mwait c ra) := rfl
theorem fence (c : Ctl) (ord : Order) (sc : Scope) : Statement (.fence c ord sc) := rfl
theorem mfence (c : Ctl) (qs : BitVec 6) (sc : Scope) : Statement (.mfence c qs sc) := rfl
theorem join (c : Ctl) : Statement (.join c) := rfl
theorem xfence (c : Ctl) (ord : Order) : Statement (.xfence c ord) := rfl
theorem publish (c : Ctl) (ra : BitVec 6) (rb : BitVec 6) (sc : Scope) : Statement (.publish c ra rb sc) := rfl
theorem wfence (c : Ctl) (sc : Scope) : Statement (.wfence c sc) := rfl
theorem bara (c : Ctl) (rd : BitVec 6) (sc : Scope) : Statement (.bara c rd sc) := rfl
theorem barw (c : Ctl) (ra : BitVec 6) (sc : Scope) : Statement (.barw c ra sc) := rfl
theorem swset (c : Ctl) (h : BitVec 6) (ra : BitVec 6) : Statement (.swset c h ra) := rfl
theorem swadd (c : Ctl) (h : BitVec 6) (ra : BitVec 6) (ord : Order) (sc : Scope) : Statement (.swadd c h ra ord sc) := rfl
theorem swait (c : Ctl) (h : BitVec 6) (ra : BitVec 6) (sc : Scope) : Statement (.swait c h ra sc) := rfl
theorem swread (c : Ctl) (rd : BitVec 6) (h : BitVec 6) (ord : Order) (sc : Scope) : Statement (.swread c rd h ord sc) := rfl
theorem halloc (c : Ctl) (h : BitVec 6) (rd : BitVec 6) (rs : BitVec 6) (ra : BitVec 6) : Statement (.halloc c h rd rs ra) := rfl
theorem hbind (c : Ctl) (h : BitVec 6) (rv : BitVec 6) (rs : BitVec 6) (ra : BitVec 6) : Statement (.hbind c h rv rs ra) := rfl
theorem hfree (c : Ctl) (h : BitVec 6) : Statement (.hfree c h) := rfl
theorem hshape (c : Ctl) (h : BitVec 6) (rs : BitVec 6) : Statement (.hshape c h rs) := rfl
theorem htenRead (c : Ctl) (h : BitVec 6) (rw : BitVec 6) (rx : BitVec 6) : Statement (.htenRead c h rw rx) := rfl
theorem htenWrite (c : Ctl) (h : BitVec 6) (rw : BitVec 6) (rx : BitVec 6) : Statement (.htenWrite c h rw rx) := rfl
theorem hrel (c : Ctl) (h : BitVec 6) (rw : BitVec 6) (rx : BitVec 6) : Statement (.hrel c h rw rx) := rfl
theorem hseal (c : Ctl) (h : BitVec 6) (rw : BitVec 6) (rx : BitVec 6) : Statement (.hseal c h rw rx) := rfl
theorem hunseal (c : Ctl) (h : BitVec 6) (rw : BitVec 6) (rx : BitVec 6) : Statement (.hunseal c h rw rx) := rfl
theorem hsplit (c : Ctl) (h : BitVec 6) (rw : BitVec 6) (rx : BitVec 6) : Statement (.hsplit c h rw rx) := rfl
theorem hprio (c : Ctl) (h : BitVec 6) (ra : BitVec 6) : Statement (.hprio c h ra) := rfl
theorem hevict (c : Ctl) (h : BitVec 6) : Statement (.hevict c h) := rfl
theorem hdemote (c : Ctl) (h : BitVec 6) (e5 : Bool) (sw : Bool) : Statement (.hdemote c h e5 sw) := rfl
theorem hzero (c : Ctl) (h : BitVec 6) : Statement (.hzero c h) := rfl
theorem hq (c : Ctl) (rd : BitVec 6) (h : BitVec 6) (w : BitVec 6) : Statement (.hq c rd h w) := rfl
theorem sqmap (c : Ctl) (rd : BitVec 6) (rn : BitVec 6) (rc : BitVec 6) (rg : Option (BitVec 6)) : Statement (.sqmap c rd rn rc rg) := rfl
theorem sqshare (c : Ctl) (rd : BitVec 6) (rn : BitVec 6) (rm : BitVec 6) (rc : BitVec 6) (rw : Option (BitVec 6)) : Statement (.sqshare c rd rn rm rc rw) := rfl
theorem sqfree (c : Ctl) (rn : BitVec 6) (rc : BitVec 6) : Statement (.sqfree c rn rc) := rfl
theorem wopen (c : Ctl) (rd : BitVec 6) (ra : BitVec 6) (rb : BitVec 6) (rp : BitVec 6) (sq : Bool) : Statement (.wopen c rd ra rb rp sq) := rfl
theorem wclose (c : Ctl) (rw : BitVec 6) (zero : Bool) : Statement (.wclose c rw zero) := rfl
theorem vadd (c : Ctl) (vd : BitVec 5) (va : BitVec 5) (vb : BitVec 5) (n : BitVec 4) (m : Option (BitVec 4)) : Statement (.vadd c vd va vb n m) := rfl
theorem vsub (c : Ctl) (vd : BitVec 5) (va : BitVec 5) (vb : BitVec 5) (n : BitVec 4) (m : Option (BitVec 4)) : Statement (.vsub c vd va vb n m) := rfl
theorem vmul (c : Ctl) (vd : BitVec 5) (va : BitVec 5) (vb : BitVec 5) (n : BitVec 4) (m : Option (BitVec 4)) : Statement (.vmul c vd va vb n m) := rfl
theorem vfma (c : Ctl) (vd : BitVec 5) (va : BitVec 5) (vb : BitVec 5) (vc : BitVec 5) (n : BitVec 4) (m : Option (BitVec 4)) : Statement (.vfma c vd va vb vc n m) := rfl
theorem vfms (c : Ctl) (vd : BitVec 5) (va : BitVec 5) (vb : BitVec 5) (vc : BitVec 5) (n : BitVec 4) (m : Option (BitVec 4)) : Statement (.vfms c vd va vb vc n m) := rfl
theorem vmin (c : Ctl) (vd : BitVec 5) (va : BitVec 5) (vb : BitVec 5) (n : BitVec 4) (m : Option (BitVec 4)) : Statement (.vmin c vd va vb n m) := rfl
theorem vmax (c : Ctl) (vd : BitVec 5) (va : BitVec 5) (vb : BitVec 5) (n : BitVec 4) (m : Option (BitVec 4)) : Statement (.vmax c vd va vb n m) := rfl
theorem vabs (c : Ctl) (vd : BitVec 5) (va : BitVec 5) (n : BitVec 4) (m : Option (BitVec 4)) : Statement (.vabs c vd va n m) := rfl
theorem vneg (c : Ctl) (vd : BitVec 5) (va : BitVec 5) (n : BitVec 4) (m : Option (BitVec 4)) : Statement (.vneg c vd va n m) := rfl
theorem vand (c : Ctl) (vd : BitVec 5) (va : BitVec 5) (vb : BitVec 5) (n : BitVec 4) (m : Option (BitVec 4)) : Statement (.vand c vd va vb n m) := rfl
theorem vor (c : Ctl) (vd : BitVec 5) (va : BitVec 5) (vb : BitVec 5) (n : BitVec 4) (m : Option (BitVec 4)) : Statement (.vor c vd va vb n m) := rfl
theorem vxor (c : Ctl) (vd : BitVec 5) (va : BitVec 5) (vb : BitVec 5) (n : BitVec 4) (m : Option (BitVec 4)) : Statement (.vxor c vd va vb n m) := rfl
theorem vshl (c : Ctl) (vd : BitVec 5) (va : BitVec 5) (vb : BitVec 5) (n : BitVec 4) (m : Option (BitVec 4)) : Statement (.vshl c vd va vb n m) := rfl
theorem vshr (c : Ctl) (vd : BitVec 5) (va : BitVec 5) (vb : BitVec 5) (n : BitVec 4) (m : Option (BitVec 4)) : Statement (.vshr c vd va vb n m) := rfl
theorem vsra (c : Ctl) (vd : BitVec 5) (va : BitVec 5) (vb : BitVec 5) (n : BitVec 4) (m : Option (BitVec 4)) : Statement (.vsra c vd va vb n m) := rfl
theorem vcmp (c : Ctl) (vpd : BitVec 4) (va : BitVec 5) (vb : BitVec 5) (n : BitVec 4) (m : Option (BitVec 4)) (cc : BitVec 4) : Statement (.vcmp c vpd va vb n m cc) := rfl
theorem vsel (c : Ctl) (vd : BitVec 5) (va : BitVec 5) (vb : BitVec 5) (vps : BitVec 4) (n : BitVec 4) (m : Option (BitVec 4)) : Statement (.vsel c vd va vb vps n m) := rfl
theorem vcvt (c : Ctl) (vd : BitVec 5) (va : BitVec 5) (fmt : BitVec 6) (h : Option (BitVec 6)) (n : BitVec 4) (m : Option (BitVec 4)) (lx : BitVec 2) : Statement (.vcvt c vd va fmt h n m lx) := rfl
theorem vqblk (c : Ctl) (vd : BitVec 5) (vs : BitVec 5) (va : BitVec 5) (h : Option (BitVec 6)) (n : BitVec 4) (tgt : BitVec 2) : Statement (.vqblk c vd vs va h n tgt) := rfl
theorem vdeq (c : Ctl) (vd : BitVec 5) (va : BitVec 5) (vs : BitVec 5) (f32 : Bool) (n : BitVec 4) (m : Option (BitVec 4)) : Statement (.vdeq c vd va vs f32 n m) := rfl
theorem vtagGet (c : Ctl) (rd : BitVec 6) (va : BitVec 5) (r : BitVec 4) : Statement (.vtagGet c rd va r) := rfl
theorem vtagSet (c : Ctl) (vd : BitVec 5) (ra : BitVec 6) (r : BitVec 4) : Statement (.vtagSet c vd ra r) := rfl
theorem vtagSetAll (c : Ctl) (vd : BitVec 5) (ra : BitVec 6) : Statement (.vtagSetAll c vd ra) := rfl
theorem vretag (c : Ctl) (vd : BitVec 5) (va : BitVec 5) (fmt : BitVec 6) (n : BitVec 4) : Statement (.vretag c vd va fmt n) := rfl
theorem vsplat (c : Ctl) (vd : BitVec 5) (ra : BitVec 6) (fmt : BitVec 6) (n : BitVec 4) (m : Option (BitVec 4)) : Statement (.vsplat c vd ra fmt n m) := rfl
theorem vmovsGet (c : Ctl) (rd : BitVec 6) (va : BitVec 5) (rb : BitVec 6) : Statement (.vmovsGet c rd va rb) := rfl
theorem vmovsPut (c : Ctl) (vd : BitVec 5) (ra : BitVec 6) (rb : BitVec 6) : Statement (.vmovsPut c vd ra rb) := rfl
theorem vsetvl (c : Ctl) (rd : BitVec 6) (ra : BitVec 6) : Statement (.vsetvl c rd ra) := rfl
theorem vpand (c : Ctl) (vpd : BitVec 4) (vpa : BitVec 4) (vpb : BitVec 4) (n : BitVec 4) (m : Option (BitVec 4)) : Statement (.vpand c vpd vpa vpb n m) := rfl
theorem vpor (c : Ctl) (vpd : BitVec 4) (vpa : BitVec 4) (vpb : BitVec 4) (n : BitVec 4) (m : Option (BitVec 4)) : Statement (.vpor c vpd vpa vpb n m) := rfl
theorem vpnot (c : Ctl) (vpd : BitVec 4) (vpa : BitVec 4) (n : BitVec 4) (m : Option (BitVec 4)) : Statement (.vpnot c vpd vpa n m) := rfl
theorem vpcnt (c : Ctl) (rd : BitVec 6) (vpa : BitVec 4) (n : BitVec 4) (m : Option (BitVec 4)) : Statement (.vpcnt c rd vpa n m) := rfl
theorem vld (c : Ctl) (vd : BitVec 5) (h : BitVec 6) (ra : BitVec 6) (rb : BitVec 6) (n : BitVec 4) (m : Option (BitVec 4)) (o : Bool) : Statement (.vld c vd h ra rb n m o) := rfl
theorem vst (c : Ctl) (h : BitVec 6) (ra : BitVec 6) (rb : BitVec 6) (vs : BitVec 5) (n : BitVec 4) (m : Option (BitVec 4)) (o : Bool) : Statement (.vst c h ra rb vs n m o) := rfl
theorem vgth (c : Ctl) (vd : BitVec 5) (ra : BitVec 6) (vi : BitVec 5) (sh : BitVec 2) (n : BitVec 4) (m : Option (BitVec 4)) (o : Bool) : Statement (.vgth c vd ra vi sh n m o) := rfl
theorem vsct (c : Ctl) (ra : BitVec 6) (vi : BitVec 5) (vs : BitVec 5) (sh : BitVec 2) (n : BitVec 4) (m : Option (BitVec 4)) (o : Bool) : Statement (.vsct c ra vi vs sh n m o) := rfl
theorem vrot (c : Ctl) (vd : BitVec 5) (va : BitVec 5) (rb : BitVec 6) (n : BitVec 4) (m : Option (BitVec 4)) (ax : Bool) : Statement (.vrot c vd va rb n m ax) := rfl
theorem vbc (c : Ctl) (vd : BitVec 5) (va : BitVec 5) (rb : BitVec 6) (n : BitVec 4) (m : Option (BitVec 4)) (ax : Bool) : Statement (.vbc c vd va rb n m ax) := rfl
theorem vred (c : Ctl) (vd : BitVec 5) (va : BitVec 5) (n : BitVec 4) (m : Option (BitVec 4)) (ax : Bool) (rop : BitVec 3) : Statement (.vred c vd va n m ax rop) := rfl
theorem vscan (c : Ctl) (vd : BitVec 5) (va : BitVec 5) (n : BitVec 4) (m : Option (BitVec 4)) (ax : Bool) (rop : BitVec 3) : Statement (.vscan c vd va n m ax rop) := rfl
theorem vtrn (c : Ctl) (vd : BitVec 5) (va : BitVec 5) (m : Option (BitVec 4)) : Statement (.vtrn c vd va m) := rfl
theorem vshuf (c : Ctl) (vd : BitVec 5) (va : BitVec 5) (vi : BitVec 5) (n : BitVec 4) (m : Option (BitVec 4)) : Statement (.vshuf c vd va vi n m) := rfl
theorem vcmpr (c : Ctl) (vd : BitVec 5) (va : BitVec 5) (vps : BitVec 4) (n : BitVec 4) : Statement (.vcmpr c vd va vps n) := rfl
theorem vexp2 (c : Ctl) (vd : BitVec 5) (va : BitVec 5) (n : BitVec 4) (m : Option (BitVec 4)) : Statement (.vexp2 c vd va n m) := rfl
theorem vlog2 (c : Ctl) (vd : BitVec 5) (va : BitVec 5) (n : BitVec 4) (m : Option (BitVec 4)) : Statement (.vlog2 c vd va n m) := rfl
theorem vrcp (c : Ctl) (vd : BitVec 5) (va : BitVec 5) (n : BitVec 4) (m : Option (BitVec 4)) : Statement (.vrcp c vd va n m) := rfl
theorem vrsq (c : Ctl) (vd : BitVec 5) (va : BitVec 5) (n : BitVec 4) (m : Option (BitVec 4)) : Statement (.vrsq c vd va n m) := rfl
theorem vsqrt (c : Ctl) (vd : BitVec 5) (va : BitVec 5) (n : BitVec 4) (m : Option (BitVec 4)) : Statement (.vsqrt c vd va n m) := rfl
theorem vtanh (c : Ctl) (vd : BitVec 5) (va : BitVec 5) (n : BitVec 4) (m : Option (BitVec 4)) : Statement (.vtanh c vd va n m) := rfl
theorem vsin (c : Ctl) (vd : BitVec 5) (va : BitVec 5) (n : BitVec 4) (m : Option (BitVec 4)) : Statement (.vsin c vd va n m) := rfl
theorem vqpush (c : Ctl) (q : BitVec 2) (va : BitVec 5) (n : BitVec 4) : Statement (.vqpush c q va n) := rfl
theorem vqpop (c : Ctl) (vd : BitVec 5) (q : BitVec 2) (n : BitVec 4) : Statement (.vqpop c vd q n) := rfl
theorem vqstat (c : Ctl) (rd : BitVec 6) (q : BitVec 2) : Statement (.vqstat c rd q) := rfl
theorem mshape (c : Ctl) (ra : BitVec 6) (rb : BitVec 6) (i32 : Bool) : Statement (.mshape c ra rb i32) := rfl
theorem mzero (c : Ctl) (t : BitVec 2) : Statement (.mzero c t) := rfl
theorem mma (c : Ctl) (t : BitVec 2) (va : BitVec 5) (vb : BitVec 5) (vsa : Option (BitVec 5)) (vsb : Option (BitVec 5)) (g : BitVec 2) : Statement (.mma c t va vb vsa vsb g) := rfl
theorem mmag (c : Ctl) (t : BitVec 2) (va : BitVec 5) (vb : BitVec 5) (vsa : Option (BitVec 5)) (vsb : Option (BitVec 5)) (g : BitVec 2) (prM1 : BitVec 2) (pcM1 : BitVec 3) : Statement (.mmag c t va vb vsa vsb g prM1 pcM1) := rfl
theorem mlda (c : Ctl) (t : BitVec 2) (h : BitVec 6) (ra : BitVec 6) : Statement (.mlda c t h ra) := rfl
theorem msta (c : Ctl) (h : BitVec 6) (t : BitVec 2) (ra : BitVec 6) (band : Option (BitVec 6 × BitVec 6)) (o : Bool) : Statement (.msta c h t ra band o) := rfl
theorem mdrain (c : Ctl) : Statement (.mdrain c) := rfl
theorem movcG (c : Ctl) (vd : BitVec 5) (t : BitVec 2) (b : BitVec 4) : Statement (.movcG c vd t b) := rfl
theorem movcP (c : Ctl) (t : BitVec 2) (va : BitVec 5) (b : BitVec 4) : Statement (.movcP c t va b) := rfl
theorem rmode (c : Ctl) (qs : BitVec 2) (mode : BitVec 3) : Statement (.rmode c qs mode) := rfl
theorem cpy (c : Ctl) (rd : BitVec 6) (hd : BitVec 6) (hs : BitVec 6) (rp : BitVec 6) (rn : BitVec 6) (ch : BitVec 2) (nc : Bool) : Statement (.cpy c rd hd hs rp rn ch nc) := rfl
theorem cpyX (c : Ctl) (rd : BitVec 6) (hd : BitVec 6) (hs : BitVec 6) (rp : BitVec 6) (rn : BitVec 6) (ch : BitVec 2) (nc : Bool) : Statement (.cpyX c rd hd hs rp rn ch nc) := rfl
theorem cpyt (c : Ctl) (rt : BitVec 6) (hd : BitVec 6) (hs : BitVec 6) (rp : BitVec 6) (rn : BitVec 6) (ch : BitVec 2) (x : Bool) (nc : Bool) : Statement (.cpyt c rt hd hs rp rn ch x nc) := rfl
theorem cmcast (c : Ctl) (rd : BitVec 6) (hd : BitVec 6) (hs : BitVec 6) (rp : BitVec 6) (rn : BitVec 6) (ch : BitVec 2) (nc : Bool) : Statement (.cmcast c rd hd hs rp rn ch nc) := rfl
theorem gath (c : Ctl) (rd : BitVec 6) (hd : BitVec 6) (ra : BitVec 6) (vi : BitVec 5) (vpd : BitVec 4) (k : BitVec 8) (ch : BitVec 2) (nc : Bool) : Statement (.gath c rd hd ra vi vpd k ch nc) := rfl
theorem scat (c : Ctl) (rd : BitVec 6) (hs : BitVec 6) (ra : BitVec 6) (vi : BitVec 5) (vpm : BitVec 4) (k : BitVec 8) (ch : BitVec 2) : Statement (.scat c rd hs ra vi vpm k ch) := rfl
theorem cred (c : Ctl) (rd : BitVec 6) (hd : BitVec 6) (hs : BitVec 6) (rg : BitVec 6) (rn : BitVec 6) (rop : BitVec 2) (root : Bool) (nc : Bool) : Statement (.cred c rd hd hs rg rn rop root nc) := rfl
theorem cwait (c : Ctl) (ra : BitVec 6) : Statement (.cwait c ra) := rfl
theorem cstat (c : Ctl) (rd : BitVec 6) (ra : BitVec 6) : Statement (.cstat c rd ra) := rfl
theorem csrr (c : Ctl) (rd : BitVec 6) (csr : BitVec 20) : Statement (.csrr c rd csr) := rfl
theorem csrrX (c : Ctl) (rd : BitVec 6) (n : BitVec 6) : Statement (.csrrX c rd n) := rfl
theorem csrrF (c : Ctl) (rd : BitVec 6) (w : BitVec 20) : Statement (.csrrF c rd w) := rfl
theorem csrw (c : Ctl) (csr : BitVec 20) (ra : BitVec 6) : Statement (.csrw c csr ra) := rfl
theorem csrwX (c : Ctl) (n : BitVec 6) (ra : BitVec 6) : Statement (.csrwX c n ra) := rfl
theorem trap (c : Ctl) (imm : BitVec 20) : Statement (.trap c imm) := rfl
theorem trapBrk (c : Ctl) (imm : BitVec 20) : Statement (.trapBrk c imm) := rfl
theorem eret (c : Ctl) : Statement (.eret c) := rfl
theorem eretDiscard (c : Ctl) : Statement (.eretDiscard c) := rfl
theorem spawn (c : Ctl) (rd : BitVec 6) (ra : BitVec 6) (rb : BitVec 6) : Statement (.spawn c rd ra rb) := rfl
theorem gsig (c : Ctl) (ra : BitVec 6) : Statement (.gsig c ra) := rfl
theorem tlbiVa (c : Ctl) (ra : BitVec 6) (rb : BitVec 6) : Statement (.tlbiVa c ra rb) := rfl
theorem tlbiAsn (c : Ctl) (ra : BitVec 6) (rb : BitVec 6) : Statement (.tlbiAsn c ra rb) := rfl
theorem tlbiVd (c : Ctl) : Statement (.tlbiVd c) := rfl
theorem tlbiGpa (c : Ctl) (ra : BitVec 6) (rb : BitVec 6) : Statement (.tlbiGpa c ra rb) := rfl
theorem tlbiS2 (c : Ctl) (ra : BitVec 6) (rb : BitVec 6) : Statement (.tlbiS2 c ra rb) := rfl
theorem snap (c : Ctl) (tag : BitVec 8) : Statement (.snap c tag) := rfl
theorem ebudQ (c : Ctl) (rd : BitVec 6) : Statement (.ebudQ c rd) := rfl
theorem ebudR (c : Ctl) (rd : BitVec 6) (ra : BitVec 6) : Statement (.ebudR c rd ra) := rfl
theorem ebudF (c : Ctl) (rd : BitVec 6) (ra : BitVec 6) : Statement (.ebudF c rd ra) := rfl
theorem keyld (c : Ctl) (rd : BitVec 6) (ra : BitVec 6) (rb : BitVec 6) : Statement (.keyld c rd ra rb) := rfl
theorem faultDelivery (core : Nat) : Statement (.faultDelivery core) := rfl
theorem holdConvert (ctx : Nat) : Statement (.holdConvert ctx) := rfl
theorem holdRestart (ctx : Nat) : Statement (.holdRestart ctx) := rfl
theorem walkComplete (ctx : Nat) : Statement (.walkComplete ctx) := rfl
theorem s2respSuccess (entry : Nat) : Statement (.s2respSuccess entry) := rfl
theorem s2respFail (entry : Nat) : Statement (.s2respFail entry) := rfl
theorem prgResponse (entry : Nat) (ok : Bool) : Statement (.prgResponse entry ok) := rfl
theorem retortLineSwitch (kiln : Nat) : Statement (.retortLineSwitch kiln) := rfl
theorem granuleAssign (g : Nat) (owner : Nat) : Statement (.granuleAssign g owner) := rfl
theorem copyBeat (core : Nat) (ch : Nat) (n : Nat) (beat : Nat) : Statement (.copyBeat core ch n beat) := rfl
theorem vectorArbiterCycle (core : Nat) : Statement (.vectorArbiterCycle core) := rfl
theorem taskLeaveStoker (task : Nat) : Statement (.taskLeaveStoker task) := rfl
theorem launchCompletion (launch : Nat) : Statement (.launchCompletion launch) := rfl
theorem queueNotify (vd : Nat) (q : Nat) (off : Nat) (val : BitVec 32) : Statement (.queueNotify vd q off val) := rfl
theorem queueEnable (vd : Nat) (q : Nat) : Statement (.queueEnable vd q) := rfl
theorem queueDisable (vd : Nat) (q : Nat) : Statement (.queueDisable vd q) := rfl
theorem launchValidate (vd : Nat) (q : Nat) : Statement (.launchValidate vd q) := rfl
theorem taskCreate (kiln : Nat) (launch : Nat) (node : Nat) : Statement (.taskCreate kiln launch node) := rfl
theorem flueRound (kiln : Nat) : Statement (.flueRound kiln) := rfl
theorem preqGo (vd : Nat) (val : BitVec 64) : Statement (.preqGo vd val) := rfl
theorem preempt (task : Nat) : Statement (.preempt task) := rfl
theorem dbgctlResume (vd : Nat) : Statement (.dbgctlResume vd) := rfl
theorem dbgctlStep (vd : Nat) (stk : Nat) : Statement (.dbgctlStep vd stk) := rfl
theorem pctlApply (core : Nat) : Statement (.pctlApply core) := rfl
theorem sqrangeWrite (val : BitVec 64) : Statement (.sqrangeWrite val) := rfl
theorem vdcfgWrite (vd : Nat) (val : BitVec 64) : Statement (.vdcfgWrite vd val) := rfl
theorem latticeWrite (vd : Nat) (data : List (Nat × BitVec 8)) : Statement (.latticeWrite vd data) := rfl
theorem vdReset (vd : Nat) : Statement (.vdReset vd) := rfl
theorem hostAccess (acc : BusAccess) : Statement (.hostAccess acc) := rfl
theorem peerAccess (acc : BusAccess) : Statement (.peerAccess acc) := rfl
theorem registerWrite (space : Nat) (off : Nat) (val : BitVec 64) : Statement (.registerWrite space off val) := rfl
theorem matrixEntryComplete (task : Nat) : Statement (.matrixEntryComplete task) := rfl
theorem energyMeter (tasks : List (Nat × Nat)) (vds : List (Nat × Nat)) : Statement (.energyMeter tasks vds) := rfl
theorem powerLimit (num : Nat) (den : Nat) : Statement (.powerLimit num den) := rfl
theorem calendarSlot (core : Nat) : Statement (.calendarSlot core) := rfl
theorem kilnStoreAccessComplete (core : Nat) : Statement (.kilnStoreAccessComplete core) := rfl
theorem residencyFill (kiln : Nat) (tensor : Nat) : Statement (.residencyFill kiln tensor) := rfl
theorem leaseExpiry (cell : Nat) : Statement (.leaseExpiry cell) := rfl
theorem tenureWaitTimeout (req : Nat) : Statement (.tenureWaitTimeout req) := rfl
theorem lineWritebackCross (wb : Nat) (core : Nat) (excl : Bool) : Statement (.lineWritebackCross wb core excl) := rfl
theorem scrubLine (line : Nat) : Statement (.scrubLine line) := rfl
theorem credTimeout (vd : Nat) (group : Nat) : Statement (.credTimeout vd group) := rfl
theorem cpytRelease (core : Nat) : Statement (.cpytRelease core) := rfl
theorem mmagMeet (task : Nat) : Statement (.mmagMeet task) := rfl
theorem matrixHolderAcquire (task : Nat) : Statement (.matrixHolderAcquire task) := rfl
theorem gangReserveTimeout (kiln : Nat) : Statement (.gangReserveTimeout kiln) := rfl
theorem starvationPreempt (kiln : Nat) : Statement (.starvationPreempt kiln) := rfl
theorem recodeWaitTimeout (ctx : Nat) : Statement (.recodeWaitTimeout ctx) := rfl
theorem firmwareLoad (ok : Bool) : Statement (.firmwareLoad ok) := rfl
theorem atsInvalidate (page : Nat) (size : Nat) : Statement (.atsInvalidate page size) := rfl
theorem cxlCacheSnoop (port : Nat) (line : Nat) : Statement (.cxlCacheSnoop port line) := rfl
theorem latticeApply (vd : Nat) : Statement (.latticeApply vd) := rfl
theorem partitionApply (core : Nat) : Statement (.partitionApply core) := rfl
theorem markerAtHead (ctx : Nat) : Statement (.markerAtHead ctx) := rfl
theorem suspendDeadline (task : Nat) : Statement (.suspendDeadline task) := rfl
theorem mwaitTimeout (task : Nat) : Statement (.mwaitTimeout task) := rfl
theorem convoyDrain (ctx : Nat) : Statement (.convoyDrain ctx) := rfl
theorem credInstanceStart (vd : Nat) (group : Nat) : Statement (.credInstanceStart vd group) := rfl
theorem retortJobEnd (kiln : Nat) : Statement (.retortJobEnd kiln) := rfl
theorem haltRetire (task : Nat) : Statement (.haltRetire task) := rfl
theorem energyRefill : Statement (.energyRefill) := rfl
theorem snapshotLatch : Statement (.snapshotLatch) := rfl
theorem snapin : Statement (.snapin) := rfl
theorem snapshotCommand : Statement (.snapshotCommand) := rfl
theorem snapshotRead : Statement (.snapshotRead) := rfl
theorem moduleReset : Statement (.moduleReset) := rfl

end Sys2Proof.Laws.Common
end

