-- ==== Sys2Proof/Laws/Queues.lean ====
section
/-!
SUPPORT. Sys2Proof/Laws/Queues.lean: how an instruction of the vector or matrix queue is issued: the checks before it, a stall, a guard that does not
hold, and the faults of taking, delivering and leaving a handler.
-/

namespace Sys2Proof.Machine

open Sys2Proof

/-! The vector queue. -/

/-- A check of Table 10.11 that fails raises its fault before anything is read. -/
theorem issueVector_fault {i : Instr} {s : State} {f : FaultInfo} (p : Option Pipe) (n : Nat) (ra rb : BitVec 6) (perform : Perform)
    (bad : Ctx → Option Word) (h : issueFault i (s.ctx s.focus) = some f) :
    issueVector i p n ra rb perform s bad = settle s s.focus (.error (.fault f none)) := by
  unfold issueVector; dsimp only; rw [h]

/-- A pending register stalls the stream (R264). -/
theorem issueVector_stalled {i : Instr} {s : State} (p : Option Pipe) (n : Nat) (ra rb : BitVec 6) (perform : Perform)
    (bad : Ctx → Option Word) (h : issueFault i (s.ctx s.focus) = none) (h2 : (s.ctx s.focus).stalls i = true) :
    issueVector i p n ra rb perform s bad = .next s := by
  unfold issueVector; dsimp only; rw [h]; simp [h2]

/-- A full queue stalls a stream that would perform its instruction (R263). -/
theorem issueVector_full {i : Instr} {s : State} (p : Option Pipe) (n : Nat) (ra rb : BitVec 6) (perform : Perform)
    (bad : Ctx → Option Word) (h : issueFault i (s.ctx s.focus) = none) (h2 : (s.ctx s.focus).guards i.ctl = true)
    (h3 : 32 ≤ (s.ctx s.focus).vq.length) : issueVector i p n ra rb perform s bad = .next s := by
  unfold issueVector; dsimp only; rw [h]; simp [h2, h3]

/-- A convoy that cannot take the instruction raises its fault (R266). -/
theorem issueVector_convoy {i : Instr} {s : State} {p : Pipe} {n : Nat} {c : Cause} (ra rb : BitVec 6) (perform : Perform)
    (bad : Ctx → Option Word) (h : issueFault i (s.ctx s.focus) = none) (h2 : (s.ctx s.focus).stalls i = false)
    (h3 : (s.ctx s.focus).vq.length < 32) (h4 : joinConvoy s s.focus i.ctl.cb p n = .error c) :
    issueVector i (some p) n ra rb perform s bad =
      settle s s.focus (.error (.fault { cause := c, etval := (s.ctx s.focus).ir } none)) := by
  unfold issueVector; dsimp only; rw [h]
  simp [h2, h4, Except.map, Nat.not_le.mpr h3]

/-! The matrix queue. -/

theorem issueMatrix_fault {i : Instr} {s : State} {f : FaultInfo} (tile : Option Nat) (ra rb : BitVec 6) (perform : MPerform)
    (bad : Ctx → Task → Option Word) (h : issueFault i (s.ctx s.focus) = some f) :
    issueMatrix i tile ra rb perform s bad = settle s s.focus (.error (.fault f none)) := by
  unfold issueMatrix; dsimp only; rw [h]

/-- A tile that the stream's partition does not own raises PIPE_NOT_OWNED (R374). -/
theorem issueMatrix_notOwned {i : Instr} {s : State} {t : Nat} {x : Task} {j : Nat} (ra rb : BitVec 6) (perform : MPerform)
    (bad : Ctx → Task → Option Word) (h : issueFault i (s.ctx s.focus) = none) (h2 : (s.ctx s.focus).task = some t)
    (h3 : s.task t = some x) (h4 : tileOwned s s.focus j = false) :
    issueMatrix i (some j) ra rb perform s bad =
      settle s s.focus (.error (.fault { cause := .pipeNotOwned, etval := (s.ctx s.focus).ir } none)) := by
  unfold issueMatrix; dsimp only; rw [h, h2]
  simp [h3, h4]

/-! Faults. -/

/-- A fault waits at its core, behind those that came before it (R420). -/
theorem raiseFault_faults (s : State) (k : Nat) (f : FaultInfo) :
    ((raiseFault s k f).core (coreOf k)).faults = (s.core (coreOf k)).faults ++ [{ ctx := k, info := f, since := s.now }] := by
  have h : (raiseFault s k f).core (coreOf k) =
      (s.modCore (coreOf k) fun x => { x with faults := x.faults ++ [{ ctx := k, info := f, since := s.now }] }).core (coreOf k) := rfl
  rw [h, State.modCore_core]

/-- Its stream stops; a mark that a handle it waited on has been freed is spent, and with a fault of its own instruction what that had done so far. -/
theorem raiseFault_ctx (s : State) (k : Nat) (f : FaultInfo) : (raiseFault s k f).ctx k =
    { s.ctx k with faulted := true, lost := none, progress := if f.held || f.src ≠ .stream then (s.ctx k).progress else none } := by
  unfold raiseFault
  dsimp only
  rw [State.modCtx_ctx]
  rfl

/-- The handler starts in S mode from TVEC, with cause, epc and etval of the fault (R420). -/
theorem takeFault_shadow (s : State) (core : Nat) (w : Waiting) (rest : List Waiting) :
    (takeFault s core w rest).ctx (shadowOf core) = handlerCtx (s.vd (s.ctx w.ctx).vd) (s.ctx w.ctx) w s.now := by
  unfold takeFault
  dsimp only
  rw [State.setCtx_ctx]
  split <;> rfl

/-- Taking a fault leaves memory and its tags. -/
theorem takeFault_memory (s : State) (core : Nat) (w : Waiting) (rest : List Waiting) :
    (takeFault s core w rest).mem = s.mem ∧ (takeFault s core w rest).tags = s.tags := by
  unfold takeFault
  dsimp only
  split <;> exact ⟨rfl, rfl⟩

/-- Reissuing an instruction changes its task's reason and wait object alone. -/
theorem reissue_memory (s : State) (k : Nat) : (reissue s k).mem = s.mem ∧ (reissue s k).tags = s.tags := by
  unfold reissue
  split <;> exact ⟨rfl, rfl⟩

/-- Leaving the handler leaves memory and its tags. -/
theorem returnFrom_memory (s : State) (core : Nat) (w : Waiting) :
    (returnFrom s core w).mem = s.mem ∧ (returnFrom s core w).tags = s.tags := by
  unfold returnFrom
  dsimp only
  split <;>
    simp only [State.setCtx_mem, State.setCtx_tags, State.modCore_mem, State.modCore_tags, State.modCtx_mem, State.modCtx_tags, reissue_memory,
      and_self]

end Sys2Proof.Machine
end

