-- ==== Sys2Proof/Laws/Translate.lean ====
section
/-!
SUPPORT. Sys2Proof/Laws/Translate.lean: what a walk does step by step, and what it reads of a table in a sound line.
-/

namespace Sys2Proof.Machine

open Sys2Proof

/-- A walk goes on from what its first part answered, in the state that part left. -/
theorem on_bind {α β : Type} {m : Walk α} {f : α → Walk β} {s t : State} {v : α} (h : m.on s = (.ok v, t)) : (m >>= f).on s = (f v).on t := by
  unfold Walk.on at *
  simp only [ExceptT.run, bind, ExceptT.bind, ExceptT.mk, StateT.bind] at *
  rw [h]
  rfl

/-- A table word in a sound VALID line reads as it stands. -/
theorem table_read {s : State} {key : Option KeyId} {a : Nat} (h : SoundLine s key (a / 128)) (v : tagVc (homeTag s (a / 128)) = vcValid) :
    (tableRead key a).on s = (.ok (BitVec.ofNat 64 (wordOfBytes (s.bytes a 8))), s) := by
  have reg : region a = .hbm := by
    have := h.hbm
    unfold region at this ⊢
    split at this
    · rw [if_pos (by omega)]
    · repeat' split at this
      all_goals cases this
  have me : meetErrors s (a / 128) = (s, none) := by simp [meetErrors, h.good.1]
  have nr : ¬ vcValid = vcRecode := by decide
  have hp : hostPage s a 1 = .ok () := by simp [hostPage, reg]
  unfold Walk.on tableRead
  simp only [ExceptT.run, bind, ExceptT.bind, ExceptT.mk, ExceptT.bindCont, get, getThe, MonadStateOf.get, liftM, monadLift, MonadLift.monadLift,
    ExceptT.lift, StateT.bind, StateT.get, StateT.map, Functor.map, pure, StateT.pure, set, MonadStateOf.set, StateT.set, hp, me, v, nr, ↓reduceIte,
    h.key.1, ExceptT.pure]

end Sys2Proof.Machine
end

