-- ==== Sys2Proof/Tests/Slice0.lean ====
section
/-!
SUPPORT. Sys2Proof/Tests/Slice0.lean: our own tests: words that decode, terms the well-formedness checks refuse, states that meet the hypotheses of
each statement, and single steps whose results come from the spec's tables or are worked out by hand from its rules.
-/

namespace Sys2Proof.Tests

open Sys2Proof Sys2Proof.Machine

set_option maxRecDepth 20000
set_option Elab.async false

/-! Decoding: a word for every constructor, its fields put at the places of Table 10.7 as the encoding tables give them (Tables 11.1 to 18.6, 8.3, 8.6). -/

/-- A word from its OPC, OA to OE, MOD and IMX (Table 10.7). -/
def fw (opc oa ob oc od oe md imx : Nat) : Word :=
  BitVec.ofNat 64 (opc * 2 ^ 54 + oa * 2 ^ 48 + ob * 2 ^ 42 + oc * 2 ^ 36 + od * 2 ^ 30 + oe * 2 ^ 24 + md * 2 ^ 12 + imx)

/-- Every word of a list decodes to its instruction. -/
def decodes (xs : List (Word × Instr)) : Bool := xs.all fun x => decide (decodeWord x.1 = .ok x.2)

-- the spec's own worked words
theorem test_decode_worked_words : decodes [
    (0x0045180FFF2000FD, .addi { g1 := 2 } 5 6 (-3)), (0x21C0080000100000, .br { g1 := 1 } 0 2), (0x424928B009004000, .aadd {} 9 10 11 true .acq .kiln),
    (0x610624A000002000, .htenWrite {} 6 9 10), (0x80C420C40F000213, .vfma { cb := true } 4 8 12 16 15 (some 3)), (0xA08420000F003000, .vred {} 4 8 15 none true 1),
    (0xC080400018008000, .mma {} 0 16 0 none (some 24) 0), (0xC202000000002000, .rmode {} 2 2), (0xD00910228B001000, .cpy {} 9 4 2 10 11 1 false),
    (0xE009000001000001, .csrr {} 9 0x101), (0x84965D414F005200, .vqblk { cb := true } 22 23 20 (some 5) 15 1), (0x874100A000000200, .vld { cb := true } 1 0 10 0 0 none false)] = true := by
  decide

theorem test_decode_scalar_arithmetic : decodes [
    (fw 0x000 1 2 3 0 0 0 0, .add {} 1 2 3), (fw 0x001 1 2 0 0x3F 0x3F 0 0xFF, .addi {} 1 2 (-1)), (fw 0x002 1 2 3 0 0 0 0, .sub {} 1 2 3),
    (fw 0x003 1 2 3 0 0 0 0, .mul {} 1 2 3), (fw 0x004 1 2 3 0 0 0 0, .mulh {} 1 2 3), (fw 0x005 1 2 3 0 0 0 0, .mulhu {} 1 2 3),
    (fw 0x006 1 2 3 0 0 0 0, .div {} 1 2 3), (fw 0x007 1 2 3 0 0 0 0, .divu {} 1 2 3), (fw 0x008 1 2 3 0 0 0 0, .rem {} 1 2 3),
    (fw 0x009 1 2 3 0 0 0 0, .remu {} 1 2 3), (fw 0x00A 1 2 3 0 0 0 0, .and {} 1 2 3), (fw 0x00B 1 2 0 0 1 0 2, .andi {} 1 2 0x102),
    (fw 0x00C 1 2 3 0 0 0 0, .or {} 1 2 3), (fw 0x00D 1 2 0 1 0 0 2, .ori {} 1 2 0x4002), (fw 0x00E 1 2 3 0 0 0 0, .xor {} 1 2 3),
    (fw 0x00F 1 2 0 0 0 0 7, .xori {} 1 2 7), (fw 0x010 1 2 3 0 0 0 0, .andn {} 1 2 3)] = true := by decide

theorem test_decode_scalar_shifts : decodes [
    (fw 0x011 1 2 3 0 0 0 0, .shl {} 1 2 3), (fw 0x012 1 2 0 0 0 0 63, .shli {} 1 2 63), (fw 0x013 1 2 3 0 0 0 0, .shr {} 1 2 3),
    (fw 0x014 1 2 0 0 0 0 5, .shri {} 1 2 5), (fw 0x015 1 2 3 0 0 0 0, .sra {} 1 2 3), (fw 0x016 1 2 0 0 0 0 5, .srai {} 1 2 5),
    (fw 0x017 1 2 3 0 0 0 0, .rot {} 1 2 3), (fw 0x018 1 2 0 0 0 0 0, .clz {} 1 2), (fw 0x019 1 2 0 0 0 0 0, .ctz {} 1 2),
    (fw 0x01A 1 2 0 0 0 0 0, .popc {} 1 2), (fw 0x01B 1 2 3 0 0 0 0, .min {} 1 2 3), (fw 0x01C 1 2 3 0 0 0 0, .minu {} 1 2 3),
    (fw 0x01D 1 2 3 0 0 0 0, .max {} 1 2 3), (fw 0x01E 1 2 3 0 0 0 0, .maxu {} 1 2 3), (fw 0x01F 1 2 3 4 0 0 0, .sel {} 1 2 3 4),
    (fw 0x020 1 0 0x3F 0x3F 0x3F 0 0xFE, .li {} 1 (-2)), (fw 0x021 1 0 3 0 1 0 2, .lih {} 1 0x102 3), (fw 0x022 1 2 4 0 7 1 0, .ext {} 1 2 4 7 true),
    (fw 0x023 1 2 4 0 7 0 0, .ins {} 1 2 4 7), (fw 0x024 1 2 3 4 0 0 0, .addx {} 1 2 3 4)] = true := by decide

theorem test_decode_scalar_float : decodes [
    (fw 0x025 1 2 3 0 0 0 0, .fadd {} 1 2 3 0), (fw 0x026 1 2 3 0 0 8 0, .fsub {} 1 2 3 8), (fw 0x027 1 2 3 0 0 12 0, .fmul {} 1 2 3 12),
    (fw 0x028 1 2 3 4 0 0 0, .ffma {} 1 2 3 4 0), (fw 0x029 1 2 3 0 0 0 0, .fmin {} 1 2 3), (fw 0x02A 1 2 3 0 0 0 0, .fmax {} 1 2 3),
    (fw 0x02B 1 2 0x10 0x03 0 9 0, .fcvt {} 1 2 0x10 0x03 9), (fw 0x02C 1 2 3 0 0 7 0, .fcmp {} 1 2 3 7)] = true := by decide

theorem test_decode_control : decodes [
    (fw 0x080 1 2 3 0 0 9 0, .cmp {} 1 2 3 9), (fw 0x081 1 2 3 0 0 0 0, .pand {} 1 2 3), (fw 0x082 1 2 3 0 0 0 0, .por {} 1 2 3),
    (fw 0x083 1 2 3 0 0 0 0, .pxor {} 1 2 3), (fw 0x084 1 2 0 0 0 0 0, .pnot {} 1 2), (fw 0x085 1 2 0 0 0 0 0, .pmov {} 1 2),
    (fw 0x085 1 0 0 0 0 1 0, .pmovGet {} 1), (fw 0x085 1 0 0 0 0 2 0, .pmovSet {} 1), (fw 0x086 1 0 0 0 0 0 1, .pbr {} 1 (.rel 1)),
    (fw 0x086 1 9 0 0 0 1 0, .pbr {} 1 (.reg 9)), (fw 0x087 1 2 0 0 0 0 0, .br {} 1 2), (fw 0x088 1 2 3 0 0 0 0, .call {} 1 2 3),
    (fw 0x089 1 2 0 0 0 0 0, .ret {} 1 2), (fw 0x08A 1 0 0x3F 0x3F 0x3F 0 0xF7, .bsm {} 1 (-9)), (fw 0x08A 1 0 0 0 0 1 4, .bsmT {} 1 4),
    (fw 0x08B 1 2 0 0 0 0 0, .vany {} 1 2 none), (fw 0x08C 1 2 3 0 0 1 0, .vall {} 1 2 (some 3)), (fw 0x08D 0 0 0 0 0 0 0, .halt {}),
    (fw 0x08E 0 0 0 0 0 0 0, .yield {}), (fw 0x08F 1 0 0 0 0 0 0, .suspend {} 1), (fw 0x08F 1 0 0 0 0 1 0, .suspendRel {} 1),
    (fw 0x090 0 0 0 0 0 0 0, .nop {})] = true := by decide

theorem test_decode_memory : decodes [
    (fw 0x100 1 2 8 0 0 0 3, .ldb {} 1 2 true .rlx 3 .stream), (fw 0x101 1 2 1 0 0 4 2, .ldh {} 1 2 false .acq 2 .kiln),
    (fw 0x102 1 2 9 0 0x3F 8 0xFC, .ldw {} 1 2 true .acq 0x03FFC .system), (fw 0x103 1 2 0 0 0 0 8, .ldd {} 1 2 .rlx 8 .stream),
    (fw 0x104 1 2 0 0 0 0 3, .stb {} 1 3 2 .rlx .stream), (fw 0x105 1 2 2 0 0 1 2, .sth {} 1 2 2 .rel .task),
    (fw 0x106 1 2 0 0 0 0 4, .stw {} 1 4 2 .rlx .stream), (fw 0x107 1 2 2 0 0 7 8, .std {} 1 8 2 .rel .host), (fw 0x108 1 0 0 0 0 1 8, .pref {} 1 8 1),
    (fw 0x109 1 2 3 0 0 2 0, .aadd {} 1 2 3 false .rlx .core), (fw 0x10A 1 2 3 0 8 2 0, .aand {} 1 2 3 true .rlx .core),
    (fw 0x10B 1 2 3 0 9 2 0, .aor {} 1 2 3 true .acq .core), (fw 0x10C 1 2 3 0 2 2 0, .axor {} 1 2 3 false .rel .core),
    (fw 0x10D 1 2 3 0 0x13 2 0, .amin {} 1 2 3 true false .acqrel .core), (fw 0x10E 1 2 3 0 0xC 2 0, .amax {} 1 2 3 false true .sc .core),
    (fw 0x10F 1 2 3 0 0 2 0, .aswp {} 1 2 3 false .rlx .core), (fw 0x110 1 2 3 4 8 4 0, .acas {} 1 2 3 4 true .rlx .kiln)] = true := by decide

theorem test_decode_synchronisation : decodes [
    (fw 0x111 1 0 0 0 0 0 8, .monitor {} 1 8), (fw 0x112 1 0 0 0 0 0 0, .mwait {} 1), (fw 0x113 1 0 0 0 0 11 0, .fence {} .acq .recode),
    (fw 0x114 63 0 0 0 0 1 0, .mfence {} 63 .task), (fw 0x115 0 0 0 0 0 0 0, .join {}), (fw 0x116 3 0 0 0 0 0 0, .xfence {} .acqrel),
    (fw 0x117 1 2 0 0 0 4 0, .publish {} 1 2 .kiln), (fw 0x118 0 0 0 0 0 6 0, .wfence {} .pod), (fw 0x119 1 0 0 0 0 3 0, .bara {} 1 .cord),
    (fw 0x11A 1 0 0 0 0 5 0, .barw {} 1 .package), (fw 0x11B 1 2 0 0 0 0 0, .swset {} 1 2), (fw 0x11C 1 2 2 0 0 4 0, .swadd {} 1 2 .rel .kiln),
    (fw 0x11D 1 2 0 0 0 1 0, .swait {} 1 2 .task), (fw 0x11E 1 2 1 0 0 4 0, .swread {} 1 2 .acq .kiln)] = true := by decide

theorem test_decode_handles : decodes [
    (fw 0x180 1 2 3 4 0 0 0, .halloc {} 1 2 3 4), (fw 0x181 1 2 3 4 0 0 0, .hbind {} 1 2 3 4), (fw 0x182 1 0 0 0 0 0 0, .hfree {} 1),
    (fw 0x183 1 2 0 0 0 0 0, .hshape {} 1 2), (fw 0x184 1 2 3 0 0 1 0, .htenRead {} 1 2 3), (fw 0x184 1 2 3 0 0 2 0, .htenWrite {} 1 2 3),
    (fw 0x185 1 2 3 0 0 0 0, .hrel {} 1 2 3), (fw 0x186 1 2 3 0 0 0 0, .hseal {} 1 2 3), (fw 0x187 1 2 3 0 0 0 0, .hunseal {} 1 2 3),
    (fw 0x188 1 2 3 0 0 0 0, .hsplit {} 1 2 3), (fw 0x189 1 2 0 0 0 0 0, .hprio {} 1 2), (fw 0x18A 1 0 0 0 0 0 0, .hevict {} 1),
    (fw 0x18B 1 0 0 0 0 3 0, .hdemote {} 1 true true), (fw 0x18C 1 0 0 0 0 0 0, .hzero {} 1), (fw 0x18D 1 2 4 0 0 0 0, .hq {} 1 2 4),
    (fw 0x18E 1 2 3 4 0 1 0, .sqmap {} 1 2 3 (some 4)), (fw 0x18F 1 2 3 4 0 0 0, .sqshare {} 1 2 3 4 none), (fw 0x190 1 2 0 0 0 0 0, .sqfree {} 1 2),
    (fw 0x191 1 2 3 4 0 1 0, .wopen {} 1 2 3 4 true), (fw 0x192 1 0 0 0 0 1 0, .wclose {} 1 true)] = true := by decide

theorem test_decode_vector_arithmetic : decodes [
    (fw 0x200 1 2 3 0 15 0 0x14, .vadd {} 1 2 3 15 (some 4)), (fw 0x201 1 2 3 0 0 0 0, .vsub {} 1 2 3 0 none), (fw 0x202 1 2 3 0 0 0 0, .vmul {} 1 2 3 0 none),
    (fw 0x203 1 2 3 4 0 0 0, .vfma {} 1 2 3 4 0 none), (fw 0x204 1 2 3 4 0 0 0, .vfms {} 1 2 3 4 0 none), (fw 0x205 1 2 3 0 0 0 0, .vmin {} 1 2 3 0 none),
    (fw 0x206 1 2 3 0 0 0 0, .vmax {} 1 2 3 0 none), (fw 0x207 1 2 0 0 0 0 0, .vabs {} 1 2 0 none), (fw 0x208 1 2 0 0 0 0 0, .vneg {} 1 2 0 none),
    (fw 0x209 1 2 3 0 0 0 0, .vand {} 1 2 3 0 none), (fw 0x20A 1 2 3 0 0 0 0, .vor {} 1 2 3 0 none), (fw 0x20B 1 2 3 0 0 0 0, .vxor {} 1 2 3 0 none),
    (fw 0x20C 1 2 3 0 0 0 0, .vshl {} 1 2 3 0 none), (fw 0x20D 1 2 3 0 0 0 0, .vshr {} 1 2 3 0 none), (fw 0x20E 1 2 3 0 0 0 0, .vsra {} 1 2 3 0 none),
    (fw 0x20F 1 2 3 0 0 5 0, .vcmp {} 1 2 3 0 none 5), (fw 0x210 1 2 3 4 0 0 0, .vsel {} 1 2 3 4 0 none)] = true := by decide

theorem test_decode_vector_conversion_and_memory : decodes [
    (fw 0x211 1 2 0x12 4 0 5 0, .vcvt {} 1 2 0x12 (some 4) 0 none 1), (fw 0x212 1 2 3 0 0 2 0, .vqblk {} 1 2 3 none 0 2), (fw 0x213 1 2 3 0 0 1 0, .vdeq {} 1 2 3 true 0 none),
    (fw 0x214 1 2 15 0 0 0 0, .vtagGet {} 1 2 15), (fw 0x214 1 2 15 0 0 1 0, .vtagSet {} 1 2 15), (fw 0x214 1 2 0 0 0 2 0, .vtagSetAll {} 1 2),
    (fw 0x215 1 2 0x10 0 0 0 0, .vretag {} 1 2 0x10 0), (fw 0x216 1 2 0x10 0 0 0 0, .vsplat {} 1 2 0x10 0 none), (fw 0x217 1 2 3 0 0 0 0, .vmovsGet {} 1 2 3),
    (fw 0x217 1 2 3 0 0 1 0, .vmovsPut {} 1 2 3), (fw 0x218 1 2 0 0 0 0 0, .vsetvl {} 1 2), (fw 0x219 1 2 3 0 0 0 0, .vpand {} 1 2 3 0 none),
    (fw 0x21A 1 2 3 0 0 0 0, .vpor {} 1 2 3 0 none), (fw 0x21B 1 2 0 0 0 0 0, .vpnot {} 1 2 0 none), (fw 0x21C 1 2 0 0 0 0 0, .vpcnt {} 1 2 0 none),
    (fw 0x21D 1 2 3 4 0 1 0, .vld {} 1 2 3 4 0 none true), (fw 0x21E 1 2 3 4 0 0 0, .vst {} 1 2 3 4 0 none false), (fw 0x21F 1 2 3 3 0 0 0, .vgth {} 1 2 3 3 0 none false),
    (fw 0x220 1 2 3 1 0 1 0, .vsct {} 1 2 3 1 0 none true)] = true := by decide

theorem test_decode_vector_axis : decodes [
    (fw 0x280 1 2 3 0 0 1 0, .vrot {} 1 2 3 0 none true), (fw 0x281 1 2 3 0 0 0 0, .vbc {} 1 2 3 0 none false), (fw 0x282 1 2 0 0 0 2 0, .vred {} 1 2 0 none false 1),
    (fw 0x283 1 2 0 0 0 9 0, .vscan {} 1 2 0 none true 4), (fw 0x284 1 2 0 0 0 0 0x11, .vtrn {} 1 2 (some 1)), (fw 0x285 1 2 3 0 0 0 0, .vshuf {} 1 2 3 0 none),
    (fw 0x286 1 2 3 0 0 0 0, .vcmpr {} 1 2 3 0), (fw 0x287 1 2 0 0 0 0 0, .vexp2 {} 1 2 0 none), (fw 0x288 1 2 0 0 0 0 0, .vlog2 {} 1 2 0 none),
    (fw 0x289 1 2 0 0 0 0 0, .vrcp {} 1 2 0 none), (fw 0x28A 1 2 0 0 0 0 0, .vrsq {} 1 2 0 none), (fw 0x28B 1 2 0 0 0 0 0, .vsqrt {} 1 2 0 none),
    (fw 0x28C 1 2 0 0 0 0 0, .vtanh {} 1 2 0 none), (fw 0x28D 1 2 0 0 0 0 0, .vsin {} 1 2 0 none), (fw 0x28E 1 2 0 0 7 0 0, .vqpush {} 1 2 7),
    (fw 0x28F 1 2 0 0 7 0 0, .vqpop {} 1 2 7), (fw 0x290 1 2 0 0 0 0 0, .vqstat {} 1 2)] = true := by decide

theorem test_decode_matrix_and_copy : decodes [
    (fw 0x300 1 2 0 0 0 1 0, .mshape {} 1 2 true), (fw 0x301 1 0 0 0 0 0 0, .mzero {} 1), (fw 0x302 1 8 16 4 5 0xF 0, .mma {} 1 8 16 (some 4) (some 5) 3),
    (fw 0x303 1 8 16 4 0 5 0x1F, .mmag {} 1 8 16 (some 4) none 1 3 7), (fw 0x304 1 2 3 0 0 0 0, .mlda {} 1 2 3), (fw 0x305 1 2 3 4 5 3 0, .msta {} 1 2 3 (some (4, 5)) true),
    (fw 0x306 0 0 0 0 0 0 0, .mdrain {}), (fw 0x307 1 2 15 0 0 0 0, .movcG {} 1 2 15), (fw 0x307 1 2 15 0 0 1 0, .movcP {} 1 2 15), (fw 0x308 3 0 0 0 0 4 0, .rmode {} 3 4),
    (fw 0x340 1 2 3 4 5 0xB 0, .cpy {} 1 2 3 4 5 3 true), (fw 0x340 1 2 3 4 5 4 0, .cpyX {} 1 2 3 4 5 0 false), (fw 0x341 1 2 3 4 5 5 0, .cpyt {} 1 2 3 4 5 1 true false),
    (fw 0x342 1 2 3 4 5 8 0, .cmcast {} 1 2 3 4 5 0 true), (fw 0x343 1 2 3 4 5 9 0xFF, .gath {} 1 2 3 4 5 255 1 true), (fw 0x344 1 2 3 4 5 2 1, .scat {} 1 2 3 4 5 1 2),
    (fw 0x345 1 2 3 4 5 6 0, .cred {} 1 2 3 4 5 2 true false), (fw 0x346 1 0 0 0 0 0 0, .cwait {} 1), (fw 0x347 1 2 0 0 0 0 0, .cstat {} 1 2)] = true := by decide

theorem test_decode_system : decodes [
    (fw 0x380 1 0 0 0 1 0 2, .csrr {} 1 0x102), (fw 0x380 1 2 0 0 0 1 0, .csrrX {} 1 2), (fw 0x380 1 0 0 0 0 2 2, .csrrF {} 1 2), (fw 0x381 1 0 0 0 0 0 5, .csrw {} 5 1),
    (fw 0x381 1 2 0 0 0 1 0, .csrwX {} 2 1), (fw 0x382 0 0 0 0 0 0 7, .trap {} 7), (fw 0x382 0 0 0 0 1 1 0, .trapBrk {} 0x100), (fw 0x383 0 0 0 0 0 0 0, .eret {}),
    (fw 0x383 0 0 0 0 0 1 0, .eretDiscard {}), (fw 0x384 1 2 3 0 0 0 0, .spawn {} 1 2 3), (fw 0x385 1 0 0 0 0 0 0, .gsig {} 1), (fw 0x386 1 2 0 0 0 0 0, .tlbiVa {} 1 2),
    (fw 0x386 1 2 0 0 0 1 0, .tlbiAsn {} 1 2), (fw 0x386 0 0 0 0 0 2 0, .tlbiVd {}), (fw 0x386 1 2 0 0 0 3 0, .tlbiGpa {} 1 2), (fw 0x386 1 2 0 0 0 4 0, .tlbiS2 {} 1 2),
    (fw 0x387 0 0 0 0 0 0 0xFE, .snap {} 0xFE), (fw 0x388 1 0 0 0 0 0 0, .ebudQ {} 1), (fw 0x388 1 2 0 0 0 1 0, .ebudR {} 1 2), (fw 0x388 1 2 0 0 0 2 0, .ebudF {} 1 2),
    (fw 0x389 1 2 3 0 0 0 0, .keyld {} 1 2 3)] = true := by decide

/-! Words that name no instruction: a reserved bit, a field beyond its class, an opcode of no row (Table 10.11, orders 2 and 4). -/

/-- Every word of a list names an instruction's opcode but is none. -/
def illegalWords (xs : List Word) : Bool := xs.all fun w => match decodeWord w with | .illegal _ => true | .ok _ => false | .unassigned => false

theorem test_decode_illegal_words : illegalWords [0x0045181FFF2000FD,
    fw 0x01F 1 2 3 8 0 0 0, fw 0x081 8 0 0 0 0 0 0, fw 0x087 4 0 0 0 0 0 0, fw 0x200 32 0 0 0 0 0 0, fw 0x20F 16 0 0 0 0 0 0, fw 0x28E 4 0 0 0 0 0 0,
    fw 0x301 4 0 0 0 0 0 0, fw 0x200 0 0 0 0 16 0 0, fw 0x200 0 0 0 0 0 0 0x20, fw 0x008 0 0 0 1 0 0 0, fw 0x085 0 0 0 0 0 3 0, fw 0x380 1 0 0 0 0 3 0,
    fw 0x386 0 0 0 0 0 5 0, fw 0x217 0 0 0 0 0 2 0] = true := by decide

theorem test_decode_unassigned : decodeWord (fw 0x02D 0 0 0 0 0 0 0) = .unassigned ∧ decodeWord (fw 0x091 0 0 0 0 0 0 0) = .unassigned ∧
    decodeWord (fw 0x11F 0 0 0 0 0 0 0) = .unassigned ∧ decodeWord (fw 0x193 0 0 0 0 0 0 0) = .unassigned ∧ decodeWord (fw 0x221 0 0 0 0 0 0 0) = .unassigned ∧
    decodeWord (fw 0x291 0 0 0 0 0 0 0) = .unassigned ∧ decodeWord (fw 0x309 0 0 0 0 0 0 0) = .unassigned ∧ decodeWord (fw 0x348 0 0 0 0 0 0 0) = .unassigned ∧
    decodeWord (fw 0x38A 0 0 0 0 0 0 0) = .unassigned ∧ decodeWord (fw 0x2FF 0 0 0 0 0 0 0) = .unassigned := by decide
/-! WellFormed: for each check a term it refuses, beside one it accepts. -/

/-- The first term is well formed, none of the others is. -/
def refuses (good : Instr) (bad : List Instr) : Bool := good.wf && bad.all fun i => !i.wf

-- R260, R265: HINT where it acts, CB on a convoy member
theorem test_wf_common_fields : refuses (.add {} 1 2 3) [.add { hint := 1 } 1 2 3, .add { cb := true } 1 2 3, .vsetvl { cb := true } 1 2, .mma { cb := true } 0 0 0 none none 0,
    .vadd { hint := 1 } 1 2 3 0 none, .fence { hint := 2 } .acq .kiln] ∧ (Instr.vadd { cb := true } 1 2 3 0 none).wf ∧ (Instr.ldd { hint := 3 } 1 2 .rlx 0 .stream).wf := by decide

-- R279, R283, R282, R285: bit fields, rounding, conversions, conditions
theorem test_wf_scalar : refuses (.ext {} 1 2 60 3 true) [.ext {} 1 2 60 4 true, .ins {} 1 2 63 1] ∧ refuses (.fadd {} 1 2 3 12) [.fadd {} 1 2 3 1, .fsub {} 1 2 3 13, .fmul {} 1 2 3 7, .ffma {} 1 2 3 4 15] ∧
    refuses (.fcvt {} 1 2 0x10 0x12 0) [.fcvt {} 1 2 0x10 0x10 0, .fcvt {} 1 2 0x11 0x12 0, .fcvt {} 1 2 0x10 0x12 2] ∧ refuses (.cmp {} 1 2 3 9) [.cmp {} 1 2 3 10, .fcmp {} 1 2 3 8] := by decide

-- R298, R302: order and scope codes of accesses
theorem test_wf_memory : refuses (.ldw {} 1 2 false .acq 0 .kiln) [.ldb {} 1 2 false .rlx 0 .kiln, .ldh {} 1 2 false .rel 0 .kiln, .ldw {} 1 2 false .acq 0 .fetch, .ldd {} 1 2 .sc 0 .kiln] ∧
    refuses (.stw {} 1 0 2 .rel .kiln) [.stb {} 1 0 2 .acq .kiln, .sth {} 1 0 2 .rel .layer, .stw {} 1 0 2 .rlx .task, .std {} 1 0 2 .sc .kiln] ∧
    refuses (.aadd {} 1 2 3 true .sc .kiln) [.aadd {} 1 2 3 true .sc .recode, .aand {} 1 2 3 true .rlx .fetch, .aor {} 1 2 3 true .rlx .layer, .axor {} 1 2 3 true .rlx .fetch,
      .amin {} 1 2 3 true true .rlx .fetch, .amax {} 1 2 3 true true .rlx .fetch, .aswp {} 1 2 3 true .rlx .fetch, .acas {} 1 2 3 4 true .rlx .fetch] := by decide

-- R303 to R314: fences, barriers and sync words
theorem test_wf_synchronisation : refuses (.fence {} .sc .kiln) [.fence {} .rlx .kiln, .fence {} .sc .recode] ∧ refuses (.mfence {} 1 .task) [.mfence {} 0 .task, .mfence {} 1 .fetch] ∧
    refuses (.xfence {} .acqrel) [.xfence {} .rlx, .xfence {} .sc] ∧ refuses (.publish {} 1 2 .kiln) [.publish {} 1 2 .fetch, .wfence {} .layer] ∧
    refuses (.bara {} 1 .cord) [.bara {} 1 .core, .barw {} 1 .pod] ∧ refuses (.swadd {} 1 2 .rel .kiln) [.swadd {} 1 2 .acq .kiln, .swadd {} 1 2 .rlx .task, .swait {} 1 2 .recode, .swread {} 1 2 .rel .kiln] := by decide

-- R328, R338 to R366: the vector unit
theorem test_wf_vector : refuses (.hq {} 1 2 4) [.hq {} 1 2 5] ∧ refuses (.vcmp {} 1 2 3 0 none 7) [.vcmp {} 1 2 3 0 none 8] ∧
    refuses (.vcvt {} 1 2 0x12 none 0 none 2) [.vcvt {} 1 2 0x05 none 0 none 0, .vcvt {} 1 2 0x12 none 0 none 3, .vcvt {} 1 2 0x01 none 0 none 1] ∧
    refuses (.vqblk {} 1 2 3 none 0 2) [.vqblk {} 1 2 3 none 0 3, .vqblk {} 1 1 3 none 0 2, .vqblk {} 1 2 1 none 0 2, .vqblk {} 1 2 2 none 0 2] ∧
    refuses (.vretag {} 1 2 0x20 0) [.vretag {} 1 2 0x21 0, .vsplat {} 1 2 0x16 0 none] ∧ refuses (.vgth {} 1 2 3 0 0 none false) [.vgth {} 3 2 3 0 0 none false] ∧
    refuses (.vred {} 1 2 0 none true 4) [.vred {} 1 2 0 none true 5, .vscan {} 1 2 0 none true 7] := by decide

-- R253, R379, R411, R429: groups, queue masks, collective operations, CSR numbers
theorem test_wf_matrix_copy_and_system : refuses (.mma {} 0 16 8 none none 3) [.mma {} 0 12 8 none none 3, .mma {} 0 16 12 none none 3, .mmag {} 0 1 8 none none 1 0 0] ∧
    refuses (.rmode {} 3 4) [.rmode {} 0 4, .rmode {} 1 5] ∧ refuses (.cred {} 1 2 3 4 5 2 true false) [.cred {} 1 2 3 4 5 3 true false] ∧
    refuses (.csrr {} 1 0x102) [.csrr {} 1 0x103, .csrw {} 6 1, .csrrF {} 1 3] := by decide

/-! Witnesses: for each statement with hypotheses a state and operands that meet them. -/

/-- The module after reset with a task of VD 1 on the first stoker of core 0, whose execute stream is in focus, in U mode. -/
def user : State := State.reset.withFetchWord 64 0

/-- The same, its stream's context changed. -/
def userWith (f : Ctx → Ctx) : State := user.modCtx 0 f

/-- The execute stream issues every instruction of a list. -/
def allIssue (s : State) (is : List Instr) : Prop := ∀ i ∈ is, Issues i s

def issueOk (s : State) (i : Instr) : Bool :=
  decide (issueFault i (s.ctx s.focus) = none ∧ (s.ctx s.focus).stalls i = false ∧ (s.ctx s.focus).guards i.ctl = true ∧ (s.ctx s.focus).lost = none)

theorem one_issue {s : State} {i : Instr} (h : issueOk s i = true) : Issues i s := by
  have h := of_decide_eq_true h
  exact h

theorem all_issue {s : State} {is : List Instr} (h : is.all (issueOk s) = true) : allIssue s is :=
  fun i hi => one_issue (List.all_eq_true.mp h i hi)

theorem meets_scalar_statements : allIssue user [.add {} 63 1 2, .addi { g1 := 9 } 1 2 (-1), .sub {} 0 1 2, .mul {} 1 1 1, .mulh {} 1 2 3, .mulhu {} 1 2 3,
    .addx {} 1 2 3 7, .and {} 1 2 3, .andi {} 1 2 (-1), .or {} 1 2 3, .ori {} 1 2 3, .xor {} 1 2 3, .xori {} 1 2 3, .andn {} 1 2 3, .min {} 1 2 3, .minu {} 1 2 3,
    .max {} 1 2 3, .maxu {} 1 2 3, .sel {} 1 2 3 7, .div {} 1 2 3, .divu {} 1 2 3, .rem {} 1 2 3, .remu {} 1 2 3, .shl {} 1 2 3, .shli {} 1 2 63, .shr {} 1 2 3,
    .shri {} 1 2 3, .sra {} 1 2 3, .srai {} 1 2 3, .rot {} 1 2 3, .clz {} 1 2, .ctz {} 1 2, .popc {} 1 2, .li {} 1 2, .lih {} 1 2 3, .ext {} 1 2 60 3 true,
    .ins {} 1 2 0 63, .fadd {} 1 2 3 0, .fsub {} 1 2 3 8, .fmul {} 1 2 3 9, .ffma {} 1 2 3 4 12, .fmin {} 1 2 3, .fmax {} 1 2 3, .fcvt {} 1 2 0x10 0x12 0] :=
  all_issue (by decide +kernel)

/-- A state for the branch cases: s1 the iterations left, b1 and the strip-mine registers as a loop leaves them. -/
def looping (r : Int) (prev : Word) (n : Nat) : State :=
  userWith fun x => { (x.setS 1 (BitVec.ofInt 64 r)).setB 1 0x40 with smpc := x.pc, smprev := prev, smcnt := BitVec.ofNat _ n }

theorem meets_predicates_and_branches : allIssue user [.cmp {} 1 1 2 0, .cmp {} 0 1 2 9, .pand {} 1 2 3, .por {} 0 2 3, .pxor {} 7 2 3, .pnot {} 1 2, .pmov {} 1 2,
      .pmovGet {} 1, .pmovSet {} 1, .fcmp {} 1 2 3 0, .pbr {} 0 (.rel (-1)), .pbr {} 3 (.reg 1), .br {} 0 0, .br {} 3 3, .call {} 1 0 0, .call {} 1 0 3,
      .ret {} 1 0, .ret {} 1 3, .bsm {} 1 (-1), .bsmT {} 1 2] ∧ (user.ctx user.focus).mode ≠ .m ∧
    allIssue (looping 4 0 0) [.pbr {} 0 (.reg 1), .ret {} 1 0] ∧ ((looping 4 0 0).ctx 0).s 1 % 8 ≠ 0 ∧
    allIssue (looping 8 0 0) [.pbr {} 0 (.reg 1), .ret {} 1 2] ∧ ((looping 8 0 0).ctx 0).s 1 % 8 = 0 ∧
    allIssue (looping 65 65 1) [.bsm {} 1 (-1), .bsmT {} 1 2] ∧
    (let x := (looping 65 65 1).ctx 0; x.smpc = x.pc ∧ x.smprev.toInt ≤ (x.s 1).toInt ∧ x.smcnt = 1) ∧
    allIssue (looping 64 65 1) [.bsm {} 1 (-1)] ∧ (let x := (looping 64 65 1).ctx 0; ¬ x.smprev.toInt ≤ (x.s 1).toInt) := by
  unfold allIssue Issues IssuesAt; decide +kernel

/-! What makes a line sound, and a page of them reached. -/

/-- No line is in error, marked, poisoned or being switched. -/
def clean (s : State) : Bool :=
  s.hbm.errors.isEmpty && s.hbm.failed.isEmpty && s.hbm.marked.isEmpty && s.hbm.poison.isEmpty &&
    s.tags.all fun x => !vcPoisoned (tagVc x.2) && tagVc x.2 != vcRecode

/-- Lines of an HBM granule that is its owner's own, in a clean state, are sound and hold no poison. -/
theorem sound_line {s : State} {line g o n : Nat} (c : clean s = true) (hg : line / 16384 = g) (low : g < 386048)
    (own : s.granule g = { owner := o, gen := n }) :
    SoundLine s (some (.own o n)) line ∧ vcPoisoned (tagVc (homeTag s line)) = false := by
  simp only [clean, Bool.and_eq_true, List.isEmpty_iff] at c
  obtain ⟨⟨⟨⟨ce, cf⟩, cm⟩, cp⟩, ct⟩ := c
  have hbm : region (line * 128) = .hbm := by unfold region; rw [if_pos (by omega)]
  have tag : homeTag s line = s.tag line := by simp [homeTag, hbm, onPoison, cp]
  have vc : vcPoisoned (tagVc (s.tag line)) = false ∧ tagVc (s.tag line) ≠ vcRecode := by
    rcases SMap.get_listed unlistedTag line s.tags with e | ⟨x, hx, e⟩
    · unfold State.tag; rw [e]; decide
    · have := List.all_eq_true.mp ct x hx
      rw [e] at this
      simpa [State.tag] using this
  refine ⟨⟨hbm, ⟨?_, by simp⟩, ⟨?_, ?_, ?_⟩, by rw [tag]; exact vc.2⟩, by rw [tag]; exact vc.1⟩
  · simp [keyCheck, hbm, lineKeys, hg, own, ownerKey]
  · simp [health, hbm, cf, ce, SMap.get]
  · simp [cm, SMap.get]
  · simp [onPoison, cp]

/-- A page whose TLB entry comes first, in a granule of HBM that is its owner's own. -/
structure FirstPage (s : State) (core vd asn : Nat) (t : TlbEntry) (o n : Nat) : Prop where
  clean : clean s = true
  first : (s.core core).tlb.head? = some t
  whose : t.vd = vd ∧ (t.asn = none ∨ t.asn = some asn)
  plain : t.attrs.trk = false ∧ t.attrs.dirty = true
  inside : t.hpa / 2 ^ 21 = (t.hpa + t.size - 1) / 2 ^ 21 ∧ t.hpa / 2 ^ 21 < 386048
  outside : inSqRange s t.hpa = false
  own : s.granule (t.hpa / 2 ^ 21) = { owner := o, gen := n }
  key : slotKey s vd t.attrs.key = some (.own o n)

theorem first_page {s : State} {core vd asn o n : Nat} {t : TlbEntry}
    (p : Tests.clean s = true ∧ (s.core core).tlb.head? = some t ∧ (t.vd = vd ∧ (t.asn = none ∨ t.asn = some asn)) ∧
      (t.attrs.trk = false ∧ t.attrs.dirty = true) ∧ (t.hpa / 2 ^ 21 = (t.hpa + t.size - 1) / 2 ^ 21 ∧ t.hpa / 2 ^ 21 < 386048) ∧
      inSqRange s t.hpa = false ∧ s.granule (t.hpa / 2 ^ 21) = { owner := o, gen := n } ∧ slotKey s vd t.attrs.key = some (.own o n)) :
    FirstPage s core vd asn t o n :=
  let ⟨a, b, c, d, e, f, g, h⟩ := p
  ⟨a, b, c, d, e, f, g, h⟩

theorem FirstPage.at {s : State} {core vd asn o n : Nat} {t : TlbEntry} (p : FirstPage s core vd asn t o n) {m : Option Mode} {x : Nat} {a : Access}
    (pa : t.permits m a = true) (lo : t.base ≤ x) (hi : x < t.base + t.size) :
    tlbFind s core vd asn x m a = some t ∧ normalise s (t.out x) = t.out x ∧
      SoundLine s (slotKey s vd t.attrs.key) (t.out x / 128) ∧ vcPoisoned (tagVc (homeTag s (t.out x / 128))) = false := by
  have g : t.out x / 2 ^ 21 = t.hpa / 2 ^ 21 := by have := p.inside.1; unfold TlbEntry.out; omega
  have reg : region (t.out x) = .hbm := by
    have := p.inside.2
    unfold region; rw [if_pos (by omega)]
  have nrm : normalise s (t.out x) = t.out x := by simp [normalise, reg]
  have sq : inSqRange s (t.out x) = false := by
    have h := p.outside
    have reg' : region t.hpa = .hbm := by have := p.inside.2; unfold region; rw [if_pos (by omega)]
    simp only [inSqRange, reg'] at h
    simp only [inSqRange, reg, g]
    exact h
  refine ⟨?_, nrm, ?_⟩
  · obtain ⟨ts, e⟩ : ∃ ts, (s.core core).tlb = t :: ts := by
      have := p.first
      cases h : (s.core core).tlb with
      | nil => rw [h] at this; simp at this
      | cons a b => rw [h] at this; simp at this; exact ⟨b, by rw [this]⟩
    have u : t.usable s x a = true := by
      simp [TlbEntry.usable, reg, outputCheck, nrm, podOk, sq, hostPage]
    have hit : t.hits vd asn x = true := by
      rcases p.whose with ⟨h1, h2 | h2⟩ <;> simp [TlbEntry.hits, h1, h2, lo, hi]
    simp [tlbFind, e, hit, pa, u]
  · rw [p.key]
    exact sound_line p.clean (by rw [Nat.div_div_eq_div_mul]; exact g) p.inside.2 p.own

theorem FirstPage.reaches {s : State} {core vd asn o n : Nat} {t : TlbEntry} (p : FirstPage s core vd asn t o n) {va k : Nat}
    (pa : t.permits none .store = true) (lo : t.base ≤ va) (hi : va + k ≤ t.base + t.size) : PartReaches s core vd asn .store va k := by
  intro x h1 h2
  obtain ⟨a, b, c, d⟩ := p.at pa (by omega : t.base ≤ x) (by omega)
  exact ⟨t, a, p.plain.1, p.plain.2, by rw [b]; exact c, by rw [b]; exact d⟩

theorem FirstPage.stores {s : State} {k o n : Nat} {t : TlbEntry} (p : FirstPage s (coreOf k) (s.ctx k).vd (s.ctx k).asn t o n) {va : Nat}
    (pa : (s.ctx k).mode ≠ .m ∧ t.permits (some (s.ctx k).mode) .store = true) (lo : t.base ≤ va) (hi : va < t.base + t.size) :
    StoresSoundly s k va (t.out va / 128) := by
  obtain ⟨a, b, c, _⟩ := p.at pa.2 lo hi
  exact ⟨pa.1, t, a, by rw [b], c⟩

theorem FirstPage.reads {s : State} {core vd asn o n : Nat} {t : TlbEntry} (p : FirstPage s core vd asn t o n) {va : Nat} {bs : List Byte}
    (pa : t.permits none .load = true ∧ t.base % 128 = 0 ∧ t.hpa % 128 = 0) (lo : t.base ≤ va) (hi : va + bs.length ≤ t.base + t.size)
    (one : va % 128 + bs.length ≤ 128) (same : homeTag s (t.out va / 128) = mkTag 0 vcValid 127 ∧ s.bytes (t.out va) bs.length = bs) :
    PartReads s core vd asn va bs := by
  intro x h1 h2
  have e : max va (x / 128 * 128) = va := by omega
  rw [e]
  obtain ⟨a, b, c, d⟩ := p.at pa.1 lo (by omega : va < t.base + t.size)
  refine ⟨t, a, p.plain.1, ?_⟩
  rw [b]
  have at_ : t.out va / 128 * 128 + x % 128 = t.out va + (x - va) := by
    have : t.out va % 128 = va % 128 := by unfold TlbEntry.out; omega
    omega
  refine ⟨⟨c, 0, 127, same.1, by decide⟩, ?_⟩
  rw [at_]
  obtain ⟨j, hj, e⟩ : ∃ j, j < bs.length ∧ x - va = j := ⟨x - va, by omega, rfl⟩
  have := s.bytes_byte bs.length (t.out va) j hj
  rw [same.2] at this
  rw [e, List.getD_eq_getElem?_getD, this]
  rfl

/-- Tables at 0x1000, 0x2000 and 0x3000 that map the first GiB of a VD's guest-physical space onto itself. -/
theorem guest_place {s : State} {vd a : Nat} {acc : Access} (ha : a < 2 ^ 30) (root : (s.vd vd).s2root = 0x1001)
    (t : ∀ p ∈ [0x1000, 0x2000, 0x3000], SoundLine s (slotKey s 64 0) (p / 128) ∧ tagVc (homeTag s (p / 128)) = vcValid)
    (w : BitVec.ofNat 64 (wordOfBytes (s.bytes 0x1000 8)) = 0x2001 ∧ BitVec.ofNat 64 (wordOfBytes (s.bytes 0x2000 8)) = 0x3001 ∧
      BitVec.ofNat 64 (wordOfBytes (s.bytes 0x3000 8)) = 0xF) : guestPlace s vd a acc = (.ok a, s) := by
  have read : ∀ p ∈ [0x1000, 0x2000, 0x3000], (tableRead (slotKey s 64 0) (p + 8 * 0)).on s = (.ok (BitVec.ofNat 64 (wordOfBytes (s.bytes p 8))), s) :=
    fun p hp => table_read (t p hp).1 (t p hp).2
  have r1 := read 0x1000 (by simp)
  have r2 := read 0x2000 (by simp)
  have r3 := read 0x3000 (by simp)
  rw [w.1] at r1; rw [w.2.1] at r2; rw [w.2.2] at r3
  have got : (get : Walk State).on s = (.ok s, s) := rfl
  have i1 : a / 2 ^ 48 % 16 = 0 := by omega
  have i2 : a / 2 ^ (12 + 9 * 3) % 512 = 0 := by omega
  have i3 : a / 2 ^ (12 + 9 * 2) % 512 = 0 := by omega
  have i4 : a / 2 ^ 30 * 2 ^ 30 = 0 := by omega
  have reg : region a = .hbm := by unfold region; rw [if_pos (by omega)]
  have entry : ∀ p w, p + 8 < 2 ^ 30 → (tableRead (slotKey s 64 0) p).on s = (.ok w, s) → (s2Entry vd a p).on s = (.ok w, s) := by
    intro p w hp h
    have rp : region p = .hbm := by unfold region; rw [if_pos (by omega)]
    have np : normalise s p = p := by simp [normalise, rp]
    have pod : podOk s vd p = true := by simp [podOk, rp]
    unfold s2Entry
    rw [on_bind got]
    simp only [pod, Bool.not_true, Bool.false_eq_true, if_false]
    simp only [np, rp]
    exact h
  have walked : (s2Walk vd a 0x1000 4).on s = (.ok { base := 0, size := 2 ^ 30, hpa := 0, r := true, w := true, x := true }, s) := by
    unfold s2Walk
    simp only [i1, ↓reduceIte]
    rw [on_bind (entry _ _ (by omega) r1)]
    show (s2Walk vd a 0x2000 3).on s = _
    unfold s2Walk
    simp only [i2, show (2 + 1 = 4) = False by simp, ↓reduceIte]
    rw [on_bind (entry _ _ (by omega) r2)]
    show (s2Walk vd a 0x3000 2).on s = _
    unfold s2Walk
    simp only [i3, show (1 + 1 = 4) = False by simp, ↓reduceIte]
    rw [on_bind (entry _ _ (by omega) r3)]
    have b : bit (0xF : Word) 0 = true ∧ bit (0xF : Word) 1 = true ∧ bit (0xF : Word) 2 = true ∧ bit (0xF : Word) 3 = true := by decide
    have ps : pageSize (1 + 1) (field (0xF : Word) 11 9) = some (2 ^ 30) := by decide
    have oa : field (0xF : Word) 51 12 * 4096 = 0 := by decide
    simp only [b, ps, oa, Bool.not_true, Bool.and_false, Bool.false_eq_true, if_false, i4, Nat.zero_mod, ne_eq, not_true, show ¬ (1 + 1 > 2) by omega]
    rfl
  have st : (stage2 vd a acc).on s = (.ok ({ base := 0, size := 2 ^ 30, hpa := 0, r := true, w := true, x := true }, a), s) := by
    unfold stage2
    rw [on_bind got]
    simp only [root, show (!bit (0x1001 : Word) 0) = false by decide, Bool.false_eq_true, if_false, show field (0x1001 : Word) 51 12 * 4096 = 0x1000 by decide]
    have : (tryCatch (s2Walk vd a 0x1000 4) fun e => throw (match e with | .request 0 p _ => .request 0 p (rights acc) | e => e) : Walk S2Leaf).on s =
        (.ok { base := 0, size := 2 ^ 30, hpa := 0, r := true, w := true, x := true }, s) := by
      have := walked
      unfold Walk.on at this ⊢
      simp only [tryCatch, tryCatchThe, MonadExceptOf.tryCatch, ExceptT.tryCatch, ExceptT.run, ExceptT.mk, bind, StateT.bind] at this ⊢
      rw [this]
      rfl
    refine (on_bind this).trans ?_
    have g : grants true true true acc = true := by cases acc <;> rfl
    simp [g, reg]
    rfl
  unfold guestPlace
  refine (on_bind st).trans ?_
  simp [podOk, normalise, reg]
  rfl

/-- The same of a state that has them and whose first granule is the physical function's. -/
theorem guest_mapped {s : State} {vd : Nat} (root : (s.vd vd).s2root = 0x1001 ∧ clean s = true)
    (own : s.granule 0 = { owner := 64, gen := 0 } ∧ slotKey s 64 0 = some (.own 64 0))
    (t : ∀ p ∈ [0x1000, 0x2000, 0x3000], tagVc (homeTag s (p / 128)) = vcValid)
    (w : BitVec.ofNat 64 (wordOfBytes (s.bytes 0x1000 8)) = 0x2001 ∧ BitVec.ofNat 64 (wordOfBytes (s.bytes 0x2000 8)) = 0x3001 ∧
      BitVec.ofNat 64 (wordOfBytes (s.bytes 0x3000 8)) = 0xF) {a : Nat} {acc : Access} (ha : a < 2 ^ 30) : guestPlace s vd a acc = (.ok a, s) := by
  refine guest_place ha root.1 (fun p hp => ⟨?_, t p hp⟩) w
  rw [own.2]
  refine (sound_line (g := 0) root.2 ?_ (by decide) own.1).1
  simp only [List.mem_cons, List.not_mem_nil, or_false] at hp
  rcases hp with rfl | rfl | rfl <;> rfl

/-- A page of VD 1 for data: VA 0x10000 lies at host-physical 0x210000, untracked, dirty, read and written from any mode. -/
def dataLeaf : TlbEntry :=
  { placedLeaf 1 0x10 0x210000 true with
    size := 0x8000
    s2size := 0x8000
    attrs := { (placedLeaf 1 0x10 0x210000 true).attrs with x := false, w := true, s2w := true } }

/-- The page in the TLB, its first two lines VALID as F32, the first of them holding the bytes 1 to 8; in the task's window h4, a CORE tensor of 64 elements of I32
(two lines), h5, a MEM tensor at the page, h6, a SEQ tensor; the task's frame and record lie in the page; s1 holds a. -/
def coreEntry : HEntry := newEntry 0x0040000100100100 0x2003 7 0
def memEntry : HEntry := { newEntry 0x0040000100100100 0x20D2 8 0x200 with tracked := false }
def seqEntry : HEntry := newEntry 0x0040000100100100 0x2103 9 0x10000

def memory (a : Word) (f : Ctx → Ctx := id) : State :=
  let s := user.modCore 0 fun c => { c with tlb := dataLeaf :: c.tlb, tiles := [(4, coreEntry), (5, memEntry), (6, seqEntry)] }
  let s := (s.setTag 0x4200 (mkTag Fmt.f32.toCode vcValid 127)).setTag 0x4201 (mkTag Fmt.f32.toCode vcValid 127)
  let s := (s.setBytes 0x210000 [1, 2, 3, 4, 5, 6, 7, 8]).modTask 1 fun x => { x with frame := 0x10000, cr := 0x16000 }
  s.modCtx 0 fun c => f (c.setS 1 a)

/-- The slot key of VD 1 in these states is its own. -/
theorem own_key {s : State} {v g x : Nat} (h : slotKey s v 0 = some (.own g x)) : ∀ a b, slotKey s v 0 ≠ some (.window a b) := by
  intro a b; rw [h]; simp

theorem plain_bytes {s : State} {k : Nat} {a : Access} {va n h : Nat} {t : TlbEntry}
    (p : ((s.ctx k).mode ≠ .m ∧ va % 128 + n ≤ 128 ∧ tlbFind s (coreOf k) (s.ctx k).vd (s.ctx k).asn va (some (s.ctx k).mode) a = some t) ∧
      ((t.hpa + (va - t.base)) / 128 = h / 128 ∧ h % 128 = va % 128) ∧ (t.attrs.trk = false ∧ t.attrs.tagpol ≠ 4 ∧ t.attrs.dirty = true) ∧
      (region (h / 128 * 128) = .hbm ∧ keyCheck s (slotKey s (s.ctx k).vd t.attrs.key) (h / 128) = .current) ∧
      (health s (h / 128) = .good ∧ SMap.get false s.hbm.marked (h / 128) = false) ∧
      (s.coh.layer = [] ∧ s.coh.dirs = [] ∧ (∀ r ∈ s.coh.resident, r.vd ≠ (s.ctx k).vd) ∧ bit (s.vd (s.ctx k).vd).dbgcfg 0 = false) ∧
      homeTag s (h / 128) = mkTag Fmt.f32.toCode vcValid 127 ∧ slotKey s (s.ctx k).vd t.attrs.key = some (.own 1 0)) : PlainBytes s k a va n h t := by
  obtain ⟨⟨a1, a2, a3⟩, b, c, ⟨d1, d2⟩, e, f, g, own⟩ := p
  exact ⟨a1, a2, a3, b, c, d1, ⟨d2, by intro w x; rw [own]; simp⟩, e, ⟨_, _, g, by decide +kernel⟩, f⟩

-- the last word of a line, its first byte, an address that is no multiple of 8
theorem meets_load_store_atomic :
    PlainBytes (memory 0x1007C) 0 .load 0x1007C 4 0x21007C dataLeaf ∧ PlainBytes (memory 0x10000) 0 .load 0x10000 8 0x210000 dataLeaf ∧
    PlainBytes (memory 0x1007F) 0 .store 0x1007F 1 0x21007F dataLeaf ∧ PlainBytes (memory 0x10000) 0 .atomic 0x10000 8 0x210000 dataLeaf ∧
    allIssue (memory 0x1007C) [.ldb {} 2 1 true .rlx 3 .stream, .ldh {} 2 1 false .rlx 2 .stream, .ldw {} 2 1 true .acq 0 .kiln, .ldd {} 2 1 .rlx (-4) .stream,
      .stb {} 1 3 2 .rlx .stream, .sth {} 1 0 2 .rel .task, .stw {} 1 0 2 .rel .host, .std {} 1 4 2 .rlx .stream, .aadd {} 3 1 2 false .acq .core,
      .aand {} 3 1 2 false .rlx .core, .aor {} 3 1 2 false .rlx .core, .axor {} 3 1 2 false .rlx .core, .amin {} 3 1 2 false false .rlx .core,
      .amin {} 3 1 2 true false .rlx .core, .amax {} 3 1 2 false false .rlx .core, .amax {} 3 1 2 true true .sc .core, .aswp {} 3 1 2 false .rlx .core,
      .acas {} 3 1 2 4 false .rlx .kiln] ∧
    (((memory 0x1007C).ctx 0).s 1 + BitVec.ofInt 64 (4 : BitVec 20).toInt).toNat % 8 = 0 ∧ (0x1007C % 8 ≠ 0 ∧ ((memory 0x1007C).ctx 0).mode ≠ .m) := by
  refine ⟨plain_bytes ?_, plain_bytes ?_, plain_bytes ?_, plain_bytes ?_, all_issue ?_, ?_⟩ <;> decide +kernel

/-- The task t of a state. -/
def taskOf (s : State) (t : Nat) : Task := (s.task t).getD (runningTask 1)

/-- The task of these states belongs to the first node of a launch: a cord of two with a barrier of its own, of which nobody has arrived. -/
def graphNode : Node := { count := 2, csize := 2, bar := 1, unfinished := 2, next := 2, ready := true }
def graph (a : Word) (f : Ctx → Ctx := id) (n : Node := graphNode) : State :=
  (memory a f).setLaunch 0 (some { vd := 1, queue := 0, lid := 7, asn := 0, nodes := [n, { deps := 1, count := 1 }], frames := 0x10000, nframes := 2, conts := 0x16000, nconts := 2 })

/-- What HandleAt and FreeHandleAt ask, as one decidable fact. -/
theorem handle_at {s : State} {k : Nat} {h : BitVec 6} {t i : Nat} {e : HEntry}
    (p : ((s.ctx k).task = some t ∧ s.task t = some (taskOf s t)) ∧ (i = 64 * (taskOf s t).win + h.toNat ∧ s.entry (coreOf k) i = e) ∧
      (e.valid = true ∧ e.level ≤ 4)) : HandleAt s k h t (taskOf s t) i e := ⟨p.1, p.2.1, p.2.2⟩

theorem free_at {s : State} {k : Nat} {h : BitVec 6} {t i : Nat} {e : HEntry}
    (p : ((s.ctx k).task = some t ∧ s.task t = some (taskOf s t)) ∧ (i = 64 * (taskOf s t).win + h.toNat ∧ s.entry (coreOf k) i = e) ∧
      e.valid = false) : FreeHandleAt s k h t (taskOf s t) i e := ⟨p.1, p.2.1, p.2.2⟩

theorem may_pass {s : State} {k t : Nat}
    (p : ((s.ctx k).task = some t ∧ s.task t = some (taskOf s t)) ∧ (taskOf s t).reason = .none ∧
      mayPass (abandonTransfer s (taskOf s t)) (taskOf s t) = true) :
    MayPassAt s k t (taskOf s t) (abandonTransfer s (taskOf s t)) := ⟨p.1, p.2.1, rfl, p.2.2⟩

/-- The part reaches the frame and the CR of a task of these states. -/
theorem frame_reached {s : State} {x : Task}
    (p : FirstPage s x.core x.vd x.asn dataLeaf 1 0) (q : x.frame.toNat = 0x10000 ∧ x.cr.toNat = 0x16000) : FrameReached s x := by
  refine ⟨p.reaches (by decide) ?_ ?_, p.reaches (by decide) ?_ ?_⟩ <;> simp [q, dataLeaf, placedLeaf]

/-- The state an operation answers, if it answers one. -/
def after {α : Type} (o : Op α) (s : State) : Option State := match o s with | .ok (_, t) => some t | .error _ => none

-- fences of each kind, the queue mask of MFENCE at its ends, a prefetch, a watch, lengths of PUBLISH at 0, over two lines and beyond 2 MiB; barriers before and after
-- arrival; sync words
theorem meets_synchronisation :
    allIssue (graph 0x10000) [.pref {} 1 0 1, .monitor {} 1 0, .fence {} .acq .fetch, .fence {} .acq .layer, .fence {} .sc .kiln, .xfence {} .acq, .xfence {} .rel,
      .mfence {} 1 .task, .mfence {} 63 .cord, .join {}, .publish {} 1 2 .kiln, .wfence {} .kiln, .bara {} 1 .cord, .barw {} 0 .cord, .swset {} 4 1, .swadd {} 4 1 .rel .kiln,
      .swread {} 2 4 .acq .kiln, .swait {} 4 0 .kiln] ∧
    PlainBytes (graph 0x10000) 0 .load 0x10000 1 0x210000 dataLeaf ∧
    HandleAt (graph 0x10000) 0 4 1 (taskOf (graph 0x10000) 1) 4 coreEntry ∧
    MayPassAt (graph 0x10000) 0 1 (taskOf (graph 0x10000) 1) (abandonTransfer (graph 0x10000) (taskOf (graph 0x10000) 1)) ∧
    ((graph 0x10000).ctx 0).s 2 = 0 ∧ (∀ r ∈ (graph 0).pkg.retained, r.vd ≠ ((graph 0).ctx 0).vd) ∧
    barrierOf (graph 0) (taskOf (graph 0) 1) = some (graphNode, 0, 2) ∧ barScope graphNode.bar = some .cord ∧ (((graph 0xFFFFFFF).ctx 0).s 1).toNat < 2 ^ 28 ∧
    (coreEntry.sync.toNat % 256 + 256 - (((graph 0x10000).ctx 0).s 1).toNat % 256) % 256 < 128 ∧
    (∀ ch < 4, channelOwned (graph 0) 0 ch = true) ∧
    (let s := (graph 0).modCore 0 fun c => { c with part0A := c.part0A - 2 ^ 26 }
     Issues (.mfence {} 32 .task) s ∧ (s.ctx 0).mode ≠ .m ∧ (32 : BitVec 6).getLsbD (2 + 3) = true ∧ channelOwned s 0 3 = false) := by
  refine ⟨all_issue ?_, plain_bytes ?_, handle_at ?_, may_pass ?_, ?_, ?_, ?_, ?_, ?_, ?_, ?_, one_issue ?_, ?_⟩ <;> decide +kernel

/-- The kiln keeps the first line of the untracked tensor of h5 as the task's execute stream has written it; a line of a window of VD 1's is M in core 7, whose stokers run no
task of the VD's. -/
def keptByStream : Resident :=
  { kiln := 0, vd := 1, asn := 0, e := memEntry, lines := 2, last := 0, filled := 2,
    copies := [(0x4200, some { data := 1, tag := mkTag Fmt.f32.toCode vcValid 127, dirty := 1, key := some (.own 1 0), writers := [fenceId (graph 0) 0] })] }
def sectored : State :=
  let s := ((graph 0).setWindow 2 { state := .openW, owner := 1, peer := 2, granules := [5] }).setGranule 5 { owner := 1, wk := true, win := 2 }
  { s with coh := { s.coh with resident := [keptByStream], sectors := [(0x14000 * 1024 + 7, .m)] } }

-- a release at RECODE with what its stream has written to its kiln's copies; an acquire at POD and a sector of a window's line
theorem meets_release_and_acquire :
    allIssue sectored [.fence {} .rel .recode, .fence {} .acq .recode, .fence {} .acq .pod, .fence {} .sc .system] ∧ keptByStream ∈ sectored.coh.resident ∧
    keptByStream.kiln = kilnOf (coreOf 0) ∧ SMap.wf none keptByStream.copies = true ∧
    (SMap.get none keptByStream.copies 0x4200).map (fun q => (q.writers.contains (fenceId sectored 0), decide (q.dirty ≠ 0), q.tag)) = some (true, true, mkTag Fmt.f32.toCode vcValid 127) ∧
    GoodLine sectored (some (.own 1 0)) 0x4200 ∧ (sectored.granule (0x14000 / 16384)).wk = true ∧ (sectored.window (sectored.granule (0x14000 / 16384)).win).owner = (sectored.ctx 0).vd ∧
    (orderEffect sectored 0 .acq .pod).coh.sectors = sectored.coh.sectors := by
  refine ⟨all_issue ?_, ?_, ?_, ?_, ?_, { toSoundLine := (sound_line (g := 1) (o := 1) (n := 0) ?_ ?_ ?_ ?_).1, tag := ⟨Fmt.f32.toCode, 127, ?_⟩ }, ?_⟩ <;> decide +kernel

theorem meets_publish :
    (let s := graph 0x10000 fun c => c.setS 2 129
     Issues (.publish {} 1 2 .kiln) s ∧ ∀ j < 2, StoresSoundly s 0 ((0x200 + j) * 128) (0x4200 + j)) ∧
    (graph 0x10000).coh.resident = [] ∧ (0x10000 + 129 - 1) / 128 - 0x200 + 1 = 2 ∧
    (let s := graph 0x10000 fun c => c.setS 2 0x200001
     Issues (.publish {} 1 2 .kiln) s ∧ 2 ^ 21 < ((s.ctx 0).s 2).toNat) := by
  have page : ∀ v : Word, (v = 129) → FirstPage (graph 0x10000 fun c => c.setS 2 v) 0 1 0 dataLeaf 1 0 := by
    rintro _ rfl; exact first_page (by decide +kernel)
  refine ⟨⟨one_issue (by decide +kernel), ?_⟩, rfl, rfl, one_issue (by decide +kernel), by decide +kernel⟩
  intro j hj
  have p := (page 129 rfl).stores (k := 0) (va := (0x200 + j) * 128) (by decide +kernel) (by simp [dataLeaf, placedLeaf]; omega) (by simp [dataLeaf, placedLeaf]; omega)
  have e : dataLeaf.out ((0x200 + j) * 128) / 128 = 0x4200 + j := by simp [dataLeaf, placedLeaf, TlbEntry.out]; omega
  rwa [e] at p

theorem meets_stream_control :
    allIssue (graph 0) [.nop {}, .halt {}, .mwait {} 1, .suspend {} 1, .suspendRel {} 1] ∧
    MayPassAt (graph 0) 0 1 (taskOf (graph 0) 1) (abandonTransfer (graph 0) (taskOf (graph 0) 1)) ∧
    (let s := graph 0 fun c => { c with access := true }
     allIssue s [.halt {}, .mwait {} 1] ∧ (s.ctx 0).monitor = none ∧ (s.ctx 0).access = true) ∧
    ((graph 0).ctx 0).monitor = none ∧ ((graph 0).ctx 0).mode = .u ∧ (((graph 0).ctx 0).s 1).toNat ≤ (graph 0).now := by
  refine ⟨all_issue ?_, may_pass ?_, ⟨all_issue ?_, ?_⟩, ?_⟩ <;> decide +kernel

/-- A watch of the first line of the page, which nothing has fired. -/
def watch : Monitor := { va := 0x10000, line := 0x4200 }

-- the window stays, for h4 is a CORE tensor; deadlines 1 and beyond 2^61; a watch armed
theorem meets_leaving :
    allIssue (graph 1) [.yield {}, .suspend {} 1, .suspendRel {} 1, .swait {} 4 1 .kiln] ∧ allIssue (graph (-1)) [.suspend {} 1, .suspendRel {} 1] ∧
    (∀ a ∈ [1, -1], MayPassAt (graph a) 0 1 (taskOf (graph a) 1) (abandonTransfer (graph a) (taskOf (graph a) 1)) ∧
      FrameReached (abandonTransfer (graph a) (taskOf (graph a) 1)) (taskOf (graph a) 1) ∧ (graph a).now < (((graph a).ctx 0).s 1).toNat) ∧
    ((graph 1).ctx 0).access = false ∧ HandleAt (graph 1) 0 4 1 (taskOf (graph 1) 1) 4 coreEntry ∧ 128 ≤ (coreEntry.sync.toNat % 256 + 256 - 1 % 256) % 256 ∧
    (let s := graph 1 fun c => { c with monitor := some watch }
     Issues (.mwait {} 1) s ∧ (s.ctx 0).monitor = some watch ∧ watch.fired = false ∧ (s.ctx 0).access = false ∧ (s.ctx 0).mode = .u ∧ (s.ctx 0).waitSince = none ∧
       MayPassAt s 0 1 (taskOf s 1) (abandonTransfer s (taskOf s 1)) ∧ FrameReached (abandonTransfer s (taskOf s 1)) (taskOf s 1)) := by
  refine ⟨all_issue (by decide +kernel), all_issue (by decide +kernel), ?_, by decide +kernel, handle_at (by decide +kernel), by decide +kernel, ?_⟩
  · intro a ha
    simp only [List.mem_cons, List.not_mem_nil, or_false] at ha
    rcases ha with rfl | rfl <;> refine ⟨may_pass ?_, frame_reached (first_page ?_) ?_, ?_⟩ <;> decide +kernel
  · refine ⟨one_issue ?_, ?_, ?_, ?_, ?_, ?_, may_pass ?_, frame_reached (first_page ?_) ?_⟩ <;> decide +kernel

/-- The task's window has a KILN tensor at h8 and at h9 an untracked MEM tensor with READ in TEN; the sequence store spans the placed granules 1 to 4, VD 1 has its features and may
open windows with VD 2; registers as given. -/
def kilnEntry : HEntry := newEntry 0x0040000100100100 0x2043 10 (2 ^ 17)
def handles (f : Ctx → Ctx) : State :=
  let s := (graph 0 f).modCore 0 fun c => { c with tiles := c.tiles ++ [(8, kilnEntry), (9, memEntry.setTen 1)] }
  let s := (s.modVd 1 fun v => { v with lock := true, featacc := 0xE, peers := 4 }).modVd 2 fun v => { v with enabled := true, s2root := 1 }
  (s.setGranule 3 { owner := 1 }).setGranule 4 { owner := 2 }

/-- s1 to s4 given. -/
def four (a b c d : Word) (x : Ctx) : Ctx := (((x.setS 1 a).setS 2 b).setS 3 c).setS 4 d

/-- VD 1's aperture maps the first granule of every kiln store. -/
def stored (f : Ctx → Ctx) : State := (handles f).modVd 1 fun v => { v with aperture := (List.range 8).map fun q => (256 * q, 1) }

/-- Shapes of 16,384 and 16,448 lines of F32, a whole scratchpad and more. -/
def wholeShape : Word := 0x0040200000100101
def overShape : Word := 0x0040202000100101

/-- Where the first granule of the scratchpad is taken no run of all 512 is free. -/
theorem no_run {s : State} (r : scratchRange s 0 1 = (0, 512)) (o : s.owner 0 (none, 0) ≠ {}) (g : Nat) :
    ∃ j < 512, (decide ((scratchRange s 0 1).1 ≤ g + j ∧ g + j < (scratchRange s 0 1).1 + (scratchRange s 0 1).2) && decide (s.owner 0 (none, g + j) = {})) = false := by
  by_cases h : g = 0
  · exact ⟨0, by omega, by simp [h, o]⟩
  · exact ⟨511, by omega, by simp [r]; omega⟩

-- a granule at each level; a tensor that no scratchpad holds, one that no free run holds; the shape word 0
theorem meets_halloc :
    (∀ a ∈ [0x2003, 0x2043, 0x2083], let s := stored (four 0x0040000100100100 a 0 0)
     Issues (.halloc {} 7 3 1 2) s ∧ FreeHandleAt s 0 7 1 (taskOf s 1) 7 {} ∧ shapeWordOk ((s.ctx 0).s 1) = true ∧ attrWordOk ((s.ctx 0).s 2) = true ∧
       field ((s.ctx 0).s 2) 8 6 ≤ 2 ∧ (shapeOf ((s.ctx 0).s 1)).footprint 32 = 2 ∧ s.coh.resident = [] ∧
       s.pkg.allocs = [] ∧ (∀ q < 8, demotingRoom s q 1 = false ∧ storeFree s q 1 0 = true ∧ hasRoom s q 1 64 = true) ∧ scratchRange s 0 1 = (0, 512) ∧ s.owner 0 (none, 0) = {} ∧
       HandleAt s 0 4 1 (taskOf s 1) 4 coreEntry ∧ Issues (.halloc {} 4 3 1 2) s) ∧
    (∀ sh ∈ [wholeShape, overShape], let s := stored (four sh 0x2003 0 0)
     Issues (.halloc {} 7 3 1 2) s ∧ shapeWordOk ((s.ctx 0).s 1) = true ∧ (shapeOf sh).footprint 32 = if sh = wholeShape then 16384 else 16448) ∧
    (let s := (stored (four wholeShape 0x2003 0 0)).setOwner 0 (none, 0) { kiln := 0, owner := 1, vd := 1 }
     ∀ g, ∃ j < 512, (decide ((scratchRange s 0 1).1 ≤ g + j ∧ g + j < (scratchRange s 0 1).1 + (scratchRange s 0 1).2) && decide (s.owner 0 (none, g + j) = {})) = false) ∧
    (let s := handles id
     Issues (.halloc {} 63 3 1 2) s ∧ FreeHandleAt s 0 63 1 (taskOf s 1) 63 {} ∧ (s.ctx 0).mode ≠ .m ∧ shapeWordOk ((s.ctx 0).s 1) = false) := by
  refine ⟨?_, ?_, no_run (by decide +kernel) (by decide +kernel), one_issue ?_, free_at ?_, ?_⟩
  · intro a ha
    simp only [List.mem_cons, List.not_mem_nil, or_false] at ha
    rcases ha with rfl | rfl | rfl <;> refine ⟨one_issue ?_, free_at ?_, ?_, ?_, ?_, ?_, ?_, ?_, ?_, ?_, ?_, handle_at ?_, one_issue ?_⟩ <;> decide +kernel
  · intro a ha
    simp only [List.mem_cons, List.not_mem_nil, or_false] at ha
    rcases ha with rfl | rfl <;> exact ⟨one_issue (by decide +kernel), by decide +kernel⟩
  all_goals decide +kernel

-- the VA at the page and one byte beyond; the last block of a sequence's layer and one block too far
theorem meets_hbind :
    (let s := handles (four 0x10000 0x0040000100100100 0x20D2 0)
     Issues (.hbind {} 7 1 2 3) s ∧ FreeHandleAt s 0 7 1 (taskOf s 1) 7 {} ∧ shapeWordOk ((s.ctx 0).s 2) = true ∧ attrWordOk ((s.ctx 0).s 3) = true ∧
       field ((s.ctx 0).s 3) 8 6 = 3 ∧ ((s.ctx 0).s 1).toNat % 128 = 0 ∧ ∃ r w, bindRange (clientOf s 0) 0x10000 1 s = .ok (r, w)) ∧
    (let s := handles (four 0x10001 0x0040000100100100 0x20D2 0)
     Issues (.hbind {} 7 1 2 3) s ∧ field ((s.ctx 0).s 3) 8 6 = 3 ∧ (s.ctx 0).mode ≠ .m ∧ ((s.ctx 0).s 1).toNat % 128 ≠ 0) ∧
    (let s := handles (four 0xFFFFFFFFFFF 0x0040000100100100 0x2112 0)
     Issues (.hbind {} 7 1 2 3) s ∧ field ((s.ctx 0).s 3) 8 6 = 4 ∧ hasFeature s (s.ctx 0).vd 1 = true ∧ ((s.ctx 0).s 1).toNat < 2 ^ 44 ∧
       nameBlock ((s.ctx 0).s 1).toNat + blocksOf s (s.ctx 0).vd 1 ≤ 65536) ∧
    (let s := handles (four 0xFFFFFFFFFFF 0x2000004000100103 0x2112 0)
     Issues (.hbind {} 7 1 2 3) s ∧ field ((s.ctx 0).s 3) 8 6 = 4 ∧ ((s.ctx 0).s 1).toNat < 2 ^ 44 ∧ shapeWordOk ((s.ctx 0).s 2) = true ∧
       65536 < nameBlock ((s.ctx 0).s 1).toNat + blocksOf s (s.ctx 0).vd ((shapeOf ((s.ctx 0).s 2)).footprint (widthOf 0x12))) := by
  have bound : ∀ (o : Op (Nat × Bool)) (s : State), (after o s).isSome = true → ∃ r w, o s = .ok (r, w) := by
    intro o s h; unfold after at h; cases e : o s with
    | ok x => exact ⟨x.1, x.2, rfl⟩
    | error x => rw [e] at h; simp at h
  refine ⟨⟨one_issue ?_, free_at ?_, ?_, ?_, ?_, ?_, bound _ _ ?_⟩, ⟨one_issue ?_, ?_⟩, ⟨one_issue ?_, ?_⟩, one_issue ?_, ?_⟩ <;> decide +kernel

-- HQ's last words; HPRIO's greatest value without class 3; HSHAPE within a KILN tensor's granule, and of one with tenure; HZERO of a CORE tensor at rest
theorem meets_handle_fields :
    (let s := handles (four 47 0x0040000100100100 0 0)
     allIssue s [.hfree {} 4, .hshape {} 8 2, .hshape {} 9 2, .hshape {} 6 2, .hshape {} 5 2, .hprio {} 4 1, .hq {} 3 4 0, .hq {} 3 4 1, .hq {} 3 4 2, .hq {} 3 4 3, .hq {} 3 4 4, .hzero {} 4] ∧
     HandleAt s 0 4 1 (taskOf s 1) 4 coreEntry ∧ HandleAt s 0 8 1 (taskOf s 1) 8 kilnEntry ∧ HandleAt s 0 9 1 (taskOf s 1) 9 (memEntry.setTen 1) ∧
     (shapeWordOk ((s.ctx 0).s 2) = true ∧ kilnEntry.level = 1 ∧ (shapeOf ((s.ctx 0).s 2)).footprint kilnEntry.width ≤ kilnEntry.locv / 2 ^ 17 % 2 ^ 17 * 32 ∧
       tensorId 0 1 0 kilnEntry = some (.kiln 0 0 1) ∧ (s.dir (.kiln 0 0 1)).strongest { task := 1, h := 8 } s.now = 0) ∧
     (tensorId 0 1 0 (memEntry.setTen 1) = none ∧ (memEntry.setTen 1).ten ≠ 0) ∧
     (tensorId 0 1 0 seqEntry = some (.seq 1 1) ∧ (s.dir (.seq 1 1)).strongest { task := 1, h := 6 } s.now = 0 ∧ seqEntry.level = 4 ∧
       nameBlock seqEntry.locv + blocksOf s 1 ((shapeOf ((s.ctx 0).s 2)).footprint seqEntry.width) ≤ 65536 ∧ HandleAt s 0 6 1 (taskOf s 1) 6 seqEntry) ∧
     (tensorId 0 1 0 memEntry = none ∧ memEntry.ten = 0 ∧ memEntry.level = 3 ∧ HandleAt s 0 5 1 (taskOf s 1) 5 memEntry ∧
       (after (bindRange (clientOf s 0) (memEntry.locv * 128) ((shapeOf ((s.ctx 0).s 2)).footprint memEntry.width)) s).isSome) ∧
     (((s.ctx 0).s 1).toNat < 64 ∧ field ((s.ctx 0).s 1) 5 4 ≠ 3) ∧
     (coreEntry.level = 0 ∧ tensorId 0 1 0 coreEntry = some (.core 0 0 0) ∧ (s.dir (.core 0 0 0)).cells = [] ∧ (s.dir (.core 0 0 0)).queue = [] ∧ s.coh.resident = [] ∧ (s.ctx 0).progress = none ∧ coreOf 0 < 192 ∧
       coreEntry.locv % 512 * 32 + coreEntry.footprint ≤ 16384 ∧ ∀ n < coreEntry.footprint, tagVc (homeTag s (scratchBase 0 / 128 + coreEntry.locv % 512 * 32 + n)) ≠ vcRecode)) := by
  refine ⟨all_issue ?_, handle_at ?_, handle_at ?_, handle_at ?_, ?_, ?_, ⟨?_, ?_, ?_, ?_, handle_at ?_⟩, ⟨?_, ?_, ?_, handle_at ?_, ?_⟩, ?_⟩ <;> decide +kernel

-- the whole tensor; a rectangle beyond it; the tensor's one cell idle, read, or written by another task; room in the directories of each level
theorem meets_tenure :
    (let s := handles id
     allIssue s [.htenRead {} 5 0 0, .htenWrite {} 4 0 0, .hrel {} 4 0 0, .hseal {} 4 0 0, .hunseal {} 5 0 0, .hsplit {} 4 0 0] ∧
     HandleAt s 0 5 1 (taskOf s 1) 5 memEntry ∧ HandleAt s 0 4 1 (taskOf s 1) 4 coreEntry ∧ HandleAt s 0 8 1 (taskOf s 1) 8 kilnEntry ∧
     (rectCells memEntry.shp 0 0).isSome ∧ tensorId 0 1 0 memEntry = none ∧
     rectCells coreEntry.shp 0 0 = some [0] ∧ tensorId 0 1 0 coreEntry = some (.core 0 0 0) ∧ cellKeys s 1 coreEntry [0] = [0] ∧
     (∀ kind ∈ [TenKind.read, .write, .seal], ∀ n ∈ [0], ((s.dir (.core 0 0 0)).cell n).conflicts kind 1 s.now = false) ∧ (s.dir (.core 0 0 0)).queue = [] ∧
     (∀ f ∈ [fun z : Cell => z.grantRead (some { task := 1, h := 4 }) 0 ((TensorId.core 0 0 0).path 0) s.now, fun z => z.grantWrite (some { task := 1, h := 4 }) 0,
         fun z => z.seal (some { task := 1, h := 4 })],
       let after := s.setDir { (s.dir (.core 0 0 0)).modCells [0] f with cols := gridCols coreEntry }
       ∀ n ∈ (TensorId.core 0 0 0).top :: (TensorId.core 0 0 0).path 0, dirEntries after n ≤ dirCapacity n)) ∧
    (let s := (handles id).setDir { id := .core 0 0 0, cells := [(0, { state := .sealed, sealer := some { task := 1, h := 4 }, copies := [(1, { task := 2, h := 4 })] })], queue := [] }
     Issues (.hunseal {} 4 0 0) s ∧ HandleAt s 0 4 1 (taskOf s 1) 4 coreEntry ∧ ∃ n ∈ cellKeys s 1 coreEntry [0], ((s.dir (.core 0 0 0)).cell n).unseal.state = .unsealing) ∧
    (let s := (handles id).setDir { id := .core 0 0 0, cells := [(0, { state := .write, holder := some { task := 2, h := 4 } })], queue := [] }
     ∀ kind ∈ [TenKind.read, .write, .seal], ∃ n ∈ [0], ((s.dir (.core 0 0 0)).cell n).conflicts kind 1 s.now = true) ∧
    (let s := (handles id).setDir { id := .core 0 0 0, cells := [(0, { state := .read, expiry := 256, readers := [] })], queue := [] }
     ∃ n ∈ [0], ((s.dir (.core 0 0 0)).cell n).conflicts .write 1 s.now = true) ∧
    (let s := handles (four 1 0 0 0)
     Issues (.htenWrite {} 4 1 0) s ∧ HandleAt s 0 4 1 (taskOf s 1) 4 coreEntry ∧ rectCells coreEntry.shp ((s.ctx 0).s 1) 0 = none) := by
  refine ⟨⟨all_issue ?_, handle_at ?_, handle_at ?_, handle_at ?_, ?_⟩, ⟨one_issue ?_, handle_at ?_, ?_⟩, ?_, ?_, one_issue ?_, handle_at ?_, ?_⟩ <;> decide +kernel

/-- The kiln keeps the untracked tensor of h5: its first line with four bytes written since it was read, its second as it was. -/
def keptCopies : Resident :=
  { kiln := 0, vd := 1, asn := 0, e := memEntry, lines := 2, last := 0, filled := 2,
    copies := [(0x4200, some { data := 0x01020304, tag := mkTag Fmt.f32.toCode vcValid 127, dirty := 0xF, key := some (.own 1 0) }),
               (0x4201, some { data := 0, tag := mkTag Fmt.f32.toCode vcValid 127, dirty := 0, key := some (.own 1 0) })] }

-- tensors the kiln does not cache, and one of which it keeps lines; every level
theorem meets_residency :
    (let s := handles id
     allIssue s [.hevict {} 5, .hevict {} 6, .hevict {} 4, .hdemote {} 8 true false, .hdemote {} 4 false true] ∧ HandleAt s 0 5 1 (taskOf s 1) 5 memEntry ∧
     HandleAt s 0 6 1 (taskOf s 1) 6 seqEntry ∧ HandleAt s 0 8 1 (taskOf s 1) 8 kilnEntry ∧ HandleAt s 0 4 1 (taskOf s 1) 4 coreEntry ∧ s.coh.resident = [] ∧
     memEntry.level = 3 ∧ seqEntry.level = 4 ∧ kilnEntry.level = 1 ∧ 0 < kilnEntry.footprint ∧ coreEntry.level = 0) ∧
    (let s := handles id
     let s := { s with coh := { s.coh with resident := [keptCopies] } }
     Issues (.hevict {} 5) s ∧ HandleAt s 0 5 1 (taskOf s 1) 5 memEntry ∧ keptCopies.is (kilnOf 0) 1 0 memEntry = true ∧ SMap.wf none keptCopies.copies = true ∧
     (SMap.get none keptCopies.copies 0x4200).map (·.dirty) = some 0xF ∧ (SMap.get none keptCopies.copies 0x4201).map (·.dirty) = some 0 ∧ region (0x4200 * 128) = .hbm ∧
     GoodLine s (some (.own 1 0)) 0x4200) := by
  refine ⟨⟨all_issue ?_, handle_at ?_, handle_at ?_, handle_at ?_, handle_at ?_, ?_⟩, one_issue ?_, handle_at ?_, ?_, ?_, ?_, ?_, ?_,
    { toSoundLine := (sound_line (g := 1) ?_ ?_ ?_ ?_).1, tag := ⟨Fmt.f32.toCode, 127, ?_⟩ }⟩ <;> decide +kernel

/-- Names of VD 1: the last two blocks of layer 0 on frames 384 and 385 of granule 3, which is in its share. -/
def named (f : Ctx → Ctx) : State :=
  let s := (handles f).modVd 1 fun v => { v with aperture := [(4096, 4)], cfg := 16 * 2 ^ 25 }
  let s := (s.setName 1 0xFFFE (some 384)).setName 1 0xFFFF (some 385)
  { s with pkg := { s.pkg with frames := [(384, { refs := 1 }), (385, { refs := 1 })] } }

-- names mapped and not, the last of a layer; all the frames of a granule, and one that is not the VD's; shares with a source unmapped, into another layer, through a window that
-- is not the VD's and one that does not hold the frame; name entries wanting; a name word with bit 44
theorem meets_sequence_store :
    (let s := named (four 0xFFFE 0x1FFFE 2 0)
     allIssue s [.sqmap {} 5 1 3 none, .sqmap {} 5 1 3 (some 4), .sqfree {} 1 3, .sqshare {} 5 1 2 3 none, .sqshare {} 5 2 1 3 none] ∧
     SMap.wf 0 s.pkg.names = true ∧ hasFeature s 1 1 = true ∧ hasFeature s 1 2 = true ∧ 0x1FFFE < 2 ^ 44 ∧ nameBlock 0x1FFFE + 2 ≤ 65536 ∧
     (nameFrame s 1 0xFFFE = some 384 ∧ nameFrame s 1 0xFFFF = some 385 ∧ nameFrame s 1 0x1FFFE = none) ∧
     (namesHeld s 1 = 2 ∧ s.pkg.names.length = 2 ∧ field (s.vd 1).cfg 45 25 = 16) ∧
     (seqGranules s 1 = [(0, 3)] ∧ blockBytes s 1 = 2 ^ 14 ∧ ((framesOf 3 (2 ^ 14)).filter fun f => decide ((s.frameWord f).refs = 0)).length = 126) ∧
     (s.hbm.errors = [] ∧ s.hbm.failed = [] ∧ (List.range 126).all (fun j => decide (seqKey s 1 (386 + j) = some (.own 1 0))) = true) ∧
     (∀ f, 386 ≤ f → f < 512 → ∀ l < 128, SoundLine s (some (.own 1 0)) (f * 128 + l)) ∧ (s.window 0).owner ≠ 1) ∧
    (let s := (named (four 0xFFFE 0x1FFFE 2 1)).setWindow 1 { state := .openW, owner := 1, peer := 2, granules := [4] }
     Issues (.sqshare {} 5 1 2 3 (some 4)) s ∧ (s.window 1).owner = 1 ∧ (s.window 1).granules.contains (384 / 128) = false) ∧
    (let s := (named (four 0xFFFE 0 2 1)).setWindow 1 { state := .openW, owner := 1, peer := 2, granules := [3] }
     let t := s.modVd 2 fun v => { v with cfg := 2 * 2 ^ 25 }
     allIssue s [.sqshare {} 5 1 2 3 (some 4)] ∧ allIssue t [.sqshare {} 5 1 2 3 (some 4)] ∧ (s.window 1).granules.contains (384 / 128) = true ∧ field (s.vd 2).cfg 45 25 < 2 ∧
       namesHeld t 2 + 2 ≤ field (t.vd 2).cfg 45 25) ∧
    (let s := named (four (2 ^ 44) 0 1 7)
     SMap.wf 0 s.pkg.names = true ∧ 2 ^ 44 ≤ ((s.ctx 0).s 1).toNat ∧ (s.ctx 0).mode ≠ .m ∧ allIssue s [.sqfree {} 1 3, .sqmap {} 5 1 3 (some 4)] ∧
       (seqGranules s 1).filter (fun g => g.1 = 7) = []) := by
  have sound : ∀ f, 386 ≤ f → f < 512 → ∀ l < 128, SoundLine (named (four 0xFFFE 0x1FFFE 2 0)) (some (.own 1 0)) (f * 128 + l) :=
    fun f h1 h2 l h3 => (sound_line (g := 3) (by decide +kernel) (by omega) (by decide) (by decide +kernel)).1
  refine ⟨⟨all_issue ?_, ?_, ?_, ?_, ?_, ?_, ?_, ?_, ?_, ?_, sound, ?_⟩, ⟨one_issue ?_, ?_⟩, ⟨all_issue ?_, all_issue ?_, ?_⟩, ?_, ?_, ?_, all_issue ?_, ?_⟩ <;> decide +kernel

/-- VD 1's share of the sequence store is a granule of its own and one of another VD's; the core's TLB maps a 2 MiB page of VD 1 at VA 0x400000 to its granule 3. -/
def sharing (f : Ctx → Ctx) : State :=
  let s := (handles f).modVd 1 fun v => { v with aperture := [(4096, 4), (4097, 5)] }
  s.modCore 0 fun c => { c with tlb := { dataLeaf with base := 0x400000, size := 2 ^ 21, hpa := 3 * 2 ^ 21, s2base := 3 * 2 ^ 21, s2size := 2 ^ 21 } :: c.tlb }

/-- What WOPEN asks of a window, as a decidable fact. -/
def openable (s : State) (w : Nat) : Bool := decide ((s.window w).state = .free) && ((s.window w).closer.bind s.task).isNone

theorem not_openable {s : State} {w : Nat} (h : openable s w = false) :
    ¬ ((s.window w).state = .free ∧ ∀ t, (s.window w).closer = some t → s.task t = none) := by
  rintro ⟨a, b⟩
  unfold openable at h
  cases e : (s.window w).closer with
  | none => simp [a, e] at h
  | some t => simp [a, e, b t e] at h

-- sequence granules and a range of VAs: a granule of the VD's and one that is not; the peer VD 2, VD 63 that is not enabled; slots and windows taken, one by a WCLOSE that
-- still waits for it; the last window, closed for its closer, open, and another VD's
theorem meets_windows :
    (let s := sharing (four 0 1 2 0)
     hasFeature s 1 2 = true ∧ Issues (.wopen {} 5 1 2 3 true) s ∧ ((seqGranules s 1).find? fun y => y.1 = 0 + 0).map (·.2) = some 3 ∧
       (2 < 64 ∧ 2 ≠ 1 ∧ vdEnabled s 2 = true ∧ bit (s.vd 1).peers 2 = true) ∧
       (region (3 * 2 ^ 21) = .hbm ∧ (s.granule 3).owner = 1 ∧ (s.granule 3).wk = false ∧ (s.granule 3).rk = false) ∧
       ((s.window 0).state = .free ∧ (s.window 0).closer = none) ∧ SMap.get none (s.vd 1).slots 1 = none ∧ SMap.get none (s.vd 2).slots 1 = none ∧
       (let s := s.setWindow 0 { closer := some 1 }
        openable s 0 = false ∧ (s.window 1).state = .free ∧ (s.window 1).closer = none) ∧
       (let s := { s with pkg := { s.pkg with windows := (List.range 128).map fun w => (w, { state := .openW }) } }
        ∀ w < 128, ¬ ((s.window w).state = .free ∧ ∀ t, (s.window w).closer = some t → s.task t = none)) ∧
       (let s := s.modVd 2 fun v => { v with slots := (List.range 63).map fun j => (j + 1, some (.window 9 0)) }
        ∀ j, 1 ≤ j → j < 64 → ¬ SMap.get none (s.vd 2).slots j = none)) ∧
    (let s := sharing (four 0x400000 (2 ^ 21) 2 0)
     Issues (.wopen {} 5 1 2 3 false) s ∧ (s.ctx 0).mode ≠ .m ∧ (s.ctx 0).progress = none ∧
       (tlbFind s 0 1 0 0x400000 (some .u) .store).map (fun u => (decide (0x400000 + 2 ^ 21 ≤ u.base + u.size), normalise s (u.out 0x400000))) = some (true, 3 * 2 ^ 21)) ∧
    (let s := sharing (four 0 4096 63 0)
     Issues (.wopen {} 5 1 2 3 true) s ∧ ((s.ctx 0).s 2).toNat ≤ 4096 ∧ vdEnabled s 63 = false) ∧
    (let s := sharing (four 1 1 2 0)
     Issues (.wopen {} 5 1 2 3 true) s ∧ ((seqGranules s 1).find? fun y => y.1 = 1 + 0).map (·.2) = some 4 ∧ (s.granule 4).owner ≠ 1) ∧
    (let s := (sharing (four 127 0 0 0)).setWindow 127 { closer := some 1 }
     Issues (.wclose {} 1 true) s ∧ (s.ctx 0).task = some 1 ∧ s.task 1 = some (taskOf s 1) ∧ (s.ctx 0).s 1 = BitVec.ofNat 64 127 ∧ (s.window 127).state = .free ∧
       (s.window 127).closer = some 1) ∧
    (let s := (sharing (four 127 0 0 0)).setWindow 127 { state := .openW, owner := 1, peer := 2, granules := [3], oslot := 1, pslot := 1 }
     Issues (.wclose {} 1 true) s ∧ (s.window 127).state = .openW ∧ (s.window 127).owner = (s.ctx 0).vd ∧ (s.window 127).closer = none ∧ s.pkg.retained = []) ∧
    (let s := (sharing (four 0 0 0 0)).setWindow 0 { state := .openW, owner := 2 }
     Issues (.wclose {} 1 true) s ∧ (s.window 0).closer ≠ some 1 ∧ (s.ctx 0).mode ≠ .m ∧ (s.window 0).owner ≠ (s.ctx 0).vd) := by
  refine ⟨⟨?_, one_issue ?_, ?_, ?_, ?_, ?_, ?_, ?_, ?_, ?_, ?_⟩, ⟨one_issue ?_, ?_⟩, ⟨one_issue ?_, ?_⟩, ⟨one_issue ?_, ?_⟩, ⟨one_issue ?_, ?_⟩, ⟨one_issue ?_, ?_⟩,
    one_issue ?_, ?_⟩
  case refine_10 =>
    have h : ∀ w < 128, openable { sharing (four 0 1 2 0) with pkg := { (sharing (four 0 1 2 0)).pkg with windows := (List.range 128).map fun w => (w, { state := .openW }) } } w = false := by
      decide +kernel
    exact fun w hw => not_openable (h w hw)
  case refine_11 =>
    have h : ∀ j < 64, 1 ≤ j → ¬ SMap.get none ((((sharing (four 0 1 2 0)).modVd 2 fun v => { v with slots := (List.range 63).map fun j => (j + 1, some (.window 9 0)) })).vd 2).slots j = none := by
      decide +kernel
    exact fun j h1 h2 => h j h2 h1
  all_goals decide +kernel

/-! Witnesses for the vector unit. -/

/-- The vector unit's state: vl 2; v1 F32, v2 F16, v3 I8, v4 E2M1, v5 plane bytes of S3M5, v6 POISON, every row of each with the same elements; vp1 all ones. -/
def vrows (v : Nat) (t : Tag) (e : BitVec 32) : List (Nat × Row) := (List.range 16).map fun r => (16 * v + r, { tag := t, data := Vector.replicate 64 e })
def vec (f : Ctx → Ctx := id) : State :=
  handles fun c => f { c with
    vl := 2
    vps := c.vps.set 1 (BitVec.allOnes 1024)
    rows := vrows 1 (mkTag Fmt.f32.toCode vcValid 127) 0x3F800000 ++ vrows 2 (mkTag Fmt.f16.toCode vcValid 127) 0x3C00 ++ vrows 3 (mkTag Fmt.i8.toCode vcValid 127) 5 ++
      vrows 4 (mkTag Fmt.e2m1.toCode vcValid 127) 2 ++ vrows 5 (mkTag Fmt.s3m5.toCode vcValid 127) 0x60 ++ vrows 6 (mkTag Fmt.f32.toCode vcPoison 127) 0 }

def vecOk (s : State) (p : Option Pipe) (n : Nat) (i : Instr) : Bool :=
  issueOk s i &&
  decide ((s.ctx s.focus).vq = [] ∧ (s.ctx s.focus).hold = none ∧ (s.ctx s.focus).faulted = false ∧ (s.ctx s.focus).mode ≠ .m) &&
  decide ((s.ctx s.focus).task = some 1 ∧ (taskOf s 1).mq = [] ∧ s.task 1 = some (taskOf s 1)) &&
  match p with
  | none => !i.ctl.cb
  | some p => match joinConvoy s s.focus i.ctl.cb p n with | .ok x => pipeAtOnce s s.focus p x.2 | .error _ => false

/-- Every instruction of a list is issued and performed at once. -/
def allVec (s : State) (p : Option Pipe) (n : Nat) (is : List Instr) : Prop := ∀ i ∈ is, ∃ y, VecIssues i p n s y

theorem all_vec {s : State} {p : Option Pipe} {n : Nat} {is : List Instr} (h : is.all (vecOk s p n) = true) : allVec s p n is := by
  intro i hi
  have h := List.all_eq_true.mp h i hi
  unfold vecOk at h
  simp only [Bool.and_eq_true, decide_eq_true_eq] at h
  obtain ⟨⟨⟨a, b⟩, c1, c2, c3⟩, d⟩ := h
  have m : ∀ t x, (s.ctx s.focus).task = some t → s.task t = some x → x.mq = [] := by
    intro t x h1 h2
    rw [c1] at h1; cases h1
    rw [c3] at h2; cases h2
    exact c2
  cases p with
  | none => exact ⟨_, one_issue a, b, m, by simpa using d, rfl⟩
  | some p =>
    dsimp only at d
    cases e : joinConvoy s s.focus i.ctl.cb p n with
    | error => rw [e] at d; cases d
    | ok v => rw [e] at d; exact ⟨_, one_issue a, b, m, v.1, v.2, e, d, rfl⟩

/-- Checks over the sixteen rows, and over the lanes, are checks over all. -/
theorem row_le {x : Ctx} {n : BitVec 4} {m : Option (BitVec 4)} {r : Nat} (h : activeRow x n m r = true) : r < 16 := by
  obtain ⟨l, _, h⟩ := List.any_eq_true.mp h
  simp only [active, Bool.and_eq_true, decide_eq_true_eq] at h
  have := n.isLt
  omega

theorem on_rows {x : Ctx} {n : BitVec 4} {m : Option (BitVec 4)} {P : Nat → Prop} (h : ∀ r < 16, activeRow x n m r = true → P r) : ∀ r, activeRow x n m r = true → P r :=
  fun r hr => h r (row_le hr) hr

theorem on_lanes {x : Ctx} {n : BitVec 4} {m : Option (BitVec 4)} {P : Nat → Nat → Prop} (h : ∀ r < 16, ∀ l < 64, active x n m r l = true → P r l) :
    ∀ r l, active x n m r l = true → P r l := by
  intro r l hl
  have hl' := hl
  simp only [active, Bool.and_eq_true, decide_eq_true_eq] at hl'
  have := n.isLt
  exact h r (by omega) l (by omega) hl

-- the first and the last row count, with and without a mask; formats that meet in F32
theorem meets_vector_arithmetic :
    allVec vec (some .mad) 16 [.vadd {} 7 1 2 15 none, .vsub { cb := true } 7 1 2 15 (some 1), .vmul {} 7 1 2 15 none, .vfma {} 7 1 2 1 15 none, .vfms {} 7 1 2 1 15 none,
      .vmin {} 7 1 2 15 none, .vmax {} 7 1 2 15 none, .vabs {} 7 2 15 none, .vneg {} 7 2 15 none] ∧ allVec vec (some .mad) 1 [.vadd {} 7 1 2 0 none] ∧
    (∀ r, activeRow (vec.ctx 0) 15 none r → [1, 2].map (fun v => arithAt (vec.ctx 0) v r) = [Fmt.f32, .f16].map some ∧ lattice vec 1 false .f32 .f16 = some .f32 ∧
      lattice vec 1 true .f32 .f16 = some .f32 ∧ lattice vec 1 false .f16 .f16 = some .f16) ∧ active (vec.ctx 0) 15 none 15 1 = true := by
  refine ⟨all_vec ?_, all_vec ?_, on_rows ?_, ?_⟩ <;> decide +kernel

theorem meets_vector_bitwise :
    allVec vec (some .mad) 16 [.vand {} 7 3 3 15 none, .vor {} 7 1 1 15 none, .vxor {} 7 1 1 15 none, .vshl {} 7 3 3 15 none, .vshr {} 7 3 3 15 none, .vsra {} 7 3 3 15 none] ∧
    (∀ r, activeRow (vec.ctx 0) 15 none r → Fmt.ofCode (tagFmt (tagAt (vec.ctx 0) 3 r)) = some .i8 ∧ vcPoisoned (tagVc (tagAt (vec.ctx 0) 3 r)) = false) ∧
    ((Fmt.i8 = .i8 ∧ Fmt.i8 ≠ .i64) ∧ Fmt.i8 ∈ ([.i8, .i16, .i32] : List Fmt) ∧ Fmt.i8 ∈ ([.i8, .i16, .i32, .ob8, .ob4] : List Fmt)) := by
  refine ⟨all_vec ?_, on_rows ?_, ?_⟩ <;> decide +kernel

theorem meets_vector_compare_select :
    allVec vec (some .mad) 16 [.vcmp {} 2 1 2 15 none 7, .vsel {} 7 1 1 1 15 (some 1)] ∧ (7 : BitVec 4).toNat < 8 ∧
    (∀ r, activeRow (vec.ctx 0) 15 none r → arithAt (vec.ctx 0) 1 r = some .f32 ∧ arithAt (vec.ctx 0) 2 r = some .f16 ∧ (lattice vec 1 false .f32 .f16).isSome) ∧
    (∀ r, activeRow (vec.ctx 0) 15 (some 1) r → vcPoisoned (tagVc (tagAt (vec.ctx 0) 1 r)) = false) := by
  refine ⟨all_vec ?_, ?_, on_rows ?_, on_rows ?_⟩ <;> decide +kernel

theorem meets_vector_predicates :
    allVec vec (some .mad) 16 [.vpand {} 2 1 3 15 none, .vpor {} 2 1 3 15 (some 1), .vpnot {} 2 1 15 none, .vpcnt {} 5 1 15 none] ∧
    allVec vec none 1 [.vany {} 1 1 none, .vall {} 2 1 (some 1)] ∧ Issues (.vsetvl {} 5 1) vec := by
  refine ⟨all_vec ?_, all_vec ?_, one_issue ?_⟩ <;> decide +kernel

-- the row's own exponent, the demotion rule, 127; with a handle and without
theorem meets_vector_conversion :
    allVec vec (some .mad) 16 [.vcvt {} 7 1 0x12 none 15 none 0, .vcvt {} 7 1 0x10 (some 4) 15 none 1, .vcvt {} 7 1 0x11 (some 4) 15 none 2] ∧
    (∀ f ∈ [0x10, 0x11, 0x12], ∃ g, Fmt.ofCode f = some g ∧ g.isArith = true ∧ g.isFloat = true) ∧
    HandleAt vec 0 4 1 (taskOf vec 1) 4 coreEntry ∧ (∀ r, activeRow (vec.ctx 0) 15 none r → arithAt (vec.ctx 0) 1 r = some .f32 ∧ Fmt.f32.isFloat = true) := by
  refine ⟨all_vec (by decide +kernel), ?_, handle_at (by decide +kernel), on_rows (by decide +kernel)⟩
  intro f hf
  simp only [List.mem_cons, List.not_mem_nil, or_false] at hf
  rcases hf with rfl | rfl | rfl <;> exact ⟨_, rfl, by decide, by decide⟩
/-- The two lines of the CORE tensor in the scratchpad, VALID as F32. -/
def vecMem (f : Ctx → Ctx := id) : State :=
  ((vec f).setTag (2 ^ 45) (mkTag Fmt.f32.toCode vcValid 127)).setTag (2 ^ 45 + 1) (mkTag Fmt.f32.toCode vcValid 127)

theorem core_tensor {s : State} {h : BitVec 6} {i : Nat} {e : HEntry} {f : Fmt} {id : TensorId}
    (p : ((s.ctx 0).task = some 1 ∧ s.task 1 = some (taskOf s 1)) ∧ (i = 64 * (taskOf s 1).win + h.toNat ∧ s.entry (coreOf 0) i = e) ∧
      (e.valid = true ∧ e.level ≤ 4))
    (q : (e.level = 0 ∧ coreOf 0 < 192 ∧ e.locv % 512 * 32 + e.footprint ≤ 16384) ∧ (Fmt.ofCode e.fmt0 = some f ∧ f ≠ .i64) ∧
      tensorId (coreOf 0) (s.ctx 0).vd (s.ctx 0).asn e = some id ∧ ((s.dir id).cells = [] ∧ (s.dir id).queue = []) ∧ s.coh.layer = [] ∧
      ((∀ r ∈ s.coh.resident, r.e.level ≠ 0) ∧ bit (s.vd (s.ctx 0).vd).dbgcfg 0 = false) ∧ dirEntries s (8 + coreOf 0) + cellBound e < 1024 ∧
      ∀ n < e.footprint, tagVc (homeTag s (coreLine 0 e n)) ≠ vcRecode ∧ SMap.get false s.hbm.marked (coreLine 0 e n) = false) :
    CoreTensor s 0 h 1 (taskOf s 1) i e := by
  obtain ⟨a, b, c, d, e1, e2, e3, e4⟩ := q
  refine ⟨⟨p.1, p.2.1, p.2.2⟩, a, ⟨f, b⟩, ⟨?_, e1, e2⟩, by omega, e4⟩
  intro j hj
  rw [c] at hj
  cases hj
  exact d

-- each target; the block of a lane below vl; VDEQ of E2M1 rows with S3M5 plane bytes
theorem meets_block_scale :
    allVec vec (some .mad) 16 [.vqblk {} 7 8 1 none 15 0, .vqblk {} 7 8 1 (some 4) 15 1, .vqblk {} 7 8 1 none 15 2, .vdeq {} 7 4 5 true 15 none, .vdeq {} 7 4 5 false 15 (some 1)] ∧
    (vec.ctx 0).vl.toNat ≤ 64 ∧ HandleAt vec 0 4 1 (taskOf vec 1) 4 coreEntry ∧ (∀ r ≤ (15 : BitVec 4).toNat, arithAt (vec.ctx 0) 1 r = some .f32) ∧
    (∀ r, activeRow (vec.ctx 0) 15 none r → arithAt (vec.ctx 0) 4 r = some .e2m1 ∧ companion .e2m1 = some (.s3m5, 8)) ∧
    (∀ r l, active (vec.ctx 0) 15 none r l →
      (match planeByte (tagAt (vec.ctx 0) 5 ((8 * r + l / 8) / 64)) .s3m5 (elemAt (vec.ctx 0) 5 ((8 * r + l / 8) / 64) ((8 * r + l / 8) % 64)).toNat with
        | .ok b => b == 0x60 | .error _ => false) = true) := by
  refine ⟨all_vec ?_, ?_, handle_at ?_, ?_, on_rows ?_, on_lanes ?_⟩ <;> decide +kernel

-- element 1023 and element 1024 of a register
theorem meets_tag_and_element :
    (let s := vec (four (mkTag Fmt.f32.toCode vcValid 120).toNat 1023 0 0)
     allVec s (some .mad) 1 [.vtagGet {} 5 1 15, .vtagSet {} 1 1 15, .vmovsGet {} 5 1 2, .vmovsPut {} 1 1 2] ∧
     allVec s (some .mad) 16 [.vtagSetAll {} 1 1, .vretag {} 7 1 0x03 15, .vsplat {} 7 1 0x10 15 none] ∧
     (∀ i < 16, tagFmt (((s.ctx 0).s 1).setWidth 24) = tagFmt (tagAt (s.ctx 0) 1 i) ∧ tagVc (((s.ctx 0).s 1).setWidth 24) = vcValid) ∧
     (∃ f, Fmt.ofCode (tagFmt (((s.ctx 0).s 1).setWidth 24)) = some f ∧ f.isFloat = true) ∧
     (∀ i ≤ (15 : BitVec 4).toNat, vcPoisoned (tagVc (tagAt (s.ctx 0) 1 i)) = false ∧ Fmt.ofCode (tagFmt (tagAt (s.ctx 0) 1 i)) = some .f32 ∧ Fmt.f32.width = Fmt.i32.width) ∧
     ((s.ctx 0).s 2).toNat < 1024) ∧
    (let s := vec (four 0 1024 0 0)
     allVec s (some .mad) 1 [.vmovsGet {} 5 1 2, .vmovsPut {} 1 1 2] ∧ 1024 ≤ ((s.ctx 0).s 2).toNat) := by
  refine ⟨⟨all_vec ?_, all_vec ?_, ?_, ⟨.f32, ?_⟩, ?_, ?_⟩, all_vec ?_, ?_⟩ <;> decide +kernel

def wholeRow : State := vecMem fun c => { c with vl := 64 }
def coreLineOf (l : Nat) : Nat := coreLine 0 coreEntry ((64 * (0 + 0 * 0) + l) * coreEntry.width / 1024)

-- the tensor's one row, its lines VALID, and never written
theorem meets_vector_load_store :
    (let s := wholeRow
     CoreTensor s 0 4 1 (taskOf s 1) 4 coreEntry ∧ allVec s (some .ldp) 1 [.vld {} 7 4 0 0 0 none false] ∧ allVec s (some .stp) 1 [.vst {} 4 0 0 1 0 none true] ∧
     (∀ r l, active (s.ctx 0) 0 none r l → r = 0) ∧ active (s.ctx 0) 0 none 0 63 = true ∧ (∀ l < 64, (64 * (0 + 0 * 0) + l) * coreEntry.width / 1024 < coreEntry.footprint ∧
       homeTag s (coreLineOf l) = mkTag Fmt.f32.toCode vcValid (tagLxp (tagAt (s.ctx 0) 1 0)) ∧ rowTag (homeTag s (coreLineOf l)) = mkTag Fmt.f32.toCode vcValid 127) ∧
     (tagFmt (tagAt (s.ctx 0) 1 0) = Fmt.f32.toCode ∧ tagVc (tagAt (s.ctx 0) 1 0) = vcValid ∧ Fmt.f32.width ≤ coreEntry.width)) ∧
    (let s := vec
     CoreTensor s 0 4 1 (taskOf s 1) 4 coreEntry ∧ ∀ l < 64, rowTag (homeTag s (coreLineOf l)) = mkTag Fmt.raw.toCode vcValid 127 ∧ Fmt.raw.width ≤ coreEntry.width) := by
  refine ⟨⟨core_tensor ?_ (f := .i32) (id := .core 0 0 0) ?_, all_vec ?_, all_vec ?_, on_lanes ?_, ?_⟩, core_tensor ?_ (f := .i32) (id := .core 0 0 0) ?_, ?_⟩ <;> decide +kernel

-- one lane, at the base plus five words, the last element of its line
theorem meets_gather_scatter :
    (let s := vec fun c => (c.setS 1 0x10068).setS 2 0
     let s := s.modCtx 0 fun c => { c with vl := 1 }
     let at_ := fun (l : Nat) => (BitVec.ofInt 64 (((s.ctx 0).s 1).toInt + (BitVec.ofNat 8 (elemAt (s.ctx 0) 3 0 l).toNat).toInt * 2 ^ (2 : BitVec 2).toNat)).toNat
     allVec s (some .ldp) 1 [.vgth {} 7 1 3 2 0 none false] ∧ allVec s (some .stp) 1 [.vsct {} 1 3 1 2 0 none true] ∧ at_ 0 = 0x1007C ∧
     (∀ r, activeRow (s.ctx 0) 0 none r → Fmt.ofCode (tagFmt (tagAt (s.ctx 0) 3 r)) = some .i8 ∧ vcPoisoned (tagVc (tagAt (s.ctx 0) 3 r)) = false) ∧
     (∀ r l, active (s.ctx 0) 0 none r l → r = 0 ∧ l = 0) ∧ (∀ a ∈ [Access.load, .store], PlainBytes s 0 a 0x1007C 4 0x21007C dataLeaf) ∧ 0x1007C % 4 = 0 ∧
     homeTag s (0x21007C / 128) = mkTag Fmt.f32.toCode vcValid 127 ∧ dataLeaf.attrs.tagpol = 0 ∧ tagAt (s.ctx 0) 1 0 = mkTag Fmt.f32.toCode vcValid 127) := by
  refine ⟨all_vec ?_, all_vec ?_, ?_, on_rows ?_, on_lanes ?_, ?_, ?_⟩
  case refine_6 =>
    intro a ha
    simp only [List.mem_cons, List.not_mem_nil, or_false] at ha
    rcases ha with rfl | rfl <;> exact plain_bytes (by decide +kernel)
  all_goals decide +kernel

-- the last column and the last row for VBC, and one beyond each; indices of VSHUF in range
theorem meets_vector_movement :
    (let s := vec (four 63 15 64 16)
     allVec s (some .prm) 16 [.vrot {} 7 1 1 15 none false, .vrot {} 7 1 1 15 none true, .vbc {} 7 1 1 15 none false, .vbc {} 7 1 2 15 none true, .vtrn {} 7 1 none,
       .vshuf {} 7 1 3 15 none, .vcmpr {} 7 1 1 15, .vbc {} 7 1 3 15 none false, .vbc {} 7 1 4 15 none true] ∧
     ((s.ctx 0).s 1).toNat ≤ 63 ∧ ((s.ctx 0).s 2).toNat ≤ 15 ∧ 63 < ((s.ctx 0).s 3).toNat ∧ 15 < ((s.ctx 0).s 4).toNat ∧ (s.ctx 0).vl.toNat ≤ 64 ∧
     (∀ r < 16, tagAt (s.ctx 0) 1 r = mkTag Fmt.f32.toCode vcValid 127 ∧ Fmt.ofCode (tagFmt (tagAt (s.ctx 0) 3 r)) = some .i8 ∧ vcPoisoned (tagVc (tagAt (s.ctx 0) 3 r)) = false)) := by
  refine ⟨all_vec ?_, ?_⟩ <;> decide +kernel

-- sums of F32 rows, bitwise combinations of equal rows; groups with lanes, and none
theorem meets_reductions :
    (let s := vec
     let x := { s.ctx 0 with vstart := 0 }
     allVec s (some .prm) 16 [.vred {} 7 1 15 none false 0, .vred {} 7 1 15 (some 1) true 4, .vscan {} 7 1 15 none false 3, .vscan {} 7 1 15 none true 1] ∧ (s.ctx 0).vl.toNat ≤ 64 ∧
     (List.range 16).filter (fun r => (List.range 64).any (active x 15 none r)) = List.range 16 ∧
     (∀ r < 16, arithAt (s.ctx 0) 1 r = some .f32 ∧ tagAt (s.ctx 0) 1 r = mkTag Fmt.f32.toCode vcValid 127) ∧ lattice s 1 false .f32 .f32 = some .f32 ∧
     (List.range 15).foldlM (fun a _ => lattice s 1 false a .f32) Fmt.f32 = some .f32) ∧
    (let x := { vec.ctx 0 with vstart := 0 }
     (List.range 16).filter (fun r => (List.range 64).any (active x 15 (some 2) r)) = [] ∧ tagVc (tagAt x 1 0) = vcValid ∧ Fmt.ofCode (tagFmt (tagAt x 1 0)) = some .f32) := by
  refine ⟨⟨all_vec ?_, ?_⟩, ?_⟩ <;> decide +kernel

theorem meets_special_functions :
    allVec vec (some .sfu) 16 [.vexp2 {} 7 1 15 none, .vlog2 {} 7 2 15 none, .vrcp {} 7 1 15 none, .vrsq {} 7 1 15 none, .vsqrt {} 7 1 15 (some 1), .vtanh {} 7 1 15 none, .vsin {} 7 2 15 none] ∧
    (∀ r, activeRow (vec.ctx 0) 15 none r → arithAt (vec.ctx 0) 1 r = some .f32 ∧ arithAt (vec.ctx 0) 2 r = some .f16 ∧ lattice vec 1 false .f32 .f32 = some .f32 ∧
      lattice vec 1 false .f16 .f16 = some .f16 ∧ Fmt.f16.isFloat = true) ∧ (0 < 1) := by
  refine ⟨all_vec ?_, on_rows ?_, ?_⟩ <;> decide +kernel

-- a tagged queue filled to its last row, and one emptied of sixteen
theorem meets_queue_transfers :
    allVec vec (some .stp) 16 [.vqpush {} 3 1 15] ∧ allVec (vec.modTask 1 fun x => { x with queues := Vector.replicate 4 { head := 3, rows := List.replicate 16 {} } }) (some .ldp) 16 [.vqpop {} 7 0 15] ∧
    Issues (.vqstat {} 5 3) vec ∧ (vec.ctx 0).task = some 1 ∧ vec.task 1 = some (taskOf vec 1) ∧ (vec.ctx 0).vq = [] ∧
    (vecGet {} (taskOf vec 1).queues 3).rows.length + 16 ≤ 16 := by
  refine ⟨all_vec ?_, all_vec ?_, one_issue ?_, ?_⟩ <;> decide +kernel

theorem meets_vector_fault :
    allVec vec (some .mad) 16 [.vadd {} 7 6 1 15 none] ∧ active (vec.ctx 0) 15 none 0 0 = true ∧ vcPoisoned (tagVc (tagAt (vec.ctx 0) 6 0)) = true :=
  ⟨all_vec (by decide +kernel), by decide +kernel⟩

/-! Witnesses for the matrix engine and the copy engines. -/

def matOk (s : State) (tile : Option (BitVec 2)) (i : Instr) : Bool :=
  issueOk s i &&
  decide ((s.ctx s.focus).task = some 1 ∧ s.task 1 = some (taskOf s 1) ∧ (taskOf s 1).mq = [] ∧ (taskOf s 1).xctx = some s.focus) &&
  (match tile with | none => true | some j => tileOwned s s.focus j.toNat) &&
  decide ((s.ctx s.focus).vq = [] ∧ queueStopped s s.focus .matrix = false ∧ heldTask s s.focus = false ∧ (taskOf s 1).crDue = false) &&
  decide ((s.core (coreOf s.focus)).holder (partOf s s.focus) = some 1 ∨ (s.core (coreOf s.focus)).holder (partOf s s.focus) = none ∧ (taskOf s 1).savedAcc = [])

theorem mat_issues {s : State} {tile : Option (BitVec 2)} {i : Instr} (h : matOk s tile i = true) : MatIssues i tile s 1 (taskOf s 1) := by
  unfold matOk at h
  simp only [Bool.and_eq_true, decide_eq_true_eq] at h
  obtain ⟨⟨⟨⟨a, b⟩, c⟩, d⟩, e⟩ := h
  refine ⟨one_issue a, b, ?_, d, e⟩
  intro j hj
  rw [hj] at c
  exact c

/-- Rows and lanes that read have values. -/
theorem operand_rows {x : Ctx} {v : BitVec 5} {vs : Option (BitVec 5)} {acc : Fmt} {rows k : Nat} {f : Nat → Fmt}
    (h : ∀ m < rows, arithAt x (v + BitVec.ofNat 5 (m / 16)) (m % 16) = some (f m) ∧ (acc = .i32 → (f m).isFloat = false) ∧
      (vs.isSome → (companion (f m)).isSome) ∧ ∀ l < k, (operandAt x v vs (f m) m l).isSome) : ∃ a, OperandRows x v vs acc rows k f a := by
  refine ⟨fun m l => (operandAt x v vs (f m) m l).getD (.nan false), ?_⟩
  intro m hm
  obtain ⟨h1, h2, h3, h4⟩ := h m hm
  refine ⟨h1, h2, h3, ?_⟩
  intro l hl
  have := h4 l hl
  cases e : operandAt x v vs (f m) m l with
  | none => rw [e] at this; simp at this
  | some y => simp [e]

/-- mshape for M rows and one column under F32, and under a format that no accumulator has. -/
def mat (m acc : Nat) (f : Ctx → Ctx := id) : State := vecMem fun c => f { c with mshape := BitVec.ofNat 64 (acc * 2 ^ 24 + (m - 1)) }

-- M and N at 1, 128, 0 and 129; modes for both queues, empty and not
theorem meets_matrix_shape_and_mode :
    (let s := vec (four 1 128 0 129)
     allIssue s [.mshape {} 1 2 true, .mshape {} 3 2 false, .mshape {} 1 4 false, .rmode {} 3 4] ∧ (1 ≤ ((s.ctx 0).s 1).toNat ∧ ((s.ctx 0).s 2).toNat ≤ 128) ∧
     ¬ (1 ≤ ((s.ctx 0).s 3).toNat) ∧ ¬ ((s.ctx 0).s 4).toNat ≤ 128 ∧ (s.ctx 0).mode ≠ .m ∧ (s.ctx 0).task = some 1 ∧ s.task 1 = some (taskOf s 1) ∧
     (s.ctx 0).vq.length < 32 ∧ (taskOf s 1).mq.length < 32) := by
  refine ⟨all_issue ?_, ?_⟩ <;> decide +kernel

-- M = 16, all that one A register holds, and 17; E2M1 rows with companions; no accumulator format
theorem meets_matrix_product :
    (let s := mat 16 0x10
     MatIssues (.mma {} 3 1 2 none none 0) (some 3) s 1 (taskOf s 1) ∧ shapeM (s.ctx 0).mshape ≤ 16 * 2 ^ (0 : BitVec 2).toNat ∧ shapeAcc (s.ctx 0).mshape = some .f32 ∧
     (∃ a, OperandRows (s.ctx 0) 1 none .f32 16 2 (fun _ => .f32) a) ∧ (∃ b, OperandRows (s.ctx 0) 2 none .f32 1 2 (fun _ => .f16) b) ∧ (lattice s 1 true .f32 .f16).isSome ∧
     (∃ a, OperandRows (s.ctx 0) 4 (some 5) .f32 16 2 (fun _ => .e2m1) a)) ∧
    (let s := mat 17 0x10
     MatIssues (.mma {} 0 1 2 none none 0) (some 0) s 1 (taskOf s 1) ∧ 16 * 2 ^ (0 : BitVec 2).toNat < shapeM (s.ctx 0).mshape ∧ (s.ctx 0).mode ≠ .m) ∧
    (let s := mat 1 0x01
     MatIssues (.mma {} 0 1 2 none none 0) (some 0) s 1 (taskOf s 1) ∧ shapeAcc (s.ctx 0).mshape = none) := by
  refine ⟨⟨mat_issues ?_, ?_, ?_, operand_rows ?_, operand_rows ?_, ?_, operand_rows ?_⟩, ⟨mat_issues ?_, ?_⟩, mat_issues ?_, ?_⟩ <;> decide +kernel

/-- The stream in focus issues a copy instruction. -/
theorem copy_issues {s : State} {i : Instr} {ch : Nat}
    (h : issueOk s i = true ∧ (s.ctx s.focus).mode ≠ .m ∧ channelOwned s s.focus ch = true ∧ (s.chan (coreOf s.focus) ch).queued < 64) : CopyIssues i ch s :=
  ⟨one_issue h.1, h.2⟩

/-- A cord of one; a cord of two, its second member on core 1, of rank 1, with its own MMAG at its queue's head, or none yet. -/
def mmag (tile : BitVec 2) (prM1 : BitVec 2) : Instr := .mmag {} tile 1 2 none none 0 prM1 0
def cordOf (size : Nat) (mq0 mq1 : List QItem) : State :=
  let s := (mat 2 0x10).modTask 1 fun x => { x with cord := true, cszm1 := size - 1, cordCores := List.range size, mq := mq0 }
  if size = 1 then s
  else
    let s := s.setTask 2 (some { taskOf s 1 with core := 1, rank := 1, index := 1, xctx := some 5, mq := mq1 })
    (s.setCtx 5 { s.ctx 0 with task := some 2 }).setCore 1 { part0A := wholeCoreA 1, part0B := wholeCoreB, tiles := [(4, coreEntry)] }
def mmagEntry (tile : BitVec 2) : QEntry := { instr := mmag tile 1, pc := 0, vl := 2, mshape := (mat 2 0x10).ctx 0 |>.mshape }

theorem of_tasks {s : State} {p : Nat → Task → Bool} (h : s.tasks.all (fun z => match z.2 with | none => true | some u => p z.1 u) = true) :
    ∀ z ∈ s.tasks, ∀ u, z.2 = some u → p z.1 u = true := by
  intro z hz u hu
  have := List.all_eq_true.mp h z hz
  rw [hu] at this
  exact this

/-- The functions of the statement for this cord: the member of rank r. -/
def memberTask (r : Nat) : Nat := r + 1
def memberCtx (r : Nat) : Nat := 5 * r
def both : State := cordOf 2 [.entry (mmagEntry 0)] [.entry (mmagEntry 3)]

/-- The cord's second member has ended by its HALT. -/
def oneEnded : State :=
  (cordOf 2 [] []).setLaunch 0 (some { vd := 1, queue := 0, lid := 7, asn := 0, nodes := [{ graphNode with ended := [1] }] })

theorem meets_cord_product :
    (MatIssues (mmag 0 1) (some 0) (mat 2 0x10) 1 (taskOf (mat 2 0x10) 1) ∧ (taskOf (mat 2 0x10) 1).cord = false ∧ ((mat 2 0x10).ctx 0).mode ≠ .m) ∧
    (let s := cordOf 1 [] []
     MatIssues (mmag 0 0) (some 0) s 1 (taskOf s 1) ∧ SMap.wf none s.tasks = true ∧ (taskOf s 1).cord = true ∧ (taskOf s 1).cszm1 = 0 ∧ (taskOf s 1).rank = 0 ∧ memberHalted s (taskOf s 1) 0 = false ∧
     (∀ z ∈ s.tasks, ∀ u, z.2 = some u → decide (u.launch = 0 → u.node = 0 → u.index = 0 → z.1 = 1) = true) ∧ shapeM (s.ctx 0).mshape ≤ 16 ∧
     (∃ a, OperandRows (s.ctx 0) 1 none .f32 2 2 (fun _ => .f32) a) ∧ (∃ b, OperandRows (s.ctx 0) 2 none .f32 1 2 (fun _ => .f16) b) ∧ (lattice s 1 true .f32 .f16).isSome) ∧
    (let s := cordOf 2 [] []
     MatIssues (mmag 0 1) (some 0) s 1 (taskOf s 1) ∧ SMap.wf none s.tasks = true ∧ (taskOf s 1).cord = true ∧ 2 = (taskOf s 1).cszm1 + 1 ∧ shapeM (s.ctx 0).mshape ≤ 16 ∧
     cordMembers s (taskOf s 1) = [(1, taskOf s 1), (2, taskOf s 2)] ∧ (taskOf s 2).rank = 1 ∧ (taskOf s 1).rank = 0 ∧ (taskOf s 2).mq = [] ∧ s.task 2 = some (taskOf s 2) ∧
     ∀ r < 2, memberHalted s (taskOf s 1) r = false) ∧
    (let s := oneEnded
     MatIssues (mmag 0 1) (some 0) s 1 (taskOf s 1) ∧ (taskOf s 1).cord = true ∧ 2 = (taskOf s 1).cszm1 + 1 ∧ shapeM (s.ctx 0).mshape ≤ 16 ∧ memberHalted s (taskOf s 1) 1 = true ∧
     memberHalted s (taskOf s 1) 0 = false) ∧
    (SMap.wf none both.tasks = true ∧
     (∀ r < 2, both.task (memberTask r) = some (taskOf both (memberTask r)) ∧ (taskOf both (memberTask r)).cszm1 + 1 = 2 ∧ (taskOf both (memberTask r)).rank = r ∧
       (taskOf both (memberTask r)).xctx = some (memberCtx r) ∧ (taskOf both (memberTask r)).savedAcc = [] ∧
       (taskOf both (memberTask r)).mq = [.entry (mmagEntry (if r = 0 then 0 else 3))] ∧
       memberHalted both (taskOf both (memberTask r)) r = false ∧ crDueOf both (memberCtx r) = false) ∧
     (∀ r < 2, queueStopped both (memberCtx r) .matrix = false ∧ heldTask both (memberCtx r) = false ∧
       vectorBlocks both (memberCtx r) (mmagEntry (if r = 0 then 0 else 3)) = false ∧ (both.core (coreOf (memberCtx r))).holder (partOf both (memberCtx r)) = none ∧
       ((taskOf both (memberTask r)).launch = 0 ∧ (taskOf both (memberTask r)).node = 0 ∧ (taskOf both (memberTask r)).index = r)) ∧
     (∀ z ∈ both.tasks, ∀ u, z.2 = some u → ((List.range 2).all fun r => decide (u.index = r → z.1 = memberTask r)) = true) ∧
     (∀ r < 2, ∀ r' < 2, r' ≠ r → memberTask r' ≠ memberTask r ∧ coreOf (memberCtx r') ≠ coreOf (memberCtx r)) ∧
     shapeAcc (mmagEntry 0).mshape = some .f32 ∧ shapeM (mmagEntry 0).mshape ≤ 16 ∧
     (∃ a, OperandRows (both.ctx 0) 1 none .f32 2 2 (fun _ => .f32) a) ∧ (∃ a, OperandRows (both.ctx 5) 1 none .f32 2 2 (fun _ => .f32) a) ∧
     (∃ b, OperandRows (both.ctx 0) 2 none .f32 1 2 (fun _ => .f16) b) ∧ (lattice both 1 true .f32 .f16).isSome) := by
  refine ⟨⟨mat_issues ?_, ?_⟩, ⟨mat_issues ?_, ?_, ?_, ?_, ?_, ?_, of_tasks (p := fun t u => decide (u.launch = 0 → u.node = 0 → u.index = 0 → t = 1)) ?_, ?_,
    operand_rows ?_, operand_rows ?_, ?_⟩, ⟨mat_issues ?_, ?_⟩, ⟨mat_issues ?_, ?_⟩, ?_, ?_, ?_, of_tasks (p := fun t u => (List.range 2).all fun r => decide (u.index = r → t = memberTask r)) ?_, ?_, ?_, ?_,
    operand_rows ?_, operand_rows ?_, operand_rows ?_, ?_⟩ <;> decide +kernel

-- MDRAIN with a queue empty and not; the last block of a tile; float rows under I32, offset binary ones under F32
theorem meets_tile_moves :
    (let s := mat 1 0x10
     MatIssues (.mzero {} 3) (some 3) s 1 (taskOf s 1) ∧ MatIssues (.movcG {} 7 0 15) (some 0) s 1 (taskOf s 1) ∧ MatIssues (.movcP {} 0 1 15) (some 0) s 1 (taskOf s 1) ∧
     shapeAcc (s.ctx 0).mshape = some .f32 ∧ (∀ r < 16, arithAt (s.ctx 0) 1 r = some .f32) ∧ Issues (.mdrain {}) s ∧ (s.ctx 0).task = some 1 ∧ s.task 1 = some (taskOf s 1) ∧
     (taskOf s 1).mq = []) ∧
    (let s := cordOf 1 [.entry (mmagEntry 0)] []
     Issues (.mdrain {}) s ∧ (s.ctx 0).task = some 1 ∧ s.task 1 = some (taskOf s 1) ∧ (taskOf s 1).mq ≠ []) ∧
    (let s := mat 1 0x03
     MatIssues (.movcP {} 0 1 0) (some 0) s 1 (taskOf s 1) ∧ shapeAcc (s.ctx 0).mshape = some .i32 ∧ vcPoisoned (tagVc (tagAt (s.ctx 0) 1 0)) = false ∧
       arithAt (s.ctx 0) 1 0 = some .f32) ∧
    (let s := mat 1 0x10 fun c => c.setRow 1 15 { tag := mkTag Fmt.ob8.toCode vcValid 127, data := Vector.replicate 64 1 }
     MatIssues (.movcP {} 0 1 0) (some 0) s 1 (taskOf s 1) ∧ shapeAcc (s.ctx 0).mshape = some .f32 ∧ vcPoisoned (tagVc (tagAt (s.ctx 0) 1 15)) = false ∧
       arithAt (s.ctx 0) 1 15 = some .ob8 ∧ ∀ r < 15, arithAt (s.ctx 0) 1 r = some .f32) := by
  refine ⟨⟨mat_issues ?_, mat_issues ?_, mat_issues ?_, ?_, ?_, one_issue ?_, ?_⟩, ⟨one_issue ?_, ?_⟩, ⟨mat_issues ?_, ?_⟩, mat_issues ?_, ?_⟩ <;> decide +kernel

/-- One row of 64 columns, for the CORE tensor's one row; the tensor's lines VALID as F32 for a load, as I32, its own format, for a store. -/
def rowShape : State := mat 1 0x10 fun c => { c with mshape := 0x103F0000 }
def rowShapeI : State := (rowShape.setTag (2 ^ 45) (mkTag Fmt.i32.toCode vcValid 127)).setTag (2 ^ 45 + 1) (mkTag Fmt.i32.toCode vcValid 127)

theorem meets_tile_load_store :
    (CoreTensor rowShape 0 4 1 (taskOf rowShape 1) 4 coreEntry ∧ MatIssues (.mlda {} 3 4 0) (some 3) rowShape 1 (taskOf rowShape 1) ∧
     shapeAcc (rowShape.ctx 0).mshape = some .f32 ∧ shapeM (rowShape.ctx 0).mshape = 1 ∧ shapeN (rowShape.ctx 0).mshape = 64 ∧
     ∀ n < 64, (64 * (0 % 2 ^ 32 + 0 * (0 / 2 ^ 32)) + n) * coreEntry.width / 1024 < coreEntry.footprint ∧
       homeTag rowShape (coreLineOf n) = mkTag Fmt.f32.toCode vcValid 127 ∧ Fmt.f32.isArith = true ∧ Fmt.f32.width ≤ coreEntry.width) ∧
    (CoreTensor rowShapeI 0 4 1 (taskOf rowShapeI 1) 4 coreEntry ∧ MatIssues (.msta {} 4 3 0 none true) (some 3) rowShapeI 1 (taskOf rowShapeI 1) ∧ coreEntry.fmt = Fmt.i32.toCode ∧
     coreEntry.plane = none ∧ Fmt.i32.width ≤ coreEntry.width ∧ ∀ n < 64, homeTag rowShapeI (coreLineOf n) = mkTag Fmt.i32.toCode vcValid 127) ∧
    (HandleAt rowShapeI 0 8 1 (taskOf rowShapeI 1) 8 kilnEntry ∧ kilnEntry.band = none ∧ MatIssues (.msta {} 4 3 0 (some (8, 0)) true) (some 3) rowShapeI 1 (taskOf rowShapeI 1)) := by
  refine ⟨⟨core_tensor ?_ (f := .i32) (id := .core 0 0 0) ?_, mat_issues ?_, ?_⟩, ⟨core_tensor ?_ (f := .i32) (id := .core 0 0 0) ?_, mat_issues ?_, ?_⟩, handle_at ?_, ?_,
    mat_issues ?_⟩ <;> decide +kernel

-- the second half of each tensor, its last byte count; transfer times at the bound and one before; multicast to both members of a cord, to none, to a third, and outside a cord
theorem meets_copy_issue :
    (let s := vec (four (128 * 2 ^ 32 + 128) 128 0 0)
     HandleAt s 0 8 1 (taskOf s 1) 8 kilnEntry ∧ HandleAt s 0 4 1 (taskOf s 1) 4 coreEntry ∧ HandleAt s 0 6 1 (taskOf s 1) 6 seqEntry ∧ RangesFit coreEntry kilnEntry 128 128 128 ∧
     ¬ Overlaps 4 8 128 128 128 ∧ CopyIssues (.cpy {} 5 4 8 1 2 3 false) 3 s ∧ CopyIssues (.cpyX {} 5 6 8 1 2 3 true) 3 s ∧ RangesFit seqEntry kilnEntry 128 128 128 ∧ (kilnEntry.level = 1 ∧ seqEntry.level = 4) ∧
     CopyIssues (.cpyX {} 5 4 8 1 2 3 true) 3 s ∧ coreEntry.level = 0 ∧ CopyIssues (.cmcast {} 5 4 8 1 2 3 true) 3 s ∧ (taskOf s 1).cord = false) ∧
    (let s := vec (four 0 128 (2 ^ 32) (2 ^ 32 - 1))
     CopyIssues (.cpyt {} 3 4 8 1 2 0 false false) 0 s ∧ CopyIssues (.cpyt {} 4 4 8 1 2 0 false false) 0 s ∧ buffered s 0 < 64 ∧ RangesFit coreEntry kilnEntry 0 0 128 ∧
     s.now + 2 ^ 32 ≤ ((s.ctx 0).s 3).toNat ∧ ((s.ctx 0).s 4).toNat < s.now + 2 ^ 32) ∧
    (let s := (cordOf 2 [] []).modCtx 0 (four 0 (3 * 2 ^ 32 + 256) 256 (4 * 2 ^ 32 + 256))
     CopyIssues (.cmcast {} 5 4 8 1 2 3 true) 3 s ∧ CopyIssues (.cmcast {} 5 4 8 1 3 3 true) 3 s ∧ CopyIssues (.cmcast {} 5 4 8 1 4 3 true) 3 s ∧
     (((s.ctx 0).s 3).toNat / 2 ^ 32 = 0 ∧ 2 ^ 2 ≤ ((s.ctx 0).s 4).toNat / 2 ^ 32) ∧ HandleAt s 0 8 1 (taskOf s 1) 8 kilnEntry ∧ (taskOf s 1).cord = true ∧ (taskOf s 1).cszm1 = 1 ∧
     ∀ r ∈ (List.range 32).filter (fun r => (((s.ctx 0).s 2).toNat / 2 ^ 32).testBit r), (cordMembers s (taskOf s 1)).find? (fun z => z.2.rank = r) = some (r + 1, taskOf s (r + 1)) ∧
       (s.entry (taskOf s (r + 1)).core (64 * (taskOf s (r + 1)).win + 4) = coreEntry ∧ coreEntry.valid = true ∧ RangesFit coreEntry kilnEntry 0 0 256 ∧ ¬ Overlaps 4 8 0 0 256)) := by
  unfold RangesFit Overlaps
  refine ⟨⟨handle_at ?_, handle_at ?_, handle_at ?_, ?_, ?_, copy_issues ?_, copy_issues ?_, ?_, ?_, copy_issues ?_, ?_, copy_issues ?_, ?_⟩,
    ⟨copy_issues ?_, copy_issues ?_, ?_⟩, copy_issues ?_, copy_issues ?_, copy_issues ?_, ?_, handle_at ?_, ?_⟩ <;> decide +kernel
-- two lanes with one address between them, the tensor's last elements; the first and the second participant of a group of two, and one that disagrees; IDs 0, one retired, the next
def groupWord : Word := 0xFFFF001000330000
def cred3 (creds : List Collective) : State :=
  { vec (four groupWord 256 (3 * 2 ^ 62) (2 ^ 62 * 3 + 1)) with creds := creds }

theorem meets_lane_and_collective_copies :
    (let s := vec fun c => { (c.setS 1 0x10000) with vps := c.vps.set 2 3 }
     let ls := (List.range 1024).filter fun l => decide (l % 64 < (s.ctx 0).vl.toNat) && ((s.ctx 0).vp 2).getLsbD l
     HandleAt s 0 4 1 (taskOf s 1) 4 coreEntry ∧ lanesPending (s.ctx 0) 3 2 = false ∧ ls = [0, 1] ∧
     (∀ l ∈ [0, 1], Fmt.ofCode (tagFmt (tagAt (s.ctx 0) 3 (l / 64))) = some .i8 ∧ vcPoisoned (tagVc (tagAt (s.ctx 0) 3 (l / 64))) = false ∧
       copyLane (s.ctx 0) 1 3 coreEntry (fun _ => .i8) l % (widthOf coreEntry.fmt / 8) = 0 ∧ 64 * (0 : BitVec 8).toNat + l < 1024 / coreEntry.width * coreEntry.footprint) ∧
     widthOf coreEntry.fmt ≠ 4 ∧ CopyIssues (.gath {} 5 4 1 3 2 0 3 true) 3 s ∧ CopyIssues (.scat {} 5 4 1 3 2 0 0) 0 s) ∧
    (let s := cred3 []
     (BitVec.extractLsb' 16 2 groupWord).toNat = 3 ∧ HandleAt s 0 4 1 (taskOf s 1) 4 coreEntry ∧ HandleAt s 0 8 1 (taskOf s 1) 8 kilnEntry ∧ RangesFit coreEntry kilnEntry 0 0 256 ∧
     groupWordOk groupWord = true ∧ (credFmt coreEntry.fmt).isSome ∧ widthOf kilnEntry.fmt = widthOf coreEntry.fmt ∧ CopyIssues (.cred {} 5 4 8 1 2 2 true true) 3 s ∧
     (s.creds.find? (joins 1 1 0xFFFF) = none ∧ ∀ v ∈ s.creds, joins 1 1 0xFFFF v = false) ∧ allIssue s [.cwait {} 3, .cwait {} 4, .cstat {} 5 4] ∧ (s.ctx 0).mode ≠ .m ∧
     channelOwned s 0 3 = true ∧ channelOwned (s.modCore 0 fun c => { c with part0A := c.part0A - 2 ^ 26 }) 0 3 = false) ∧
    (let other : Participant := { task := 2, rank := 1, core := 1, chan := 3, num := 1, word := groupWord ||| 0x1000000, bytes := 256, op := 2, root := true }
     let mine : Participant := { task := 1, rank := 0, core := 0, chan := 3, num := 1, word := groupWord, bytes := 256, op := 2, root := true }
     let v : Collective := { vd := 1, group := 0xFFFF, parts := [other], since := 0 }
     let w : Collective := { v with parts := [{ other with bytes := 512 }] }
     ((cred3 [v]).creds = [] ++ v :: [] ∧ joins 1 1 0xFFFF v = true ∧ (cred3 [v]).creds.find? (joins 1 1 0xFFFF) = some v ∧ v.failed = false ∧ ∀ u ∈ v.parts, u.agrees mine = true) ∧
     (cred3 [w]).creds.find? (joins 1 1 0xFFFF) = some w ∧ (∃ u ∈ w.parts, u.agrees mine = false) ∧ ((cred3 [w]).chan 0 3).transfers = []) := by
  unfold RangesFit
  refine ⟨⟨handle_at ?_, ?_, ?_, ?_, ?_, copy_issues ?_, copy_issues ?_⟩, ⟨?_, handle_at ?_, handle_at ?_, ?_, ?_, ?_, ?_, copy_issues ?_, ?_, all_issue ?_, ?_⟩, ?_⟩ <;> decide +kernel

/-- A fault of the execute stream is served: the shadow context of core 0 runs its handler, in S mode. -/
def servedFault : FaultInfo := { cause := .trapInstr, etval := 5, fpc := 0, epc := 8 }
def handler (f : Ctx → Ctx := id) (w : Waiting := { ctx := 0, info := servedFault, since := 0 }) : State :=
  let s := vec fun c => { c with faulted := true, vq := [], hold := none }
  let s := (s.setCtx 4 (f { mode := .s, live := true, vd := 1, task := some 1, epc := 8 })).modCore 0 fun c => { c with serving := some w }
  { s with focus := 4 }

-- every CSR read and written, in U and in S mode; vstat before the queues are empty; vl within and beyond its limits
theorem meets_system_registers :
    allIssue vec [.csrr {} 5 0, .csrr {} 5 1, .csrr {} 5 2, .csrr {} 5 3, .csrr {} 5 4, .csrr {} 5 5, .csrr {} 5 8, .csrr {} 5 9, .csrr {} 5 10, .csrr {} 5 0x10, .csrr {} 5 0x11, .csrr {} 5 0x12,
      .csrr {} 5 0x13, .csrr {} 5 0x14, .csrr {} 5 0x15, .csrr {} 5 0x16, .csrr {} 5 0x18, .csrr {} 5 0x1B, .csrw {} 0 1, .csrw {} 3 1, .csrw {} 5 1] ∧ (vec.ctx 0).mode ≠ .m ∧ (vec.ctx 0).vq = [] ∧ (taskOf vec 1).mq = [] ∧ vec.task 1 = some (taskOf vec 1) ∧
    (let s := cordOf 1 [.entry (mmagEntry 0)] []
     allIssue s [.csrr {} 5 3, .csrw {} 3 1] ∧ (s.ctx 0).task.bind s.task = some (taskOf s 1) ∧ (taskOf s 1).xctx = some 0 ∧ (taskOf s 1).mq ≠ []) ∧
    (let s := handler (four 64 1023 0x123 16)
     allIssue s [.csrr {} 5 0x100, .csrr {} 5 0x101, .csrr {} 5 0x102, .csrr {} 5 0, .csrw {} 0 1, .csrw {} 1 2, .csrw {} 0 3, .csrw {} 2 1, .csrw {} 4 1, .csrw {} 8 1, .csrw {} 9 1, .csrw {} 10 1, .csrw {} 0x100 1, .csrw {} 0x101 4, .csrw {} 0x101 3, .csrw {} 0x102 1, .csrrX {} 5 1, .csrwX {} 63 2,
       .csrrF {} 5 0, .csrrF {} 5 2, .csrrF {} 5 3] ∧ (s.core 0).serving = some { ctx := 0, info := servedFault, since := 0 } ∧ (s.ctx 4).mode ≠ .m ∧
     ({ ctx := 0, info := servedFault, since := 0 : Waiting }.queueHeld) = false ∧ 0 ≠ s.focus) := by
  refine ⟨all_issue ?_, ?_, ?_, ?_, ?_, ⟨all_issue ?_, ?_⟩, all_issue ?_, ?_⟩ <;> decide +kernel

/-- A fault of the execute stream waits at core 0. -/
def faulting (tvec : Word) : State :=
  ((vec fun c => { c with faulted := true }).modVd 1 fun x => { x with tvec := tvec }).modCore 0 fun c => { c with faults := [{ ctx := 0, info := servedFault, since := 0 }] }

-- handlers enabled and not; a fault of a vector entry, and a held fault whose hold goes on
theorem meets_traps_and_returns :
    (allIssue vec [.trap {} (-1), .trapBrk {} 5] ∧ (vec.ctx 0).mode ≠ .m) ∧
    (let s := faulting 0x1001
     (∀ v ∈ (s.core 0).faults, v.ctx ≠ shadowOf 0) ∧ (s.core 0).serving = none ∧ nextFault s (s.core 0).faults = some { ctx := 0, info := servedFault, since := 0 } ∧ 0 ≠ shadowOf 0 ∧
     bit (s.vd (s.ctx 0).vd).tvec 0 = true) ∧
    (let s := faulting 0x1000
     (∀ v ∈ (s.core 0).faults, v.ctx ≠ shadowOf 0) ∧ (s.core 0).serving = none ∧ nextFault s (s.core 0).faults = some { ctx := 0, info := servedFault, since := 0 } ∧
     bit (s.vd (s.ctx 0).vd).tvec 0 = false) ∧
    (let s := handler
     allIssue s [.eret {}, .eretDiscard {}] ∧ (s.core (coreOf s.focus)).serving = some { ctx := 0, info := servedFault, since := 0 } ∧ s.focus = shadowOf (coreOf s.focus) ∧ 0 ≠ s.focus ∧
       (s.ctx 0).hold = none ∧ (s.ctx 0).task = some 1 ∧ s.task 1 = some (taskOf s 1)) ∧
    (let s := (handler id { ctx := 0, info := { servedFault with src := .vector, elem := 7 }, since := 0 }).modCtx 0 fun c => { c with vq := [.entry (mmagEntry 0)] }
     Issues (.eret {}) s ∧ ∃ e q, (s.ctx 0).vq = .entry e :: q) ∧
    (let s := (handler id { ctx := 0, info := { servedFault with held := true }, since := 0 }).modCtx 0 fun c => { c with hold := some { kind := .handler, va := 0, access := .load, since := 0 } }
     Issues (.eret {}) s ∧ ∃ h, (s.ctx 0).hold = some h) := by
  refine ⟨⟨all_issue ?_, ?_⟩, ?_, ?_, ⟨all_issue ?_, ?_⟩, ⟨one_issue ?_, _, _, rfl⟩, one_issue ?_, _, rfl⟩ <;> decide +kernel

-- SPAWN to the last index a node has and beyond it, of half a cord, and of 2^24; GSIG of a node that waits for one, for two and for none, and of one that there is not; operands of
-- TLBI at their limits and beyond, with a job under way and none; SNAP allowed and not; an account that covers the request and one that does not
theorem meets_graph_energy_and_key :
    (let s := graph 0 (four 2 (2 ^ 24) 1 0) { graphNode with next := 2 ^ 24 - 2 }
     let n := { graphNode with next := 2 ^ 24 - 2 }
     allIssue s [.spawn {} 5 1 4, .spawn {} 5 2 4, .spawn {} 5 3 4, .gsig {} 4, .gsig {} 3, .gsig {} 1, .snap {} 255, .ebudQ {} 5, .ebudR {} 5 4, .ebudR {} 5 3, .ebudF {} 5 3, .ebudR {} 5 2] ∧
     ((s.ctx 0).task = some 1 ∧ s.task 1 = some (taskOf s 1)) ∧ (s.launch (taskOf s 1).launch).map (·.nodes) = some [n, { deps := 1, count := 1 }] ∧ (taskOf s 1).node = 0 ∧
     (n.csize = 2 ∧ n.bar = 1 ∧ n.deps = 0 ∧ n.next + 2 ≤ 2 ^ 24) ∧ 2 ^ 24 < (2 ^ 24 - 1 : Nat) + 2 ∧ (s.ctx 0).mode ≠ .m ∧ bit (s.vd 1).dbgcfg 1 = false ∧
     bit ((s.modVd 1 fun v => { v with dbgcfg := 2 }).vd 1).dbgcfg 1 = true ∧ (s.ctx 0).vd = (taskOf s 1).vd ∧ (0 : Int) ≤ (s.vd 1).rem ∧ (s.vd 1).rem < 1) ∧
    (let s := graph 0 (four (2 ^ 32) 4 0 0) { graphNode with next := 2 ^ 24 - 2 }
     allIssue s [.ebudR {} 5 1, .ebudF {} 5 1, .spawn {} 5 2 4] ∧ (s.ctx 0).mode ≠ .m ∧ 2 ^ 32 ≤ ((s.ctx 0).s 1).toNat ∧ 2 ^ 24 < 2 ^ 24 - 2 + ((s.ctx 0).s 2).toNat) ∧
    (let s := (graph 0 (four 1 0 0 0)).setLaunch 0 (some { vd := 1, queue := 0, lid := 7, asn := 0, nodes := [graphNode, { deps := 2, count := 1 }] })
     Issues (.gsig {} 1) s ∧ (s.launch (taskOf s 1).launch).bind (fun l => (l.nodes[1]?).map (·.deps)) = some 2) ∧
    (let s := handler (four 255 256 63 64)
     allIssue s [.tlbiVa {} 0 1, .tlbiVa {} 0 2, .tlbiAsn {} 0 1, .tlbiAsn {} 0 2, .tlbiVd {}] ∧ (s.ctx 4).mode ≠ .m ∧ (s.ctx 4).vd = 1 ∧ linesUnderWay s 1 = false ∧
     linesUnderWay (s.modKiln 0 fun z => { z with jobs := [{ kind := .demote true true 0 5 0 memEntry, vd := 1, runs := [(0x4200, 1, 0)] }] }) 1 = true) ∧
    (let s := { (vec.setTag (0x400000 / 128) (mkTag Fmt.i32.toCode vcValid 127)).setCtx 960 (four 0x400000 64 63 1 { mode := .m, live := true, vd := 64 }) with focus := 960 }
     allIssue s [.tlbiGpa {} 1 3, .tlbiS2 {} 1 3, .tlbiGpa {} 1 2, .tlbiS2 {} 1 2, .tlbiGpa {} 1 4, .keyld {} 5 1 2, .keyld {} 5 1 4] ∧ linesUnderWay s 63 = false ∧
     linesUnderWay (s.modKiln 0 fun z => { z with jobs := [{ kind := .demote true true 0 5 0 memEntry, vd := 1, runs := [(0x4200, 1, 0)] }] }) 1 = true ∧
     (keyInUse s 64 = false ∧ keyInUse (s.setLaunch 0 (some { vd := 1, queue := 0, lid := 7, asn := 0 })) 1 = true) ∧
       0x400000 % 32 = 0 ∧ (s.ctx 960).mode = .m ∧ s.coh.layer = [] ∧ normalise s 0x400000 = 0x400000 ∧ slotKey s 64 0 = some (.own 64 0) ∧ GoodLine s (some (.own 64 0)) (0x400000 / 128)) := by
  refine ⟨⟨all_issue ?_, ?_⟩, ⟨all_issue ?_, ?_⟩, ⟨one_issue ?_, ?_⟩, ⟨all_issue ?_, ?_⟩, all_issue ?_, ?_, ?_, ?_, ?_, ?_, ?_, ?_, ?_,
    { toSoundLine := (sound_line (g := 2) ?_ ?_ ?_ ?_).1, tag := ⟨Fmt.i32.toCode, 127, ?_⟩ }⟩ <;> decide +kernel

/-! Witnesses for what the machine does between instructions. -/

/-- Page tables: stage 2 maps the first GiB onto itself from PF pages at 0x1000, stage 1 of ASN 0 the same for U reads and writes from 0x280000. -/
def paged (f : Ctx → Ctx := id) : State :=
  let put := fun (s : State) (a w : Nat) => (s.setBytes a (bytesOfNat 8 w)).setTag (a / 128) (mkTag 0 vcValid 127)
  let s := (vec f).modVd 1 fun v => { v with s2root := 0x1001, astbase := 0x280001 }
  put (put (put (put (put (put (put s 0x1000 0x2001) 0x2000 0x3001) 0x3000 0xF) 0x280000 0x281001) 0x281000 0x282001) 0x282000 0x283001) 0x283000 0x17

def walksAt (s : State) (va : Word) : Except WalkStop TlbEntry × State := walkFill s 0 1 0 va.toNat (some .u) .load

-- demotion of a name mapped to a frame, and of a line that page tables map
theorem meets_demotion :
    (let s := (named id).setName 1 0x10000 (some 384)
     Issues (.hdemote {} 6 true true) s ∧ HandleAt s 0 6 1 (taskOf s 1) 6 seqEntry ∧ seqEntry.level = 4 ∧ 0 < seqEntry.footprint ∧
       nameFrame s 1 (seqEntry.locv + 0 / (blockBytes s 1 / 128)) = some 384) ∧
    (Issues (.hdemote {} 5 true true) paged ∧ HandleAt paged 0 5 1 (taskOf paged 1) 5 memEntry ∧ memEntry.level = 3 ∧
       (match walk paged 1 0 ((memEntry.locv + 0) * 128) none .load with | .ok _ => true | .error _ => false) = true) := by
  refine ⟨⟨one_issue ?_, handle_at ?_, ?_⟩, one_issue ?_, handle_at ?_, ?_⟩ <;> decide +kernel

/-- The task's execute stream is held. -/
def held (h : Hold) (f : Ctx → Ctx := id) : State := paged fun c => f { c with hold := some h }
def holdOf (kind : HoldKind) (va : Word) (since : Nat := 0) (due : Option Nat := none) : Hold := { kind := kind, va := va, access := .load, since := since, due := due }

/-- The answers a walk can give. -/
def walkIs (r : Except WalkStop TlbEntry × State) : Nat :=
  match r.1 with
  | .ok _ => 0 | .error (.fault _ true) => 1 | .error (.fault _ false) => 2 | .error (.wait _) => 3 | .error (.request _ _ _) => 4

/-- Sixty-five streams of kiln 0 miss on pages of their own, the last of them the last to come. -/
def crowded : State :=
  let h := fun (j : Nat) => holdOf .walk (BitVec.ofNat 64 (4096 * j)) (if j = 64 then 1 else 0)
  { State.reset with ctxs := (List.range 65).map fun j => (ctxId (j / 4) (j % 4), { vd := 1, hold := some (h j) }) }

-- a walk that ends in each way (an address beyond the tables, a table in error, a table line being switched, a page without a second stage), the only one of its kiln; no slot for
-- one that comes after 64 others; a wait at each bound and one cycle before it
theorem meets_hold_events :
    (let s := held (holdOf .walk 0x22345)
     (s.ctx 0).hold = some (holdOf .walk 0x22345) ∧ (s.ctx 0).mode ≠ .m ∧ (holdOf .walk 0x22345).due = none ∧ misses s 0 = [(0, holdOf .walk 0x22345, 1, 0, 0x22)] ∧ hasWalkSlot s 0 (1, 0, 0x22) = true) ∧
    walkIs (walksAt (held (holdOf .walk 0x22345)) 0x22345) = 0 ∧ walkIs (walksAt (held (holdOf .walk 0)) 0x100000000000000) = 1 ∧
    walkIs (walksAt ((held (holdOf .walk 0)).setTag (0x280000 / 128) (mkTag 0 vcPoison 127)) 0) = 2 ∧
    walkIs (walksAt ((held (holdOf .walk 0)).setTag (0x280000 / 128) (mkTag 0 vcRecode 127)) 0) = 3 ∧
    walkIs (walksAt ((held (holdOf .walk 0)).modVd 1 fun v => { v with s2root := 0 }) 0) = 4 ∧
    (let h := holdOf .walk 0x40000 1
     (crowded.ctx 80).hold = some h ∧ (crowded.ctx 80).mode ≠ .m ∧ h.due = none ∧ (80, h, 1, 0, 64) ∈ misses crowded 0 ∧ hasWalkSlot crowded 0 (1, 0, 64) = false) ∧
    ((held (holdOf .walk 0 0 (some 0))).now = 0 ∧ ({ held (holdOf .walk 0 0 (some 25)) with now := 24 }).now < 25 ∧ ((held (holdOf (.recode 0x4200) 0)).ctx 0).hold = some (holdOf (.recode 0x4200) 0)) ∧
    (let key : Option KeyId := some (.window 3 0)
     ∀ now ∈ [4095, 4096], (({ held (holdOf (.recode 0x4200) 0) with now := now }).ctx 0).hold = some (holdOf (.recode 0x4200) 0) ∧ (now < 0 + 4096 ∨ 0 + 4096 ≤ now) ∧
       ((held (holdOf (.foreign 0x4200 key) 0)).ctx 0).hold = some (holdOf (.foreign 0x4200 key) 0)) ∧
    (∀ now ∈ [65535, 65536], (({ held (holdOf (.request 2 7) 0) with now := now }).ctx 0).hold = some (holdOf (.request 2 7) 0) ∧ ((held (holdOf (.request 2 7) 0)).ctx 0).stopped = false) ∧
    (let w : Waiting := { ctx := 0, info := { servedFault with held := true }, since := 0 }
     let s := { (handler id w).modCtx 0 fun c => { c with hold := some (holdOf .handler 0) } with now := 65536 }
     (s.ctx 0).hold = some (holdOf .handler 0) ∧ (s.core 0).serving = some w ∧ w.info.held = true ∧ 0 ≠ shadowOf 0) := by
  refine ⟨?_, ?_, ?_, ?_, ?_, ?_, ?_, ?_, ?_, ?_, ?_⟩ <;> decide +kernel

/-- A request of task 1 for the tenure of its tensor's one cell. -/
def asking (since : Nat) : TenReq := { who := 0, core := 0, task := 1, kind := .write, holder := some { task := 1, h := 4 }, cells := [0], since := since, etval := 4 }

-- a stage-2 request and a host page's; a request whose wait reaches 2^20 cycles; a lease over, and one that lasts
theorem meets_request_and_tenure_events :
    (∀ kind ∈ [0, 2], let s := held (holdOf (.request kind 7) 0x7000)
     let s := { s with pkg := { s.pkg with prq := [(703, some { vd := 1, kind := kind, page := 7 })] } }
     SMap.get none s.pkg.prq 703 = some { vd := 1, kind := kind, page := 7 } ∧ s.pkg.prqWait = [] ∧ (s.ctx 0).hold = some (holdOf (.request kind 7) 0x7000) ∧ (s.ctx 0).vd = 1) ∧
    (let r := asking 0
     let s := { vec.setDir { id := .core 0 0 0, cells := [(0, { state := .write, holder := some { task := 2, h := 4 } })], queue := [r] } with now := 2 ^ 20 }
     s.coh.dirs.findSome? (fun d => d.queue.find? fun x => x.who = r.who && !x.timedOut && decide (x.since + 2 ^ 20 ≤ s.now)) = some r ∧ r.who < 1000) ∧
    (let s := vec.setDir { id := .core 0 0 0, cells := [(0, { state := .read, expiry := 0 }), (1, { state := .read, expiry := 1 })] }
     (s.coh.dirs.flatMap fun d => d.cells.map fun x => (d.id, x.1))[0]? = some (.core 0 0 0, 0) ∧ (s.coh.dirs.flatMap fun d => d.cells.map fun x => (d.id, x.1))[1]? = some (.core 0 0 0, 1) ∧
     ((s.dir (.core 0 0 0)).queue.any fun x => x.cells.contains 0) = false ∧ ((s.dir (.core 0 0 0)).cell 0).expiry ≤ s.now ∧ ¬ ((s.dir (.core 0 0 0)).cell 1).expiry ≤ s.now) := by
  decide +kernel

/-- Stokers 0 and 1 of core 0 each have a convoy to be bound. -/
def vaddEntry : QEntry := { instr := .vadd { cb := true } 7 1 2 0 none, pc := 0, vl := 2, begins := true }
def twoConvoys : State :=
  let s := vec fun c => { c with vq := [.entry vaddEntry] }
  s.setCtx 1 { s.ctx 0 with task := none }

-- a deficit that covers no convoy, and one that covers both; a marker alone at the head; an engine free, held, and held by another task
theorem meets_queue_events :
    ((∀ j < 4, ∀ m e r, (twoConvoys.ctx (ctxId 0 j)).vq ≠ .mode m e :: r) ∧ (Machine.candidate twoConvoys 0 0).isSome ∧ (Machine.candidate twoConvoys 0 1).isSome ∧ Machine.candidate twoConvoys 0 2 = none) ∧
    (let s := vec fun c => { c with bound := some {}, drained := true }
     (s.ctx 0).bound = some {} ∧ (s.ctx 0).drained = true ∧ ((s.ctx 0).access && (s.ctx 0).halted) = false) ∧
    (let s := vec fun c => { c with vq := [.marker 0], markers := [{ queue := 0 }, { queue := 5, below := 1 }] }
     (s.ctx 0).vq = .marker 0 :: [] ∧ .marker 0 ∉ ([] : List QItem) ∧ ((s.ctx 0).access && (s.ctx 0).halted) = false ∧ (s.ctx 0).task = some 1 ∧ s.task 1 = some (taskOf s 1) ∧ (taskOf s 1).mq = []) ∧
    (let s := cordOf 1 [.mode 4 (mmagEntry 0)] []
     s.task 1 = some (taskOf s 1) ∧ (taskOf s 1).xctx = some 0 ∧ heldTask s 0 = false ∧ (taskOf s 1).mq = .mode 4 (mmagEntry 0) :: []) ∧
    (let e : QEntry := { instr := .mzero {} 3, pc := 0 }
     let s := cordOf 1 [.entry e] []
     s.task 1 = some (taskOf s 1) ∧ (taskOf s 1).xctx = some 0 ∧ heldTask s 0 = false ∧ queueStopped s 0 .matrix = false ∧ (taskOf s 1).mq = .entry e :: [] ∧ (taskOf s 1).savedAcc = [] ∧ e.lost = none ∧ crDueOf s 0 = false ∧
     (s.core (coreOf 0)).holder (partOf s 0) = none ∧ vectorBlocks s 0 e = false ∧
     ((s.modCore 0 fun c => { c with holder0 := some 2 }).core (coreOf 0)).holder (partOf s 0) = some 2) := by
  refine ⟨⟨?_, ?_⟩, ?_⟩
  all_goals try decide +kernel
  intro j hj
  have h : (twoConvoys.ctx (ctxId 0 j)).vq.all (fun q => match q with | .mode _ _ => false | .entry _ => true | .marker _ => true) = true := by
    revert j; decide +kernel
  intro m e r hr
  rw [hr] at h
  simp at h

/-- A transfer of the first tensor's two lines to a tensor of granule 1 of the scratchpad. -/
def otherCore : HEntry := newEntry 0x0040000100100100 0x2003 12 1
def placeOf (entry : Nat) (e : HEntry) : Dest := { core := 0, entry := entry, kiln := 0, owner := e.owner }
def beats : Transfer := { num := 1, kind := .copy, task := 1, vd := 1, asn := 0, dests := [placeOf 10 otherCore], src := placeOf 4 coreEntry, bytes := 256 }
def copying (x : Transfer) : State :=
  vecMem.modCore 0 fun c =>
    { c with tiles := c.tiles ++ [(10, otherCore)], granules := [(0, { kiln := 0, owner := coreEntry.owner, vd := 1 }), (1, { kiln := 0, owner := 12, vd := 1 })],
             chans := vecMod c.chans 3 fun ch => { ch with next := 2, transfers := [x] } }

theorem core_place {s : State} {d : Dest} {e : HEntry} {n line : Nat}
    (h : (s.entry d.core d.entry = e ∧ e.valid = true ∧ e.owner = d.owner) ∧ (e.level = 0 ∧ d.core < 192 ∧ line = scratchBase d.core / 128 + e.locv % 512 * 32 + n ∧ e.locv % 512 * 32 + n < 16384) ∧
      ((s.owner d.core (none, e.locv % 512 + n / 32)).kiln = d.kiln ∧ (s.owner d.core (none, e.locv % 512 + n / 32)).owner = d.owner) ∧
      (tagVc (homeTag s line) ≠ vcRecode ∧ SMap.get false s.hbm.marked line = false)) : CorePlace s d e n line := ⟨h.1, h.2.1, h.2.2.1, h.2.2.2⟩

-- the last beat; a timed transfer whose time is now; a group complete, and one incomplete for 2^26 cycles; a missed calendar request before a new one, 48 cycles from its slot
theorem meets_copy_engine_events :
    (let s := copying beats
     s.transfer 0 3 1 = some beats ∧ beats.state = .pending ∧ beats.timed = none ∧ 1 < beats.bytes / 128 ∧ SMap.get false beats.landed (32 * 1) = false ∧ Quiet s beats.vd ∧ 2 ^ 45 + 1 ≠ 2 ^ 45 + 32 + 1 ∧
     CorePlace s beats.src coreEntry (beats.sOff / 128 + 1) (2 ^ 45 + 1) ∧ CorePlace s (placeOf 10 otherCore) otherCore (beats.dOff / 128 + 1) (2 ^ 45 + 32 + 1) ∧
     ((s.chan 0 3).transfers.filter fun z => z.begun && decide (z.state = .pending)).length < 4 ∧ tensorId 0 1 0 coreEntry ≠ tensorId 0 1 0 otherCore ∧
     (let u := { beats with dests := [placeOf 4 coreEntry], bytes := 128, dOff := 128, begun := true }
      u.begun = true ∧ CorePlace (copying u) u.src coreEntry 0 (2 ^ 45) ∧ CorePlace (copying u) (placeOf 4 coreEntry) coreEntry 1 (2 ^ 45 + 1)) ∧
     homeTag s (2 ^ 45 + 1) = mkTag (BitVec.ofNat 6 0x10) vcValid 127 ∧ (faultStream s beats = some 0 ∧ (s.ctx 0).hold = none) ∧
     (beats.held = [] ∧ s.coh.resident = [] ∧ (takeTurnOf s 0 3).isSome = true) ∧ ([{ beat := 1, kind := some .walk, since := 0 }] : List BeatWait).any (fun u => u.beat = 1) = true) ∧
    (let x := { beats with timed := some 0 }
     let s := copying x
     s.transfer 0 3 1 = some x ∧ x.state = .pending ∧ (s.chan 0 3).queued < 64 ∧ 0 ≤ s.now ∧ ((s.core 0).chans.toList.map fun c => c.transfers.length) = [0, 0, 0, 1]) ∧
    (let p : Nat → Participant := fun r => { task := 1 + r, rank := r, core := r, chan := 3, num := 1, word := groupWord ||| BitVec.ofNat 64 (r * 2 ^ 24), bytes := 256, op := 0, root := false }
     let v : Collective := { vd := 1, group := 0xFFFF, parts := [p 0, p 1], since := 0 }
     let s := { both with creds := [v] }
     s.creds = [] ++ v :: [] ∧ (!v.started && !v.failed && v.complete) = true ∧ (v.parts.find? (fun q => q.rank = 0) = some (p 0) ∧ ∀ o ∈ v.parts, inScope s (p 0) o = true) ∧
     (∀ i ∈ v.kilns, contextsBusy s i < 16) ∧
     (let u : Collective := { v with parts := [p 0] }
      let s := { both with creds := [u], now := 2 ^ 26 }
      s.creds.find? (fun u' => u'.vd = u.vd && u'.group = u.group && !u'.started && !u'.failed && !u'.complete && decide (u'.since + 2 ^ 26 ≤ s.now)) = some u)) ∧
    (let r : CalReq := { rank := 1, pair := 1, issued := 0 }
     let s := { vec.modCore 1 fun c => { c with calendar := [{ rank := 0, pair := 1, issued := 1 }, r] } with now := 24 }
     (s.core 1).calendar[1]? = some r ∧ (r.pair = (s.now + 1 % 24) % 24 ∧ r.departs = none) ∧ r.issued + 24 ≤ s.now ∧ ¬ 1 + 24 ≤ s.now) ∧
    (let r : CalReq := { rank := 1, pair := 1, issued := 0, departs := some 1 }
     let s := { vec.modCore 1 fun c => { c with calendar := [r] } with now := 49 }
     (s.core 1).calendar = [] ++ r :: [] ∧ 1 + 48 ≤ s.now) := by
  refine ⟨⟨?_, ?_, ?_, ?_, ?_, ⟨?_, ?_, ?_⟩, ?_, core_place ?_, core_place ?_, ?_, ?_, ⟨?_, core_place ?_, core_place ?_⟩, ?_, ?_, ?_, ?_⟩, ?_, ?_, ?_, ?_⟩ <;> decide +kernel

/-! Retorts, memory, launches, the flue, registers. -/

def jobOf (kind : JobKind) (runs : List (Nat × Nat × Nat)) : Job := { kind := kind, vd := 1, runs := runs }
def memF16 : HEntry := { newEntry 0x0040000100100100 0x20D1 8 0x200 with tracked := false }
def demotion : JobKind := .demote true true 0 5 0 memF16

/-- Kiln 0 has one job; the tensor's line holds F16 under a class; window 3 is being opened on granule 1. -/
def retort (j : Job) (vc : Nat := vcValid) : State :=
  let s := ((vec.setEntry 0 5 memF16).setTag 0x4200 (mkTag Fmt.f16.toCode vc 127)).modKiln 0 fun z => { z with jobs := [j] }
  s.setWindow 3 { state := .opening, owner := 1, peer := 2, granules := [1], gen := 1 }

/-- A job of one line that it has taken has no line before it. -/
theorem none_left (a n : Nat) (m : Nat) (p : Nat × Nat) (h : 1 ≤ m) : nthLine [(a, 1, n)] m ≠ some p := by
  unfold nthLine
  rw [if_neg (by omega)]
  simp [nthLine]

-- a line of F16 to be taken, by a demotion and by both re-keyings, and one of F32 that a demotion passes over; the line in RECODE; a job at its end
theorem meets_retort_events :
    (∀ z ∈ (retort (jobOf demotion [])).kilns, z.1 ≠ 0 → z.2.jobs = []) ∧
    (let s := retort (jobOf demotion [])
     s.coh.resident = [] ∧ s.hbm.errors = [] ∧ s.hbm.failed = [] ∧ s.hbm.poison = [] ∧ SMap.get false s.hbm.marked 0x4200 = false ∧ region (0x4200 * 128) = .hbm ∧
       s.entry 0 5 = memF16 ∧ memF16.valid = true) ∧
    (∀ k ∈ [demotion, .rekeyIn 3, .rekeyOut 3 true, .rekeyOut 3 false], let j := jobOf k [(0x4200, 1, 0)]
     ((retort j).kiln 0).jobs = j :: [] ∧ j.recode = [] ∧ nthLine j.runs j.taken = some (0x4200, 0) ∧ tagVc (homeTag (retort j) 0x4200) = vcValid ∧
       tagFmt (homeTag (retort j) 0x4200) = Fmt.f16.toCode) ∧
    (let s := retort (jobOf demotion [(0x4200, 1, 0)])
     keyCheck s (jobKey s 1 memF16 0x4200) 0x4200 = .current ∧ sealedLine s 0 1 0 memF16 0x4200 0 = false) ∧
    (let j := jobOf demotion [(0x4201, 1, 0)]
     nthLine j.runs j.taken = some (0x4201, 0) ∧ nthLine j.runs (j.taken + 1) = none ∧ tagFmt (homeTag (retort j) 0x4201) = Fmt.f32.toCode ∧ Fmt.f32.toCode ≠ Fmt.f16.toCode ∧
       Fmt.f32.toCode ≠ Fmt.bf16.toCode) ∧
    (∀ k ∈ [demotion, .rekeyIn 3, .rekeyOut 3 true, .rekeyOut 3 false], let j := { jobOf k [(0x4200, 1, 0)] with taken := 1, recode := [(0x4200, 0, vcValid)] }
     ((retort j vcRecode).kiln 0).jobs = j :: [] ∧ j.recode = (0x4200, 0, vcValid) :: [] ∧ tagVc (homeTag (retort j vcRecode) 0x4200) = vcRecode ∧ (vcValid < 8 ∧ vcValid ≠ vcForeign) ∧
       nthLine j.runs j.taken = none) ∧
    (∀ m p, 1 ≤ m → nthLine [(0x4200, 1, 0)] m ≠ some (0x4200, p)) ∧
    (∀ k ∈ [demotion, .rekeyIn 3, .rekeyOut 3 true], let j := { jobOf k [(0x4200, 1, 0)] with taken := 1, done := 1 }
     j.total ≤ j.done ∧ ((retort j).kiln 0).jobs = j :: []) := by
  refine ⟨?_, ?_, ?_, ?_, ?_, ?_, fun m p h => none_left _ _ m _ h, ?_⟩ <;> decide +kernel

-- a granule of HBM for VD 0 and for the PF; two symbols in error, and three; write-backs under way, to the first core and the last; accesses to the last bytes of a line, and outside HBM
theorem meets_memory_events :
    (region (5 * 2 ^ 21) = .hbm ∧ 64 ≤ 64 ∧ (vec.granule 5).rk = false ∧ (vec.granule 5).wk = false ∧ recoding vec 5 = false ∧
      ¬ (field vec.pkg.sqrange 18 0 ≤ 5 ∧ 5 < field vec.pkg.sqrange 18 0 + field vec.pkg.sqrange 63 32)) ∧
    (let s := ({ vec with pkg := { vec.pkg with sqrange := 0x200000005 } }).modVd 1 fun v => { v with aperture := [(4096, 7)] }
     (field s.pkg.sqrange 18 0 ≤ 6 ∧ 6 < field s.pkg.sqrange 18 0 + field s.pkg.sqrange 63 32) ∧ (∃ x ∈ (s.vd 1).aperture, 4096 ≤ x.1 ∧ x.2 = 6 + 1) ∧
       ∀ x ∈ (s.vd 2).aperture, x.1 < 4096) ∧
    (∀ m ∈ [2, 3], let s := { vec with hbm := { vec.hbm with errors := [(0x4200, some (.symbols m))] } }
     region (0x4200 * 128) = .hbm ∧ s.hbm.failed.contains (stackOf 0x4200) = false ∧ SMap.get false s.hbm.marked 0x4200 = false ∧ onPoison s 0x4200 = false ∧ SMap.get none s.hbm.errors 0x4200 = some (.symbols m)) ∧
    (let r : Resident := { kiln := 2, vd := 1, asn := 0, e := memEntry, lines := 2, last := 0, filled := 1 }
     ({ vec with coh := { vec.coh with resident := [r] } }).coh.resident[0]? = some r ∧ r.filled < r.lines) ∧
    (let s := { vec with coh := { vec.coh with writebacks := [7 * 256 + 3, 8 * 256 + 191] } }
     s.coh.writebacks.contains (7 * 256 + 3) = true ∧ s.coh.writebacks.contains (8 * 256 + 191) = true ∧ s.coh.writebacks.contains (7 * 256 + 4) = false ∧ 191 < 192 ∧ 192 ≤ 255) ∧
    (let s := (vec.setTag (0x400000 / 128) (mkTag Fmt.i32.toCode vcValid 127))
     let a : BusAccess := { port := 0, vd := 64, slot := 0, addr := 0x40007C, size := 4, kind := .write, data := [1, 2, 3, 4] }
     region a.addr = .hbm ∧ a.addr % 128 + a.size ≤ 128 ∧ a.data.length = a.size ∧ health s (a.addr / 128) = .good ∧ keyCheck s (slotKey s 64 0) (a.addr / 128) = .current ∧
       slotKey s 64 0 = some (.own 64 0) ∧ homeTag s (a.addr / 128) = mkTag 3 vcValid 127 ∧ SMap.get false s.hbm.marked (a.addr / 128) = false) ∧
    (let a : BusAccess := { port := 0, vd := 1, slot := 0, addr := 0x210000, size := 128, kind := .fullLine (mkTag 3 vcValid 100), data := List.replicate 128 7 }
     region a.addr = .hbm ∧ a.addr % 128 + a.size ≤ 128 ∧ a.data.length = 128 ∧ health vec (a.addr / 128) = .good ∧ keyCheck vec (slotKey vec a.vd a.slot) (a.addr / 128) = .current ∧
       slotKey vec a.vd a.slot = some (.own 1 0) ∧ homeTag vec (a.addr / 128) = mkTag 16 vcValid 127 ∧ mkTag 3 vcValid 100 = mkTag (tagFmt (mkTag 3 vcValid 100)) vcValid (tagLxp (mkTag 3 vcValid 100))) ∧
    region 0x10000000000 ≠ .hbm ∧ (∀ x ∈ vec.coh.resident, x.copies = []) := by
  decide +kernel

/-- VD 1's queue 0: a ring of two slots at 0x290000, one record notified: launch 7 of one node with one task, its tables behind it. -/
def ringQueue : WorkQueue := { base := 0x290001, rd := 0, wr := 1, vec := 0, state := 1, en := true }
/-- A translation of VD 1 for what a launch names: 0x290000 to 0x2BFFFF, onto the addresses themselves. -/
def tableLeaf : TlbEntry := { dataLeaf with base := 0x290000, hpa := 0x290000, size := 0x30000 }
def ringed : State :=
  let put := fun (s : State) (a : Nat) (ws : List Nat) => s.setBytes a (ws.flatMap (bytesOfNat 8))
  let s := put (put (put paged 0x290000 [7 * 2 ^ 32 + 1, 0x291000, 0, 0x2A0000, 2 ^ 32 + 1, 0x2B0000, 0x2B0100]) 0x291000 [0x291040, 2 ^ 32]) 0x291040 [0x10000]
  let s := ((s.setTag (0x290000 / 128) (mkTag 0 vcValid 127)).setTag (0x291000 / 128) (mkTag 0 vcValid 127)).setQueue 1 0 ringQueue
  { s.modCore 0 fun c => { c with tlb := tableLeaf :: c.tlb } with tasks := [], launches := [] }
def launched : Launch :=
  { vd := 1, queue := 0, lid := 7, asn := 0, frames := 0x2A0000, nframes := 1, conts := 0x2B0000, nconts := 1, compl := 0x2B0100,
    nodes := [{ count := 1, ready := true, unfinished := 1, next := 1, xpc := 0x10000, runs := [(0, 0, 1, 0)] }] }
def finished : Launch := { launched with nodes := [{ count := 1, ready := true, complete := true }], irq := true }

/-- The record of the ring's first slot, and the node it names. -/
def recordOf : List Byte := ringed.bytes 0x290000 128
def nodeOf : RawNode := { entry := ringed.bytes 0x291000 32, templ := ringed.bytes 0x291040 64, succ := [], hlist := [] }

theorem slot_at {s : State} {rec : List Byte} (h : (s.vd 1).s2root = 0x1001 ∧ clean s = true) (own : s.granule 0 = { owner := 64, gen := 0 } ∧ slotKey s 64 0 = some (.own 64 0))
    (t : ∀ p ∈ [0x1000, 0x2000, 0x3000], tagVc (homeTag s (p / 128)) = vcValid)
    (w : BitVec.ofNat 64 (wordOfBytes (s.bytes 0x1000 8)) = 0x2001 ∧ BitVec.ofNat 64 (wordOfBytes (s.bytes 0x2000 8)) = 0x3001 ∧
      BitVec.ofNat 64 (wordOfBytes (s.bytes 0x3000 8)) = 0xF)
    (slot : s.granule 1 = { owner := 1, gen := 0 } ∧ slotKey s 1 0 = some (.own 1 0) ∧ homeTag s (0x290000 / 128) = mkTag 0 vcValid 127 ∧ rec = s.bytes 0x290000 128) :
    SlotAt s 1 0x290000 rec := by
  refine ⟨0x290000, guest_mapped h own t w (by decide), ?_, slot.2.2.2⟩
  rw [slot.2.1]
  exact { toSoundLine := (sound_line (g := 1) h.2 (by decide) (by decide) slot.1).1, tag := ⟨0, 127, slot.2.2.1, by decide⟩ }

theorem nodes_at {s : State} {rec : List Byte} {n : RawNode} (p : FirstPage s 0 1 0 tableLeaf 1 0) (r : min (recNodes rec) 4096 = 1 ∧ field (wordAt rec 0) 31 24 = 0 ∧ (wordAt rec 8).toNat = 0x291000)
    (e : n.entry.length = 32 ∧ n.templ.length = 64 ∧ n.tmplVa.toNat = 0x291040) (z : n.nsucc = 0 ∧ n.nh = 0 ∧ n.succ = [] ∧ n.hlist = [])
    (b : homeTag s (0x291000 / 128) = mkTag 0 vcValid 127 ∧ s.bytes 0x291000 32 = n.entry ∧ s.bytes 0x291040 64 = n.templ) : NodesAt s 1 rec [n] := by
  refine ⟨r.1.symm, ?_⟩
  intro j m hj
  obtain ⟨rfl, rfl⟩ : j = 0 ∧ m = n := by
    cases j with
    | zero => simpa using hj.symm
    | succ j => simp at hj
  rw [r.2.1, r.2.2]
  refine ⟨⟨e.1, p.reads (by decide) (by decide) ?_ ?_ ⟨b.1, ?_⟩⟩, ⟨e.2.1, ?_⟩, ⟨[], ?_, ?_, ?_⟩, ?_, ?_⟩
  · rw [e.1]; decide
  · rw [e.1]; decide
  · rw [e.1]; exact b.2.1
  · rw [e.2.2]
    refine p.reads (by decide) (by decide) ?_ ?_ ⟨b.1, ?_⟩
    · rw [e.2.1]; decide
    · have := e.2.1; omega
    · rw [e.2.1]; exact b.2.2
  · rw [z.1]; rfl
  · intro x h1 h2; simp at h2; omega
  · exact z.2.2.1.trans rfl
  · rw [z.2.2.2, z.2.1]; rfl
  · rw [z.2.2.2]; intro x h1 h2; simp at h2; omega

/-- A node whose one task is not made yet. -/
def oneTask : Node := { count := 1, ready := true, unfinished := 1, next := 1, xpc := 0x10000, runs := [(0, 0, 1, 0)] }

-- write indices at the ring's end and beyond it; rings that stage 2 maps and of size code 0; a record that passes its checks; a VD without stage 2, and one that has not locked its
-- features; a launch with work left and one complete; a node's last task
theorem meets_launch_events :
    (let s := ringed
     (vdEnabled s 1 = true ∧ (s.vd 1).rst = false ∧ (s.vd 1).lock = true ∧ (s.queue 1 0) = ringQueue ∧ ringQueue.state = 1) ∧
     (2 < 2 * ringQueue.slots ∧ (2 + 2 * ringQueue.slots - ringQueue.rd) % (2 * ringQueue.slots) ≤ ringQueue.slots ∧ 2 * ringQueue.slots ≤ 4) ∧
     (s.queue 1 255 = {} ∧ field ({} : WorkQueue).base 3 0 = 0) ∧
     (let s := s.setQueue 1 255 { ringQueue with state := 0, en := false }
      s.queue 1 255 = { ringQueue with state := 0, en := false } ∧ field ringQueue.base 3 0 ≠ 0 ∧ rangeMapped s 1 (field ringQueue.base 51 7 * 128) (128 * ringQueue.slots) = (true, s)) ∧
     (ringQueue.rd ≠ ringQueue.wr ∧ s.launches.length < 4096 ∧ field ringQueue.base 51 7 * 128 + 128 * (ringQueue.rd % ringQueue.slots) = 0x290000)) ∧
    bit (ringed.vd 1).s2root 0 = true ∧ bit ((ringed.modVd 1 fun v => { v with s2root := 0 }).vd 1).s2root 0 = false ∧
    SlotAt ringed 1 0x290000 recordOf ∧ SlotAt (ringed.modVd 1 fun v => { v with lock := false }) 1 0x290000 recordOf ∧
    NodesAt ringed 1 recordOf [nodeOf] ∧ launchStatus ringed 1 recordOf [nodeOf] = 0 ∧
    (let s := ringed.setLaunch 1 (some launched)
     s.launch 1 = some launched ∧ launched.nodes.all (fun m => m.complete) = false ∧ launched.nodes[0]? = some oneTask ∧ (oneTask.ready = true ∧ oneTask.complete = false) ∧
     freeSlotOf s 1 launched.nconts (·.crSlot) = some 0 ∧ freeSlotOf s 1 launched.nframes (·.frameSlot) = some 0 ∧ (takeIndex s 1 0 oneTask).isSome ∧
     CrReached s (newTask s 1 launched 0 oneTask 0 0 0 0 0)) ∧
    (let s := ringed.setLaunch 1 (some finished)
     s.launch 1 = some finished ∧ finished.nodes.all (fun m => m.complete) = true ∧ finished.compl.toNat % 16 = 0 ∧ PartReaches s 0 finished.vd finished.asn .store finished.compl.toNat 16) := by
  have made : CrReached (ringed.setLaunch 1 (some launched)) (newTask (ringed.setLaunch 1 (some launched)) 1 launched 0 oneTask 0 0 0 0 0) :=
    FirstPage.reaches (t := tableLeaf) (o := 1) (n := 0) (first_page (by decide +kernel)) (by decide) (by decide +kernel) (by decide +kernel)
  have told : PartReaches (ringed.setLaunch 1 (some finished)) 0 finished.vd finished.asn .store finished.compl.toNat 16 :=
    FirstPage.reaches (t := tableLeaf) (o := 1) (n := 0) (first_page (by decide +kernel)) (by decide) (by decide +kernel) (by decide +kernel)
  have nodes : NodesAt ringed 1 recordOf [nodeOf] := by refine nodes_at (first_page ?_) ?_ ?_ ?_ ?_ <;> decide +kernel
  have slot : SlotAt ringed 1 0x290000 recordOf ∧ SlotAt (ringed.modVd 1 fun v => { v with lock := false }) 1 0x290000 recordOf := by
    constructor <;> refine slot_at ?_ ?_ ?_ ?_ ?_ <;> decide +kernel
  refine ⟨?_, ?_, ?_, slot.1, slot.2, nodes, ?_, ⟨?_, ?_, ?_, ?_, ?_, ?_, ?_, made⟩, ?_, ?_, ?_, told⟩ <;> decide +kernel

/-- Task 1 alone, as given, on page tables, with a save area in the first GiB or beyond what stage 2 maps. -/
def alone (f : Task → Task) (ps : Word := 0x200001) (c : Ctx → Ctx := id) : State :=
  let s := (paged c).modTask 1 f
  (s.modVd 1 fun v => { v with psbase := ps }).modKiln 0 fun z => { z with ready := if (taskOf s 1).status = .ready then [1] else [] }

/-- A READY task that has not run yet, its kiln's only one, with nothing on any stoker. -/
def waitingTask : Task := { vd := 1, asn := 0, launch := 1, node := 0, lid := 7, index := 0, status := .ready }
def roundState : State :=
  let s := { (paged.setLaunch 1 (some launched)) with tasks := [(1, some waitingTask)] }
  (s.setCtx 0 {}).modKiln 0 fun z => { z with ready := [1] }

/-- The part reaches the save area of task 1 of such a state, whose granule is VD 1's: a write of the area leaves the tables that map it. -/
theorem save_reached {s : State} {x : Task} (h : (s.vd 1).s2root = 0x1001 ∧ clean s = true)
    (own : s.granule 0 = { owner := 64, gen := 0 } ∧ slotKey s 64 0 = some (.own 64 0))
    (t : ∀ p ∈ [0x1000, 0x2000, 0x3000], tagVc (homeTag s (p / 128)) = vcValid)
    (w : BitVec.ofNat 64 (wordOfBytes (s.bytes 0x1000 8)) = 0x2001 ∧ BitVec.ofNat 64 (wordOfBytes (s.bytes 0x2000 8)) = 0x3001 ∧
      BitVec.ofNat 64 (wordOfBytes (s.bytes 0x3000 8)) = 0xF)
    (area : x.vd = 1 ∧ saveBase s x = 0x200000 ∧ s.granule 1 = { owner := 1, gen := 0 } ∧ slotKey s 1 0 = some (.own 1 0))
    (cr : CrReached s x) (q : x.mq.length ≤ 64 ∧ ∀ j ∈ x.streams, (s.ctx j).vq.length ≤ 64) : SaveReached s x := by
  refine ⟨⟨by omega, id, ?_⟩, cr, q⟩
  intro a ha
  unfold InSave at ha
  rw [area.1]
  have sl := sound_line (g := 1) (line := a / 128) h.2 (by omega) (by decide) area.2.2.1
  refine ⟨?_, sl.2, fun v hv => ?_⟩
  · rw [area.2.2.2]; exact sl.1
  have lines : ∀ p ∈ [0x1000, 0x2000, 0x3000], p % 128 = 0 ∧ p / 128 / 16384 = 0 ∧ v.bytes (p / 128 * 128) 128 = s.bytes (p / 128 * 128) 128 ∧
      homeTag v (p / 128) = homeTag s (p / 128) := by
    intro p hp
    have b : p % 128 = 0 ∧ p < 0x4000 := by
      simp only [List.mem_cons, List.not_mem_nil, or_false] at hp
      rcases hp with rfl | rfl | rfl <;> decide
    refine ⟨b.1, by omega, hv.kept _ ?_ ?_⟩
    · unfold region; rw [if_pos (by omega)]
    · rintro ⟨c, hc, e⟩
      unfold InSave at hc
      simp only [id] at e
      omega
  have word : ∀ p ∈ [0x1000, 0x2000, 0x3000], v.bytes p 8 = s.bytes p 8 := by
    intro p hp
    obtain ⟨e, _, m, _⟩ := lines p hp
    rw [show p / 128 * 128 = p by omega] at m
    have head : ∀ u : State, u.bytes p 8 = (u.bytes p 128).take 8 := fun _ => rfl
    rw [head, head, m]
  have key : slotKey v 64 0 = slotKey s 64 0 := by unfold slotKey State.vd; rw [hv.vds]
  refine guest_place (by omega) ?_ (fun p hp => ?_) ?_
  · unfold State.vd; rw [hv.vds]; exact h.1
  · obtain ⟨_, g, _, e⟩ := lines p hp
    rw [e, key, own.2]
    exact ⟨hv.sound _ _ (sound_line (g := 0) h.2 g (by decide) own.1).1, t p hp⟩
  · rw [word _ (by simp), word _ (by simp), word _ (by simp)]; exact w

/-- What stops a save. -/
def stopOf (o : Except SaveStop State) : Option SaveStop := match o with | .ok _ => none | .error e => some e

-- deadlines now and next; the one free core; a stream halted and retired; a gang's reservation of 2^20 cycles; a task ready for 2^22; requests by register for all and for its own
-- window; a save that is made, one whose area stage 2 does not map, and one with a line being switched
theorem meets_flue_events :
    (let s := alone fun x => { x with status := .suspended, reason := .suspend, waitUntil := some 0 }
     s.task 1 = some (taskOf s 1) ∧ (taskOf s 1).status = .suspended ∧ (taskOf s 1).reason = .suspend ∧ (taskOf s 1).waitUntil = some 0 ∧ 0 ≤ s.now ∧ s.now < 1 ∧ CrReached s (taskOf s 1)) ∧
    (let s := roundState
     s.task 1 = some waitingTask ∧ s.tasks = [(1, some waitingTask)] ∧ (s.kiln 0).ready = [1] ∧ (waitingTask.kiln = 0 ∧ waitingTask.status = .ready ∧ waitingTask.energyWait = false ∧ waitingTask.pre = false ∧
       waitingTask.energy = 0 ∧ waitingTask.cord = false) ∧ vdEnabled s 1 = true ∧ s.launch 1 = some launched ∧ launched.nodes[0]?.map (·.bar) = some 0 ∧ fits s waitingTask [1] 0 = true) ∧
    (let s := alone (fun x => { x with reason := .yield }) 0
     (taskOf s 1).xctx = some 0 ∧ (taskOf s 1).status = .running ∧ (taskOf s 1).reason ≠ .none ∧ mayPass s (taskOf s 1) = true ∧ heldTask s 0 = false ∧ (s.ctx 0).lost = none ∧ FrameReached s (taskOf s 1)) ∧
    (let s := alone id 0 fun c => { c with halted := true }
     (taskOf s 1).xctx = some 0 ∧ queuesEmpty s (taskOf s 1) = true ∧ unretired s 0 1 = false ∧ heldTask s 0 = false ∧ (∀ j ∈ (taskOf s 1).streams, (s.ctx j).halted = true ∧ (s.ctx j).faulted = false) ∧
       CrReached s (taskOf s 1)) ∧
    (let s := { (alone id).modKiln 0 fun z => { z with gangSince := some 0, reserved := [(0, 0, 9)] } with now := 2 ^ 20 }
     (s.kiln 0).gangSince = some 0 ∧ (s.kiln 0).reserved = [(0, 0, 9)] ∧ (s.ctx (ctxId 0 0)).task = some 1 ∧ (taskOf s 1).status = .running ∧ (taskOf s 1).reason = .none ∧ (taskOf s 1).cord = false ∧
       bit (s.vd 1).psbase 0 = true) ∧
    (let s := alone id
     let s := (((s.modVd 2 fun v => { v with enabled := true, s2root := 1 }).setTask 2 (some { waitingTask with vd := 2 })).modKiln 0 fun z => { z with ready := [2], vtime := [(1, 5)] })
     let s := { s with now := 2 ^ 22 }
     (readyTasks s 0).find? (fun z => decide (z.2.readySince + 2 ^ 22 ≤ s.now) && !placeable s 0 [] z.1 z.2) = some (2, { waitingTask with vd := 2 }) ∧
       (s.tasksWhere fun z => z.kiln = 0 && z.status = .running && bit (s.vd z.vd).psbase 0 && decide (SMap.get 0 (s.kiln 0).vtime 2 < SMap.get 0 (s.kiln 0).vtime z.vd)) = [(1, taskOf s 1)] ∧
       ((taskOf s 1).status = .running ∧ (taskOf s 1).reason = .none ∧ (taskOf s 1).cord = false ∧ bit (s.vd 1).psbase 0 = true)) ∧
    (let val : Word := 0xC000000000000000
     let s := alone id
     bit val 63 = true ∧ field val 55 48 ≤ 191 ∧ field val 61 56 = 0 ∧ field val 43 33 = 0 ∧ (taskOf s 1).status = .running ∧ (taskOf s 1).core = field val 55 48 ∧ bit val 62 = true ∧ field val 31 0 = 0 ∧
       bit (0x8000000000000000 : Word) 62 = false ∧ (taskOf s 1).win = field 0x8000000000000000 47 44) ∧
    (let s := alone fun x => { x with preReq := true }
     (taskOf s 1).preReq = true ∧ (taskOf s 1).reason = .none ∧ (taskOf s 1).xctx = some 0 ∧ preemptWaits s (taskOf s 1) = false ∧ SaveReached s (taskOf s 1)) ∧
    (let asked := fun x : Task => { x with preReq := true }
     preemptWaits (alone asked 0x200001 fun c => { c with faulted := true }) (taskOf (alone asked) 1) = true ∧
       stopOf (saveTask 1 (taskOf (alone asked) 1) 0 (alone asked 0x40000001)) = some .abandon ∧
       stopOf (saveTask 1 (taskOf (alone asked) 1) 0 ((alone asked).setTag 0x4000 (mkTag 0 vcRecode 127))) = some .wait) := by
  have cr : ∀ (f : Task → Task) (ps : Word) (c : Ctx → Ctx),
      FirstPage (alone f ps c) (taskOf (alone f ps c) 1).core (taskOf (alone f ps c) 1).vd (taskOf (alone f ps c) 1).asn dataLeaf 1 0 →
      (taskOf (alone f ps c) 1).cr.toNat = 0x16000 → CrReached (alone f ps c) (taskOf (alone f ps c) 1) := by
    intro f ps c p q
    refine p.reaches (by decide) ?_ ?_ <;> simp [q, dataLeaf, placedLeaf]
  refine ⟨⟨?_, ?_, ?_, ?_, ?_, ?_, cr _ _ _ (first_page ?_) ?_⟩, ?_, ⟨?_, ?_, ?_, ?_, ?_, ?_, frame_reached (first_page ?_) ?_⟩, ⟨?_, ?_, ?_, ?_, ?_, cr _ _ _ (first_page ?_) ?_⟩, ?_, ?_, ?_,
    ⟨?_, ?_, ?_, ?_, save_reached ?_ ?_ ?_ ?_ ?_ (cr _ _ _ (first_page ?_) ?_) ?_⟩, ?_⟩ <;> decide +kernel

theorem meets_register_and_reset_events :
    (∀ core ∈ [0, 191], core < 192) ∧
    (let s := (State.reset.modCore 0 fun c => { c with rec0A := wholeCoreA 1, rec0B := wholeCoreB })
     badRecords (s.core 0).rec0A (s.core 0).rec0B 0 0 = false ∧ badRecords (wholeCoreA 1) wholeCoreB (wholeCoreA 2) wholeCoreB = true) ∧
    (let s := vec.modCore 0 fun c => { c with pctlNext := some (wholeCoreA 2, wholeCoreB, 0, 0) }
     (s.core 0).pctlNext = some (wholeCoreA 2, wholeCoreB, 0, 0) ∧ s.task 1 = some (taskOf s 1) ∧ (taskOf s 1).core = 0 ∧ (taskOf s 1).status = .running ∧ bit (s.core 0).part0A 0 = true ∧
       field (s.core 0).part0A 6 1 = (taskOf s 1).vd) ∧
    (let s := State.reset.modCore 0 fun c => { c with pctlNext := some (wholeCoreA 2, wholeCoreB, 0, 0) }
     (s.core 0).pctlNext = some (wholeCoreA 2, wholeCoreB, 0, 0) ∧ s.tasks = []) ∧
    ((State.reset.vds.any fun z => z.2.lock) = false ∧ (vec.vds.any fun z => z.2.lock) = true ∧ field (0x10005E3FF : Word) 18 0 + field (0x10005E3FF : Word) 63 32 ≤ 386048) ∧
    (State.reset.pkg.prqWait = [] ∧ ((List.range 64).filter fun j => j ≠ 63).foldl (fun a j => a + prqQuota State.reset j) 0 + max 4 (field (BitVec.ofNat 64 (452 * 2 ^ 46)) 55 46) ≤ 704) ∧
    (launching State.reset 1 = false ∧ launching vec 1 = true ∧ (State.reset.vd 63).rst = false ∧ State.reset.tasks = [] ∧ State.reset.launches = [] ∧ State.reset.pkg.windows = []) ∧
    (∀ z ∈ State.reset.vds, 64 ≤ z.1) := by
  decide +kernel

theorem meets_energy_and_debug_events :
    (vec.task 1 = some (taskOf vec 1) ∧ (taskOf vec 1).vd = 1) ∧
    (({ State.reset with now := 1600000 }).now / 1600000 > State.reset.pkg.refills ∧ ({ State.reset with now := 1599999 }).now / 1600000 ≤ State.reset.pkg.refills ∧
      (State.reset.modVd 5 fun v => { v with rem := -3 }).vds = [(5, { ({} : Vd) with rem := -3 })]) ∧
    (let p := fun (g : Snapshot) (now : Nat) => { State.reset with pkg := { State.reset.pkg with snapshot := g }, now := now }
     (p { armed := some (1, 5, 64) } 64).pkg.snapshot.armed = some (1, 5, 64) ∧ 64 ≤ (p { armed := some (1, 5, 64) } 64).now ∧ (p { armed := some (1, 5, 64) } 63).now < 64 ∧
     (State.reset.pkg.snapshot.armed = none ∧ State.reset.pkg.snapshot.record = none) ∧ (p { record := some (1, 5, 64) } 64).pkg.snapshot.record = some (1, 5, 64)) ∧
    (let s := vec fun c => { c with stopped := true }
     (s.ctx 0).vd = 1 ∧ (s.ctx 0).stopped = true ∧ (s.ctx (ctxId (0 / 4) (0 % 4))).vd = 1) := by
  decide +kernel

/-! Witnesses for the statements about the machine as a whole. -/

/-- The placed word stands at 0x200000, where the stream's PC points. -/
def atCode : State := State.reset.withFetchWord 64 0x0045180FFF2000FD

theorem fetches_at {s : State} (p : (s.ctx 0).mode = .u ∧ (s.ctx 0).vd = 1 ∧ (s.ctx 0).asn = 0 ∧ (s.ctx 0).pc = 0)
    (q : tlbFind s (coreOf 0) 1 0 0 (some .u) .fetch = some (placedLeaf 1 0 0x200000 true) ∧ normalise s 0x200000 = 0x200000 ∧
      slotKey s 1 0 = some (.own 1 0) ∧ bit (s.vd 1).dbgcfg 0 = false) : FetchesAt s 0 0x200000 (some (.own 1 0)) := by
  obtain ⟨m, v, n, c⟩ := p
  refine ⟨by rw [m]; decide, by rw [c]; decide, ⟨placedLeaf 1 0 0x200000 true, ?_, ?_, ?_⟩, by rw [v]; exact q.2.2.2⟩
  · rw [v, n, c, m]; exact q.1
  · rw [c]; exact q.2.1
  · rw [v]; exact q.2.2.1

/-- The same with the code's line held already, other than memory has it. -/
def refetching : State := atCode.modCtx 0 fun c => { c with fetched := [{ line := 0x4000, key := some (.own 1 0), bytes := List.replicate 128 0 }] }

theorem meets_step_runs_decoded :
    CodeAt atCode 0 0x200000 (some (.own 1 0)) ∧ FetchesAt refetching 0 0x200000 (some (.own 1 0)) ∧
    (atCode.sched = .run 0 :: [] ∧ mayIssue atCode 0 = true ∧ bootOf atCode 0 = none ∧ (atCode.ctx 0).stepping = false ∧ (atCode.ctx 0).fetched = []) ∧
    ((refetching.ctx 0).fetched.find? fun f => f.line = 0x200000 / 128 && f.key = some (.own 1 0)).isSome ∧
    BitVec.ofNat 64 (wordOfBytes (atCode.bytes 0x200000 8)) = 0x0045180FFF2000FD ∧ decodeWord 0x0045180FFF2000FC = .ok (.addi { g1 := 2 } 5 6 (-4)) := by
  have line : SoundLine atCode (some (.own 1 0)) (0x200000 / 128) := by refine (sound_line (g := 1) ?_ ?_ ?_ ?_).1 <;> decide +kernel
  refine ⟨⟨fetches_at ?_ ?_, line, ⟨127, ?_⟩, ?_⟩, fetches_at ?_ ?_, ?_⟩ <;> decide +kernel

-- each check in the mode it concerns
theorem meets_issue_checks :
    (user.ctx 0).mode = .u ∧ (Instr.eret {}).traits.modes = .s ∧ (Instr.keyld {} 1 2 3).traits.modes = .m ∧ (Instr.eret {}).traits.word = true ∧
    (handler.ctx 4).mode = .s ∧ handler.focus = 4 ∧ (Instr.halt {}).traits.modes ≠ .m ∧ (encodeF (.vadd {} 1 2 3 0 none)).opc.toNat / 128 ∈ [3, 4, 5, 6] ∧
    (let s := userWith fun c => { c with access := true, pend := some { target := 0, slots := 1 } }
     (s.ctx 0).access = true ∧ privFault .u (.yield {}) = false ∧ (Instr.yield {}).traits.access = false ∧ (s.ctx 0).pend.isSome = true ∧ (Instr.br {} 0 0).traits.slot = false) ∧
    (let s := vec fun c => { c with convoy := some {} }
     (s.ctx 0).mode = .u ∧ (s.ctx 0).convoy.isSome = true ∧ ∀ i ∈ [Instr.bsm { g1 := 1 } 1 (-1), .bsmT {} 1 2, .vsetvl { g1 := 1 } 5 1, .csrw {} 0 1, .rmode {} 1 2],
       privFault .u i = false ∧ placeFault (s.ctx 0) i = false) ∧
    (let s := vec fun c => { c with vq := [.entry { instr := .vtagGet {} 5 1 0, pc := 0 }] }
     issueFault (.add {} 6 5 5) (s.ctx 0) = none ∧ (s.ctx 0).stalls (.add {} 6 5 5) = true) ∧
    ((Instr.add { g1 := 1 } 6 5 5).traits.queue = .stream ∧ ((user.ctx 0).p ((1 : BitVec 4).setWidth 3) ^^ (1 : BitVec 4).getLsbD 3) = false) := by
  decide +kernel

theorem meets_whole_machine :
    (Instr.addi { g1 := 2 } 5 6 (-3)).wf = true ∧ (Instr.addi { g1 := 2 } 5 6 (-3)).traits.word = true ∧ NoFirmware State.reset ∧ MemOk State.reset ∧ MemOk atCode ∧ (∃ t, step atCode = .next t) := by
  have none_m : NoFirmware State.reset := by intro k; simp [State.ctx, State.reset, SMap.get]
  have goes : (match step atCode with | .next _ => true | .fault _ => false | .refused _ => false) = true := by decide +kernel
  refine ⟨by decide, by decide, none_m, ⟨by decide, by decide⟩, ⟨by decide +kernel, by decide +kernel⟩, ?_⟩
  revert goes
  cases step atCode <;> simp

/-! Single steps. The expected values are the spec's own examples, or worked out by hand from its rules. -/

/-- What the step leaves, when it answers a next state. -/
def onNext (o : Host.Outcome State Fault Refusal) (p : State → Bool) : Bool := match o with | .next s => p s | .fault _ => false | .refused _ => false

/-- The value of a register after an instruction on s1 and s2. -/
def gives (i : Instr) (a b : Word) (p : Ctx → Bool) : Bool := onNext (exec i (userWith fun c => (c.setS 1 a).setS 2 b)) fun s => p (s.ctx 0) && (s.ctx 0).pc == 8
def isS (r : BitVec 6) (v : Word) (c : Ctx) : Bool := c.s r == v

-- Table 11.2: -1·-1 high words, shifts by the low six bits, a rotation by one; R278: the corners of division
theorem test_scalar_arithmetic :
    gives (.mulh {} 3 1 2) (-1) (-1) (isS 3 0) ∧ gives (.mulhu {} 3 1 2) (-1) (-1) (isS 3 (-2)) ∧ gives (.shl {} 3 1 2) 3 65 (isS 3 6) ∧ gives (.sra {} 3 1 2) (-8) 1 (isS 3 (-4)) ∧
    gives (.rot {} 3 1 2) 1 1 (isS 3 0x8000000000000000) ∧ gives (.addi {} 3 1 (-3)) 5 0 (isS 3 2) ∧ gives (.addx {} 3 1 2 3) 5 2 (isS 3 21) ∧ gives (.add {} 0 1 2) 5 2 (isS 0 0) ∧
    gives (.andn {} 3 1 2) 0xF 5 (isS 3 0xA) ∧ gives (.min {} 3 1 2) (-1) 1 (isS 3 (-1)) ∧ gives (.minu {} 3 1 2) (-1) 1 (isS 3 1) := by decide +kernel

theorem test_division :
    gives (.div {} 3 1 2) (-7) 2 (isS 3 (-3)) ∧ gives (.rem {} 3 1 2) (-7) 2 (isS 3 (-1)) ∧ gives (.div {} 3 1 2) 0x8000000000000000 (-1) (isS 3 0x8000000000000000) ∧
    gives (.rem {} 3 1 2) 0x8000000000000000 (-1) (isS 3 0) ∧ gives (.divu {} 3 1 2) 7 0 (fun c => isS 3 (-1) c && c.fpmode == 256) ∧
    gives (.remu {} 3 1 2) 7 0 (fun c => isS 3 7 c && c.fpmode == 256) := by decide +kernel

theorem test_bits :
    gives (.clz {} 3 1) 1 0 (isS 3 63) ∧ gives (.ctz {} 3 1) 0 0 (isS 3 64) ∧ gives (.popc {} 3 1) 0xF0F 0 (isS 3 8) ∧ gives (.ext {} 3 1 4 7 true) 0xF80 0 (isS 3 (-8)) ∧
    gives (.ext {} 3 1 4 7 false) 0xF80 0 (isS 3 0xF8) ∧ gives (.ins {} 2 1 4 3) 0xA 0xFFF (isS 2 0xFAF) ∧ gives (.lih {} 2 0x1234 3) 0 1 (isS 2 0x1234000000000001) ∧
    gives (.li {} 2 (-2)) 0 0 (isS 2 (-2)) := by decide +kernel

-- F32 1.5 + 2.25 = 3.75; 1 + 2^-24 ties to even, inexact; Table 4.5: 3.14159274 to BF16, 0.1 to F16; -300 to E4M3
theorem test_scalar_float :
    gives (.fadd {} 3 1 2 0) 0x3FC00000 0x40100000 (isS 3 0x40700000) ∧ gives (.fadd {} 3 1 2 0) 0x3F800000 0x33800000 (fun c => isS 3 0x3F800000 c && c.fpmode == 1) ∧
    gives (.fadd {} 3 1 2 11) 0x3F800000 0x33800000 (fun c => isS 3 0x3F800001 c && c.fpmode == 1) ∧ gives (.fmul {} 3 1 2 0) 0x40D00000 0xBF800000 (isS 3 0xC0D00000) ∧
    gives (.fcvt {} 3 1 0x12 0x10 0) 0x40490FDB 0 (isS 3 0x4049) ∧ gives (.fcvt {} 3 1 0x11 0x10 0) 0x3DCCCCCD 0 (isS 3 0x2E66) ∧
    gives (.fcmp {} 2 1 2 2) 0x3F800000 0x7FC00000 (fun c => !c.p 2 && c.fpmode == 16) := by decide +kernel

-- R285 to R291: a comparison; PBR from a register; CALL with one delay slot; the strip-mine branch on 100 elements
theorem test_control :
    gives (.cmp {} 2 1 2 2) (-1) 1 (·.p 2) ∧ gives (.cmp {} 2 1 2 6) (-1) 1 (fun c => !c.p 2) ∧ gives (.pbr {} 1 (.reg 1)) 0x100 0 (fun c => c.b 1 == 0x100) ∧
    gives (.pbr {} 1 (.rel 2)) 0 0 (fun c => c.b 1 == 16) ∧ gives (.call {} 3 0 1) 0 0 (fun c => isS 3 16 c && c.pend == some { target := 0, slots := 1 }) ∧
    onNext (exec (.bsm {} 1 4) (userWith fun c => c.setS 1 100)) (fun s => (s.ctx 0).pc == 32 && (s.ctx 0).vl == 64 && (s.ctx 0).smprev == 100) ∧
    onNext (exec (.br {} 1 0) (userWith fun c => c.setB 1 0x40)) (fun s => (s.ctx 0).pc == 0x40) := by decide +kernel

-- R298, R302: bytes 1 to 8 at 0x10000, little-endian; sign extension of a stored byte; an addition returns the old word
theorem test_memory :
    onNext (exec (.ldw {} 2 1 true .rlx 4 .stream) (memory 0x10000)) (fun s => (s.ctx 0).s 2 == 0x08070605) ∧
    onNext (exec (.ldd {} 2 1 .rlx 0 .stream) (memory 0x10000)) (fun s => (s.ctx 0).s 2 == 0x0807060504030201) ∧
    onNext (exec (.ldb {} 2 1 true .rlx 0 .stream) ((memory 0x10000).setBytes 0x210000 [0x80])) (fun s => (s.ctx 0).s 2 == 0xFFFFFFFFFFFFFF80) ∧
    onNext (exec (.sth {} 1 2 2 .rlx .stream) (memory 0x10000 fun c => c.setS 2 0xABCD)) (fun s => s.bytes 0x210000 5 == [1, 2, 0xCD, 0xAB, 5]) ∧
    onNext (exec (.aadd {} 3 1 2 false .rlx .kiln) (memory 0x10000 fun c => c.setS 2 0xFFFFFFFF)) (fun s => (s.ctx 0).s 3 == 0x04030201 && s.bytes 0x210000 5 == [0, 2, 3, 4, 5]) ∧
    onNext (exec (.ldd {} 2 1 .acq 0 .kiln) (memory 0x10004)) (fun s => (s.core 0).faults.map (fun w => (w.info.cause, w.info.etval)) == [(.illegalOp, 0x10004)]) := by decide +kernel

-- the example of R126: target 1,000, generation 7, four credits of 256 bytes
theorem test_sync_word :
    creditWord 0x3E8000000007 768 = 0x3E8000030007 ∧ creditWord 0x3E8000030007 256 = 0x3E8000001808 ∧
    onNext (exec (.swset {} 4 1) (memory 1000)) (fun s => (s.entry 0 4).sync == 0x3E8000000000) := by decide +kernel

-- the shape and attribute words of the example of R316: 128 lines, 4 granules; the rectangle of its HTEN.WRITE, two cells
theorem test_handles :
    (shapeOf 0x0064002000100101).footprint 32 = 128 ∧ shapeWordOk 0x0064002000100101 = true ∧ (rectCells (shapeOf 0x0064002000100101) 5 0x000000050046001E) = some [3, 5] ∧
    onNext (exec (.halloc {} 7 3 1 2) (handles (four 0x0040000100100100 0x10 0 0))) (fun s => (s.ctx 0).s 3 == 0 && (s.entry 0 7).level == 0 && (s.entry 0 7).footprint == 2 && (s.entry 0 7).valid) := by decide +kernel

-- the lane product of the fragment of chapter 14: 1.5 in BF16 added to an E4M3 row of tag 0x4C3D00, whose 0x7C reads 12.0, gives BF16 13.5
def mixed : State := vec fun c => (c.setRow 1 0 { tag := 0x483F80, data := Vector.replicate 64 0x3FC0 }).setRow 2 0 { tag := 0x4C3D00, data := Vector.replicate 64 0x7C }
theorem test_vector_add : onNext (exec (.vadd {} 7 1 2 0 none) mixed) fun s =>
    ((s.ctx 0).row 7 0).tag == 0x483F80 && elemAt (s.ctx 0) 7 0 1 == 0x4158 && elemAt (s.ctx 0) 7 0 2 == 0 && bit (s.ctx 0).vdirty 7 = true := by decide +kernel

-- the examples of R94: F32 1000.0 and 460.0 and a NaN written as E4M3 and E2M1; Table 4.5: 2.5 to E2M1
theorem test_conversion :
    (let s := fun (e : BitVec 32) => vec fun c => c.setRow 1 0 { tag := 0x403F80, data := Vector.replicate 64 e }
     onNext (exec (.vcvt {} 7 1 0x13 (some 4) 0 none 0) (s 0x447A0000)) (fun s => elemAt (s.ctx 0) 7 0 0 == 0x7E && (s.entry 0 4).ovf == 2) ∧
     onNext (exec (.vcvt {} 7 1 0x13 none 0 none 0) (s 0x43E60000)) (fun s => elemAt (s.ctx 0) 7 0 0 == 0x7E && bit (s.ctx 0).vstat 2 == false) ∧
     onNext (exec (.vcvt {} 7 1 0x15 none 0 none 0) (s 0x7FC00000)) (fun s => elemAt (s.ctx 0) 7 0 0 == 7 && (s.ctx 0).vstat &&& 0x14 == 0x14) ∧
     onNext (exec (.vcvt {} 7 1 0x15 none 0 none 0) (s 0x40200000)) (fun s => elemAt (s.ctx 0) 7 0 0 == 4)) := by decide +kernel

-- the example of R344: the two blocks of VQBLK.E4M3 at vl 40
theorem test_vqblk : onNext (exec (.vqblk {} 7 8 1 none 0 1) (vec fun c => { c.setRow 1 0 { tag := 0x483F80, data := ((Vector.replicate 64 0).set 0 0x4140).set 1 0xBF40 |>.set 32 0x3DCD } with vl := 40 }))
    (fun s => (List.range 64).map (fun l => (elemAt (s.ctx 0) 7 0 l).toNat) == 0x7C :: 0xDC :: List.replicate 30 0 ++ [0x7D] ++ List.replicate 31 0 &&
      (elemAt (s.ctx 0) 8 0 0 == 0x7A && elemAt (s.ctx 0) 8 0 1 == 0x73 && elemAt (s.ctx 0) 8 0 2 == 0) && tagAt (s.ctx 0) 8 0 == 0x643F80 && bit (s.ctx 0).vstat 2 == false) := by decide +kernel

-- the example of R370: VEXP2 of BF16 0.5, under RNE and under RUP
def half (m : BitVec 3) : State := vec fun c => { c.setRow 1 0 { tag := 0x483F80, data := Vector.replicate 64 0x3F00 } with vl := 1, vqMode := m }
theorem test_vexp2 : onNext (exec (.vexp2 {} 7 1 0 none) (half 0)) (fun s => elemAt (s.ctx 0) 7 0 0 == 0x3FB5 && bit (s.ctx 0).vstat 0) ∧
    onNext (exec (.vexp2 {} 7 1 0 none) (half 3)) (fun s => elemAt (s.ctx 0) 7 0 0 == 0x3FB6) := by decide +kernel

-- a row of two lanes: the sum of 1.0 and 1.0 in lane 0; a rotation by one; an empty group sets NOACT
theorem test_vector_axis :
    onNext (exec (.vred {} 7 1 0 none false 0) vec) (fun s => elemAt (s.ctx 0) 7 0 0 == 0x40000000) ∧
    onNext (exec (.vred {} 7 1 0 (some 2) false 0) vec) (fun s => elemAt (s.ctx 0) 7 0 0 == 0 && bit (s.ctx 0).vstat 5) ∧
    onNext (exec (.vrot {} 7 1 1 0 none false) (vec fun c => (c.setRow 1 0 { tag := 0x403F80, data := (Vector.replicate 64 0).set 1 9 }).setS 1 1)) (fun s => elemAt (s.ctx 0) 7 0 0 == 9) := by
  decide +kernel

-- the example of R382: RNE and RUP, chunk by chunk
def mmaRow (a b : BitVec 32) : Row := { tag := 0x483F80, data := ((Vector.replicate 64 0).set 0 a).set 1 b |>.set 16 0x3F80 }
def mmaState (m : BitVec 3) : State :=
  (mat 1 0x10 fun c => { (c.setRow 16 0 (mmaRow 0x4B80 0x3F80)).setRow 0 0 (mmaRow 0x3F80 0x3F80) with vl := 32 }).modTask 1 fun x => { x with mqMode := m }
theorem test_mma : onNext (exec (.mma {} 0 16 0 none none 3) (mmaState 0)) (fun s => s.acc 0 0 0 0 0 == 0x4B800000 && bit (s.ctx 0).vstat 0) ∧
    onNext (exec (.mma {} 0 16 0 none none 3) (mmaState 3)) (fun s => s.acc 0 0 0 0 0 == 0x4B800002) := by decide +kernel

-- the example of R409: GATH's duplicate mask
theorem test_gath : onNext (exec (.gath {} 5 4 1 3 2 0 3 false) (vec fun c =>
      { ((c.setS 1 0x100000).setRow 3 0 { tag := 0x0C3F80, data := (Vector.replicate 64 3).set 1 7 }) with vl := 4, vps := c.vps.set 2 15 }))
    (fun s => (s.ctx 0).vp 2 == 12 && (s.ctx 0).s 5 == 0xC000000000000001 && ((s.chan 0 3).transfers.map fun x => x.lanes) == [[(0, 0x10000C), (1, 0x10001C), (2, 0x10000C), (3, 0x10000C)]]) := by decide +kernel

-- Table 18.1, R431: a fault is delivered at TVEC with s1 = TSCR; ERET goes back to epc
theorem test_fault_and_return :
    onNext (exec (.trap {} 5) user) (fun s => (s.core 0).faults.map (fun w => (w.info.cause, w.info.etval, w.info.epc)) == [(.trapInstr, 5, 8)] && (s.ctx 0).faulted) ∧
    onNext (exec (.faultDelivery 0) ((faulting 0x1001).modVd 1 fun v => { v with tscr := 0x77 })) (fun s => (s.ctx 4).pc == 0x1000 && (s.ctx 4).s 1 == 0x77 && (s.ctx 4).mode == .s && (s.ctx 4).cause == 0x40) ∧
    onNext (exec (.eret {}) handler) (fun s => (s.ctx 0).pc == 8 && !(s.ctx 0).faulted && !(s.ctx 4).live) := by decide +kernel

-- R219: a fault of the placed word's stream reaches its core's faults through step; a placed word runs as the first instruction
theorem test_step : onNext (step atCode) (fun s => (s.ctx 0).pc == 8) ∧ onNext (step (State.reset.withFetchWord 64 0x2340000000000000)) (fun s => (s.ctx 0).halted) ∧
    onNext (step (State.reset.withFetchWord 64 0xE009000001000001)) (fun s => (s.core 0).faults.map (fun w => w.info.cause) == [.privOp]) := by decide +kernel
end Sys2Proof.Tests
end

section
/-!
Tile coherence (chapter 06): the statements on the tenure instructions and on HEVICT fail. Each refutation runs the model on one state, in which
task 1 of VD 1 issues its instruction on handle 0 from core 0. TenureResults does not ask that a tensor's cells are listed in the canonical form of
the sparse map; ResidencyResults does not ask that the stack a line stands in survives the write-backs before it.
-/

namespace Sys2Proof.Proofs.TileCoherence

open Sys2Proof Sys2Proof.Machine

/-! A stream with one handle. -/

/-- The task whose execute stream runs on context 0. -/
def issuer : Task := { vd := 1, asn := 0, launch := 0, node := 0, lid := 0, index := 0 }

/-- The state s with that task on context 0, and e the entry of its handle 0. -/
def holding (s : State) (e : HEntry) : State := ((s.setCtx 0 { task := some 1, vd := 1 }).setTask 1 (some issuer)).setEntry 0 0 e

theorem holding_handleAt (s : State) {e : HEntry} (valid : e.valid = true) (level : e.level ≤ 4) : HandleAt (holding s e) 0 0 1 issuer 0 e where
  task := ⟨by simp [holding, State.setEntry], by simp [holding, State.setEntry]⟩
  entry := ⟨rfl, by simp [holding, State.setEntry, State.entry, coreOf]⟩
  valid := ⟨valid, level⟩

/-! HTEN.WRITE: a grant that needs more directory entries than the statement counts. -/

/-- A cell that another task holds under WRITE: no directory entry of it may be taken (R146). -/
def foreignCell : Cell := { state := .write, holder := some { task := 2, h := 0 } }

/-- A scratchpad tensor of one grid cell, and the directory's name for it. -/
def padEntry : HEntry := newEntry 0x0040000100100100 0x2003 7 (2 ^ 9)
def padId : TensorId := .core 0 0 1

/-- Its directory, which lists cell 0 twice, IDLE first, and cell 1 twice below it. Where the request joins, the second listing of cell 0 is lost, and
with it the rectangle that it makes with cell 1: of two entries three become. -/
def doubledDir : TensorDir := { id := padId, cells := [(0, {}), (0, foreignCell), (1, foreignCell), (1, foreignCell)] }

/-- Kiln tensors of which core 0 holds a cell each; with the two entries of the tensor above they fill the core's 1,024. -/
def kilnDirs : List TensorDir := (List.range 1022).map fun j => { id := .kiln 0 j 1, cells := [(0, foreignCell)] }

def fullDirectory : State := holding { State.reset with coh := { State.reset.coh with dirs := doubledDir :: kilnDirs } } padEntry

/-- The stream on context 0 waits at its instruction. -/
def waits : Host.Outcome State Fault Refusal → Bool
  | .next s => (s.ctx 0).waitSince.isSome
  | .fault _ | .refused _ => false

/-- A stream that moves past its instruction has begun anew. -/
theorem not_waits_passed (w : State) : waits (Passed 0 w) = false := by
  have anew : (w.ctx 0).advance.waitSince = none := by
    unfold Ctx.advance
    dsimp only
    split
    · rfl
    · split <;> rfl
  simp [waits, Passed, anew]

/-- The entry that the grant wants is not found: the request waits. -/
theorem htenWrite_waits : waits (exec (.htenWrite {} 0 0 0) fullDirectory) = true := by decide +kernel

/-- The entries of core 0's directory as the statement counts them after the grant. -/
theorem entries_within :
    dirEntries (fullDirectory.setDir { (fullDirectory.dir padId).modCells [0] (Cell.grantWrite · (some { task := 1, h := 0 }) 0) with
      cols := gridCols padEntry }) 8 ≤ dirCapacity 8 := by decide +kernel

/-- Refutes O15: HTEN.WRITE of an idle cell that no one else asks for waits, though the directory after the grant would hold its 1,024 entries: the
tensor's cells are not in canonical form, and joining the queue leaves them listed otherwise than the grant alone does. -/
theorem not_tenureResults : ¬ Obligations.TenureResults := by
  unfold Obligations.TenureResults
  intro holds
  obtain ⟨_, _, _, _, _, _, _, asksWrite, _⟩ :=
    holds {} 0 0 0 fullDirectory 1 issuer 0 padEntry (holding_handleAt _ (by decide) (by decide))
  have queue : (fullDirectory.dir padId).queue = [] := by decide +kernel
  have issues : Issues (.htenWrite {} 0 0 0) fullDirectory := by unfold Issues IssuesAt; decide +kernel
  have idle : ∀ n ∈ [0], ((fullDirectory.dir padId).cell n).conflicts .write 1 fullDirectory.now = false := by decide +kernel
  obtain ⟨granted, _⟩ := asksWrite padId [0] issues (by decide +kernel) (by decide +kernel)
    (by intro n hn; obtain rfl : n = 8 := by simpa [padId, TensorId.top, TensorId.path] using hn
        exact entries_within)
    (by intro r hr; exact absurd (queue ▸ hr) (List.not_mem_nil))
  obtain ⟨w, passes, _⟩ := granted idle (by intro r hr; exact absurd (queue ▸ hr) (List.not_mem_nil))
  have waiting := htenWrite_waits
  rw [passes] at waiting
  exact absurd waiting (by rw [show fullDirectory.focus = 0 from rfl, not_waits_passed]; decide)

/-! HEVICT: a write-back whose stack fails on the way. -/

/-- An untracked MEM tensor. -/
def memEntry : HEntry := { newEntry 0x0040000100100100 0x20D2 8 0x200 with tracked := false }

/-- A line whose next transfer is exhausted (R177), and a good one after it in the same stack. -/
def exhaustedLine : Nat := 4784
def goodLine : Nat := 4800

/-- The copy of the good line, written since it was read. -/
def goodCopy : Copy := { data := 1, tag := mkTag 0 vcValid 126, dirty := 1 }

/-- The tensor as kiln 0 caches it, both lines written. -/
def cached : Resident :=
  { kiln := 0, vd := 1, asn := 0, e := memEntry, lines := 2, last := 0,
    copies := [(exhaustedLine, some { data := 1, tag := mkTag 0 vcValid 126, dirty := 1 }), (goodLine, some goodCopy)] }

/-- The poison list of stack 0 lacks one line to be full (R177). -/
def failingStack : State :=
  let s := State.reset
  holding (State.setTag { s with coh := { s.coh with resident := [cached] },
                                 hbm := { s.hbm with errors := [(exhaustedLine, some (.crc 9))], poison := (List.range 255).map (16 * ·) } }
    goodLine (mkTag 0 vcValid 127)) memEntry

/-- The tag that the good line is left with. -/
def goodTag : Host.Outcome State Fault Refusal → Tag
  | .next s => homeTag s goodLine
  | .fault _ | .refused _ => 0

/-- Moving on leaves the tag. -/
theorem goodTag_passed (w : State) : goodTag (Passed 0 w) = homeTag w goodLine := rfl

/-- The exhausted line fills the list, the stack enters FAILED, and the good line's write is not performed. -/
theorem hevict_leaves_tag : goodTag (exec (.hevict {} 0) failingStack) = mkTag 0 vcValid 127 := by decide +kernel

theorem goodLine_good : GoodLine failingStack (some (.own 64 0)) goodLine where
  hbm := by decide +kernel
  key := ⟨by decide +kernel, by simp⟩
  good := by decide +kernel
  still := by decide +kernel
  tag := ⟨0, 127, by decide +kernel, by decide⟩

/-- Refutes O16: HEVICT does not write a good line back when a line of its stack, written back before it, brings the stack's poison list to 256. -/
theorem not_residencyResults : ¬ Obligations.ResidencyResults := by
  unfold Obligations.ResidencyResults
  intro holds
  have issues : Issues (.hevict {} 0) failingStack := by unfold Issues IssuesAt; decide +kernel
  have resident : failingStack.coh.resident = [cached] := rfl
  have only : ∀ r ∈ failingStack.coh.resident, r = cached := fun r hr => List.mem_singleton.mp (resident ▸ hr)
  obtain ⟨evicts, _⟩ := (holds {} 0 false false failingStack 1 issuer 0 memEntry (holding_handleAt _ (by decide) (by decide))).1 issues
  obtain ⟨w, passes, _, _, _, written, _⟩ := evicts (.inl (by decide)) fun r hr u hu _ _ => (only r hr).trans (only u hu).symm
  obtain ⟨_, tag⟩ := written cached (by rw [resident]; exact List.mem_singleton.mpr rfl) (by decide +kernel) (by decide) goodLine goodCopy
    (by decide +kernel) (by decide +kernel) (.inr ⟨_, goodLine_good, 0, 126, rfl, by decide⟩)
  have left := hevict_leaves_tag
  rw [passes, show failingStack.focus = 0 from rfl, goodTag_passed, tag] at left
  exact absurd left (by decide +kernel)

end Sys2Proof.Proofs.TileCoherence
end

section
/-!
The consistency model (chapter 08): a step is the meaning of the instruction that it fetches and decodes. The turn of a stream is taken apart first;
then the fetch: the PC's translation, the line that the agent holds, or the line of published code as memory has it, whose bytes become a number and
bytes again on the way.
-/

namespace Sys2Proof.Proofs.ConsistencyModel

open Sys2Proof Sys2Proof.Machine

/-! Bytes and the numbers they spell. -/

theorem wordOfBytes_lt (bs : List Byte) : wordOfBytes bs < 2 ^ (8 * bs.length) := by
  induction bs with
  | nil => simp [wordOfBytes]
  | cons b bs ih =>
    rw [wordOfBytes, List.length_cons, show 8 * (bs.length + 1) = 8 * bs.length + 8 by omega, Nat.pow_add]
    omega

theorem bytesOfNat_wordOfBytes (bs : List Byte) : bytesOfNat bs.length (wordOfBytes bs) = bs := by
  induction bs with
  | nil => rfl
  | cons b bs ih =>
    have low : BitVec.ofNat 8 (b.toNat + 256 * wordOfBytes bs) = b := BitVec.eq_of_toNat_eq (by simp; omega)
    have high : (b.toNat + 256 * wordOfBytes bs) / 256 = wordOfBytes bs := by omega
    rw [wordOfBytes, List.length_cons, bytesOfNat, low, high, ih]

/-- A run of bytes, read as a number of as many bits, is spelled by it again. -/
theorem bytesOfNat_ofNat (bs : List Byte) : bytesOfNat bs.length (BitVec.ofNat (8 * bs.length) (wordOfBytes bs)).toNat = bs := by
  rw [BitVec.toNat_ofNat, Nat.mod_eq_of_lt (wordOfBytes_lt bs), bytesOfNat_wordOfBytes]

/-- The same of a line's 128 bytes. -/
theorem bytesOfNat_line {bs : List Byte} (h : bs.length = 128) : bytesOfNat 128 (BitVec.ofNat 1024 (wordOfBytes bs)).toNat = bs := by
  have spelled := bytesOfNat_ofNat bs
  rw [h] at spelled
  exact spelled

@[simp] theorem bytes_length (s : State) (a n : Nat) : (s.bytes a n).length = n := by
  induction n generalizing a with
  | zero => rfl
  | succ n ih => rw [State.bytes, List.length_cons, ih]

/-- A run of bytes within a longer one. -/
theorem bytes_within (s : State) (a : Nat) {len off n : Nat} (h : off + n ≤ len) : ((s.bytes a len).drop off).take n = s.bytes (a + off) n := by
  refine List.ext_getElem? fun i => ?_
  rw [List.getElem?_take, List.getElem?_drop]
  split
  · next hi => rw [s.bytes_byte len a _ (by omega), s.bytes_byte n _ i hi, Nat.add_assoc]
  · next hi => exact (List.getElem?_eq_none (by simpa using hi)).symm

/-- The eight bytes at h, a multiple of 8, are in its line's. -/
theorem wordIn_line (s : State) {h : Nat} (aligned : h % 8 = 0) :
    wordIn (s.bytes (h / 128 * 128) 128) (h % 128) = BitVec.ofNat 64 (wordOfBytes (s.bytes h 8)) := by
  rw [wordIn, bytes_within s _ (by omega), Nat.div_add_mod']

/-! A scheduled turn. -/

theorem step_of_sched {s : State} {t : Turn} {rest : List Turn} (h : s.sched = t :: rest) : step s = tick (takeTurn t { s with sched := rest }) := by
  unfold step nextTurn; rw [h]

/-- STEP concerns no other turn (R482). -/
theorem noteStep_of_not_stepping {s : State} {k : Nat} (h : (s.ctx k).stepping = false) (o : Host.Outcome State Fault Refusal) :
    noteStep s k o = o := by
  unfold noteStep
  split
  · simp [h]
  · rfl

/-- The turn of a stream that may issue and has nothing to load before its instruction. -/
theorem runTurn_of_mayIssue {s : State} {k : Nat} (may : mayIssue s k = true) (boot : bootOf s k = none) (free : (s.ctx k).stepping = false) :
    runTurn k s = fetchTurn k s := by
  unfold runTurn
  rw [may, boot]
  exact noteStep_of_not_stepping free _

theorem performWord_of_decoded {s : State} {k : Nat} {w : Word} {i : Instr} (h : decodeWord w = .ok i) : performWord k w s = exec i s := by
  unfold performWord; rw [h]

theorem fetchTurn_of_decoded {s v : State} {k : Nat} {w : Word} {i : Instr} (fetched : fetchWord k s = .ok (w, v)) (h : decodeWord w = .ok i) :
    fetchTurn k s = exec i (latch v k w) := by
  unfold fetchTurn
  rw [fetched]
  exact performWord_of_decoded h

/-! Effects in sequence. -/

/-- An effect goes on from what its first part answered, in the state that part left. -/
theorem op_bind {α β : Type} {m : Op α} {f : α → Op β} {s t : State} {v : α} (h : m s = .ok (v, t)) : (m >>= f) s = f v t := by
  show (m s >>= fun x => f x.1 x.2) = f v t
  rw [h]
  rfl

theorem get_bind {α : Type} (f : State → Op α) (s : State) : ((get : Op State) >>= f) s = f s s := rfl

theorem set_bind {α : Type} (t : State) (f : PUnit → Op α) (s : State) : ((set t : Op PUnit) >>= f) s = f ⟨⟩ t := rfl

/-- With its VD's watchpoints off an access goes on (R480). -/
theorem watch_quiet {s : State} {cl : Client} (h : bit (s.vd cl.vd).dbgcfg 0 = false) (acc lo hi : Nat) (handle : Option (Nat × Nat)) :
    watch cl acc lo hi handle s = .ok ((), s) := by
  unfold watch
  rw [get_bind]
  simp only [h, Bool.not_false, Bool.or_true, if_true]
  rfl

/-! Translation. -/

theorem translate_of_found {s : State} {cl : Client} {va : Nat} {a : Access} {t : TlbEntry} (mode : cl.mode ≠ some .m)
    (found : tlbFind s cl.core cl.vd cl.asn va cl.mode a = some t) : Machine.translate cl va a s = .ok ((normalise s (t.out va), some t), s) := by
  unfold Machine.translate
  rw [get_bind]
  simp only [mode, if_false, found]
  rfl

/-- The line at which stream k fetches. -/
def fetchPlace (s : State) (k : Nat) (t : TlbEntry) : Place :=
  { line := normalise s (t.out (s.ctx k).pc.toNat) / 128, va := BitVec.ofNat 64 (s.ctx k).pc.toNat, pol := t.attrs.tagpol, strict := t.attrs.strict,
    trk := t.attrs.trk, grain := t.attrs.grain, key := slotKey s (s.ctx k).vd t.attrs.key, vd := (s.ctx k).vd, leaf := some t }

theorem placeAt_fetch {s : State} {k : Nat} {t : TlbEntry} (mode : (s.ctx k).mode ≠ .m)
    (found : tlbFind s (coreOf k) (s.ctx k).vd (s.ctx k).asn (s.ctx k).pc.toNat (some (s.ctx k).mode) .fetch = some t) :
    placeAt (clientOf s k) (s.ctx k).pc.toNat .fetch s = .ok (fetchPlace s k t, s) := by
  have mode' : (clientOf s k).mode ≠ some .m := fun e => mode (Option.some.inj e)
  unfold placeAt
  rw [op_bind (translate_of_found mode' found)]
  rfl

/-- A stream that fetches from h goes to a place in h's line, under its key. -/
theorem fetchesAt_place {s : State} {k h : Nat} {key : Option KeyId} (at_ : FetchesAt s k h key) :
    ∃ pl : Place, placeAt (clientOf s k) (s.ctx k).pc.toNat .fetch s = .ok (pl, s) ∧ pl.line = h / 128 ∧ pl.key = key := by
  obtain ⟨t, found, out, slot⟩ := at_.found
  exact ⟨fetchPlace s k t, placeAt_fetch at_.mode found, by rw [fetchPlace, out], slot⟩

/-! A line of published code. -/

theorem tagVc_mkTag (f : BitVec 6) (vc l : Nat) : tagVc (mkTag f vc l) = vc % 8 := by
  unfold tagVc mkTag
  rw [BitVec.extractLsb'_append_eq_of_le (by decide), BitVec.extractLsb'_append_eq_of_le (by decide), BitVec.extractLsb'_append_eq_of_add_le (by decide)]
  simp

theorem tagFmt_mkTag (f : BitVec 6) (vc l : Nat) : tagFmt (mkTag f vc l) = f := by
  unfold tagFmt mkTag
  rw [BitVec.extractLsb'_append_eq_of_le (by decide), BitVec.extractLsb'_append_eq_of_le (by decide), BitVec.extractLsb'_append_eq_of_le (by decide)]
  simp

/-- What a sound line holds, for a reader under its key: its tag, and its bytes unless its class reads as zeros. -/
theorem homeView_of_sound {s : State} {pl : Place} (sound : SoundLine s pl.key pl.line) (full : readsZero (homeTag s pl.line) = false) :
    homeView s pl = { data := BitVec.ofNat 1024 (wordOfBytes (s.bytes (pl.line * 128) 128)), tag := homeTag s pl.line } := by
  obtain ⟨-, unmarked, unlisted⟩ := sound.good
  have data : lineData s pl.line = BitVec.ofNat 1024 (wordOfBytes (s.bytes (pl.line * 128) 128)) := by
    simp [lineData, sound.hbm, unmarked, unlisted]
  unfold homeView
  simp only [full, data]
  split
  · next w g e => exact absurd e (sound.key.2 w g)
  · rfl

/-- A fetch of a sound line, no LAYER beat standing, reads it as it stands and changes nothing. -/
theorem reach_fetch_of_sound {s : State} {cl : Client} {pl : Place} (sound : SoundLine s pl.key pl.line) (layer : s.coh.layer = []) :
    reach cl pl .fetch false s = .ok (homeView s pl, s) := by
  have errors : meetErrors s pl.line = (s, none) := by unfold meetErrors; rw [sound.good.1]
  have old : layerOld s cl.who pl.line = none := by simp [layerOld, layer]
  have seen : seenLayer s cl.who pl.line = s := by unfold seenLayer; rw [old]
  have view : lineView s cl.who pl = homeView s pl := by unfold lineView; rw [old]
  unfold reach
  rw [get_bind]
  simp only [Bool.false_eq_true, if_false, errors]
  rw [set_bind, get_bind]
  simp only [sound.still, if_false, sound.key.1]
  rw [set_bind, seen, view]
  rfl

/-- A tag of published code lets its line be executed, and its bytes count. -/
theorem code_tag (l : Nat) : vcPoisoned (tagVc (mkTag Fmt.code.toCode vcValid l)) = false ∧ fetchFault (mkTag Fmt.code.toCode vcValid l) = none ∧
    readsZero (mkTag Fmt.code.toCode vcValid l) = false := by
  unfold fetchFault readsZero
  rw [tagVc_mkTag, tagFmt_mkTag]
  decide

/-! Fetching. -/

/-- A line that the agent holds is fetched from as it stands there. -/
theorem fetchWord_of_held {s : State} {k h : Nat} {key : Option KeyId} {f : Fetched} (at_ : FetchesAt s k h key)
    (held : ((s.ctx k).fetched.find? fun f => f.line = h / 128 && f.key = key) = some f) : fetchWord k s = .ok (wordIn f.bytes (h % 128), s) := by
  obtain ⟨pl, placed, line, slot⟩ := fetchesAt_place at_
  unfold fetchWord
  rw [get_bind]
  dsimp only
  rw [op_bind placed, line, slot, held]
  dsimp only
  rw [op_bind (watch_quiet at_.quiet _ _ _ _), at_.aligned.2]
  rfl

/-- What the fetch agent reaches at published code. -/
theorem reach_code {s : State} {k h : Nat} {key : Option KeyId} (code : CodeAt s k h key) (cl : Client) {pl : Place} (line : pl.line = h / 128)
    (slot : pl.key = key) : ∃ v : View, reach cl pl .fetch false s = .ok (v, s) ∧ vcPoisoned (tagVc v.tag) = false ∧ fetchFault v.tag = none ∧
      bytesOfNat 128 v.data.toNat = s.bytes (h / 128 * 128) 128 := by
  obtain ⟨l, tag⟩ := code.code
  obtain ⟨clean, runs, full⟩ := code_tag l
  have sound : SoundLine s pl.key pl.line := by rw [line, slot]; exact code.toSoundLine
  rw [← line] at tag ⊢
  refine ⟨_, reach_fetch_of_sound sound code.layer, ?_⟩
  rw [homeView_of_sound sound (by rw [tag]; exact full), tag]
  exact ⟨clean, runs, bytesOfNat_line (bytes_length _ _ _)⟩

/-- Published code that the agent does not hold is fetched from memory, and held from then on. -/
theorem fetchWord_of_code {s : State} {k h : Nat} {key : Option KeyId} (code : CodeAt s k h key)
    (held : ((s.ctx k).fetched.find? fun f => f.line = h / 128 && f.key = key) = none) : fetchWord k s = .ok (BitVec.ofNat 64 (wordOfBytes (s.bytes h 8)),
      takeFetched s k { line := h / 128, key := key, bytes := s.bytes (h / 128 * 128) 128 }) := by
  obtain ⟨pl, placed, line, slot⟩ := fetchesAt_place code.toFetchesAt
  obtain ⟨v, reached, clean, runs, bytes⟩ := reach_code code (clientOf s k) line slot
  unfold fetchWord
  rw [get_bind]
  dsimp only
  rw [op_bind placed, line, slot, held]
  dsimp only
  rw [op_bind reached, clean, runs]
  dsimp only
  rw [if_neg (by decide), op_bind (watch_quiet code.quiet _ _ _ _), bytes, code.aligned.2, wordIn_line s code.aligned.1]
  rfl

/-! The statement. -/

/-- Nothing that a fetch depends on is the schedule's. -/
theorem fetchesAt_sched {s : State} {k h : Nat} {key : Option KeyId} (at_ : FetchesAt s k h key) (rest : List Turn) :
    FetchesAt { s with sched := rest } k h key := ⟨at_.mode, at_.aligned, at_.found, at_.quiet⟩

theorem codeAt_sched {s : State} {k h : Nat} {key : Option KeyId} (code : CodeAt s k h key) (rest : List Turn) :
    CodeAt { s with sched := rest } k h key :=
  ⟨fetchesAt_sched code.toFetchesAt rest, ⟨code.hbm, code.key, code.good, code.still⟩, code.code, code.layer⟩

/-- Settles O56: the scheduled turn of a stream is its instruction's meaning once the word is fetched, and the fetch answers the word of the line that the
agent holds, or of the published code at its PC. -/
theorem stepRunsDecoded : Obligations.StepRunsDecoded := by
  unfold Obligations.StepRunsDecoded
  intro s rest i
  refine ⟨fun sched => step_of_sched sched, fun k w sched may boot free decoded => ?_⟩
  have runs : ∀ v, fetchWord k { s with sched := rest } = .ok (w, v) → step s = tick (exec i (latch v k w)) := fun v fetched => by
    rw [step_of_sched sched, ← fetchTurn_of_decoded fetched decoded]
    exact congrArg tick (runTurn_of_mayIssue may boot free)
  refine ⟨runs, fun h key => ⟨fun code held word => ?_, fun f at_ held word => ?_⟩⟩
  · subst word
    exact runs _ (fetchWord_of_code (codeAt_sched code rest) held)
  · subst word
    exact runs _ (fetchWord_of_held (fetchesAt_sched at_ rest) held)

end Sys2Proof.Proofs.ConsistencyModel
end
